-- ==== Sys2Proof/Word.lean ====
section
/-! DEFINITION. The words of the machine (R3) and the plainest data the other files are written over. -/

namespace Sys2Proof

/-- A byte of memory (R3). -/
abbrev Byte := BitVec 8

/-- A parcel, 16 bits (R3). -/
abbrev Parcel := BitVec 16

/-- A word, 64 bits (R3). -/
abbrev Word := BitVec 64

/-- A scalar name id, 0 to 255 (R30, R31). -/
abbrev Name := BitVec 8

/-- Sparse data by key: key and value pairs, keys rising, no key twice. -/
abbrev Tab (α : Type) := List (Nat × α)

end Sys2Proof
end

