-- ==== Sys2Proof/Config.lean ====
section
/-! DEFINITION. What the spec leaves to an implementation, or does not state: constants without a value. Nothing in Lean can say what
any of them is, so whatever is proved holds for every value. -/

namespace Sys2Proof.Config

/-- The values that the spec leaves open, one for each number of the state's counter of free values (log entry 5). -/
opaque freeWord : Nat → Word

/-- The address that a strand records for a pop of poisoned data, by the entry's number (R177, log entry 114). -/
opaque poppedAddr : Nat → Word

/-- SHAKE256 with a 64-byte output (R328, R330). -/
opaque shake256 : List Byte → List Byte

/-- KMAC256 with a 32-byte output under the key that only this module holds (R321). -/
opaque kmac256 : List Byte → List Byte

/-- The Ed448 signature over bytes under the module's identity key, 114 bytes (R330). -/
opaque signEd448 : List Byte → List Byte

/-- The SHAKE256 digest of the firmware that is active at reset (R330). -/
opaque bootDigest : List Byte

/-- Whether a signature over a digest is the vendor's (R328). -/
opaque vendorSigned : List Byte → List Byte → Bool

/-- The voltage table's minimum at a frequency in MHz, in mV (R300). -/
opaque voltMin : Nat → Nat

/-- The voltage table's maximum at a frequency in MHz, in mV (R300). -/
opaque voltMax : Nat → Nat

end Sys2Proof.Config
end

