-- ==== Sys2Proof/Syntax.lean ====
section
/-! DEFINITION. The instructions and steps of the SK7, one constructor for each row of the opcode table (R32 to R35).
The operands are the fields of the encoding tables; a step that no encoding names carries what its cause gives it. -/

namespace Sys2Proof

/-- A branch immediate (R27): a signed line offset and a head index. -/
structure Target where
  line : BitVec 11
  head : BitVec 5
deriving DecidableEq, Repr

/-- A vector operand (R30): the stagger bit and the vector id. -/
structure VRef where
  stagger : BitVec 1
  id : BitVec 6
deriving DecidableEq, Repr

/-- An agent id (R16). -/
abbrev Agent := BitVec 32

/-- A message on its way to an inbox port (R214, R215). -/
structure Message where
  /-- the core whose outbound buffer holds it (its key), and the entry's serial number there -/
  core : Nat
  serial : Nat
  target : Agent
  sender : Agent
  launch : Option Nat
  words : List Word
deriving DecidableEq, Repr

/-- A GETS on its way to the producer's quad port (R141): the waiting reader, and what it asks for. -/
structure GetsReq where
  reader : Agent
  core : Nat
  slot : Nat
  /-- the reader's strand, by the model's serial number -/
  uid : Nat
  /-- the write-back that waits for the value -/
  serial : Nat
  /-- for a reader on a peer device: the device, and the SEQ of its STEPRD -/
  from' : Option (Nat × BitVec 32)
  producer : Agent
  step : BitVec 32
  ring : BitVec 2
  off : BitVec 12
deriving DecidableEq, Repr

/-- What goes beside a flit's bytes and their CRC (R333): the link sequence number, the piggybacked acknowledgement, the request to resend from
there on (R335), and the packet's mark. -/
structure Sidecar where
  lsn : BitVec 12
  ack : BitVec 12
  resend : Bool := false
  mark : Bool := false
deriving DecidableEq, Repr

/-- A flit on a link (R333): the bytes that its packet fills of its 64, their CRC, and its sidecar. -/
structure Flit extends Sidecar where
  data : List Byte
  crc : BitVec 32
deriving DecidableEq, Repr

/-- A fabric packet (R333, R368): the header's fields and the payload. -/
structure Packet where
  kind : Nat
  cls : Nat
  src : Nat
  dst : Nat
  av : Bool
  ver : BitVec 16
  seq : BitVec 32
  ack : BitVec 32
  payload : List Byte
  /-- FLITS -/
  flits : Nat := (payload.length - 48 + 63) / 64
  /-- the header's two fields that must be zero -/
  zeroHigh : BitVec 12 := 0#12
  zeroBit : Bool := false
  /-- what no field of the layouts carries (log entry 12): the data of a WRITE is poisoned (R222), an ATOMIC compares as two's complement
  (R201) -/
  mark : Bool := false
  /-- the port that it came by; 48 for a packet of this device -/
  port : Nat := 48
deriving DecidableEq, Repr

/-- The instructions with an encoding, then the steps that no encoding names. -/
inductive Instr where
  -- SYS0, major 0x00 (R33)
  | nop
  | yield
  | exit
  | step
  | errfence
  | hret
  | wfe
  | tret
  | bkpt
  | migpt
  -- jumps and branches (R90 to R93), ALIGN (R94)
  | j (t : Target)
  | jl (a : Name) (t : Target)
  | jr (a : Name)
  | jlr (a b : Name)
  | beq (b c : Name) (t : Target)
  | bne (b c : Name) (t : Target)
  | blt (b c : Name) (t : Target)
  | ble (b c : Name) (t : Target)
  | bgt (b c : Name) (t : Target)
  | bge (b c : Name) (t : Target)
  | bqt (t : Target)
  | bqf (t : Target)
  | bz (a : Name) (t : Target)
  | bnz (a : Name) (t : Target)
  | loop (a : Name) (t : Target)
  | align (tag : BitVec 8) (timeout : BitVec 16)
  -- two-operand integer operations (R73)
  | add (a b c : Name)
  | sub (a b c : Name)
  | and (a b c : Name)
  | or (a b c : Name)
  | xor (a b c : Name)
  | shl (a b c : Name)
  | shr (a b c : Name)
  | mul (a b c : Name)
  | mov (a b : Name)
  -- the immediate family (R75)
  | addi (a b : Name) (imm : BitVec 16)
  | rsubi (a b : Name) (imm : BitVec 16)
  | andi (a b : Name) (imm : BitVec 16)
  | ori (a b : Name) (imm : BitVec 16)
  | xori (a b : Name) (imm : BitVec 16)
  | shli (a b : Name) (count : BitVec 7)
  | shri (a b : Name) (count : BitVec 7)
  | muli (a b : Name) (imm : BitVec 16)
  | mini (a b : Name) (imm : BitVec 16)
  | maxi (a b : Name) (imm : BitVec 16)
  | ceqi (a b : Name) (imm : BitVec 16)
  | cnei (a b : Name) (imm : BitVec 16)
  | clti (a b : Name) (imm : BitVec 16)
  | clei (a b : Name) (imm : BitVec 16)
  | cgti (a b : Name) (imm : BitVec 16)
  | cgei (a b : Name) (imm : BitVec 16)
  -- the extended family (R76)
  | mulh (a b c : Name)
  | div (a b c : Name)
  | rem (a b c : Name)
  | andn (a b c : Name)
  | rot (a b c : Name)
  | min (a b c : Name)
  | max (a b c : Name)
  | abs (a b : Name)
  | neg (a b : Name)
  | clz (a b : Name)
  | ctz (a b : Name)
  | popc (a b : Name)
  | bfx (a b c d : Name)
  | bfi (a b c d : Name)
  | sel (a b c d : Name)
  | lea (a b c : Name) (sh : BitVec 3)
  | ceq (a b c : Name)
  | cne (a b c : Name)
  | clt (a b c : Name)
  | cle (a b c : Name)
  | cgt (a b c : Name)
  | cge (a b c : Name)
  | movi (a : Name) (imm : BitVec 64)
  -- the map class (R58 to R65)
  | mapld (b c : Name) (disp : BitVec 16)
  | maprel
  | resize (b : Name) (width : BitVec 7)
  | resizev (v : BitVec 6) (count : BitVec 7)
  | setmode (b : Name) (sgn : BitVec 1) (mode : BitVec 2)
  | widthof (b c : Name)
  | modeof (b c : Name)
  | seatof (b c : Name)
  -- the strand class (R110)
  | fork (a b : Name) (t : Target)
  | huskSave (b c : Name) (disp : BitVec 16)
  | huskRun (b c : Name) (disp : BitVec 16)
  | huskSaveg (b c : Name) (disp : BitVec 16)
  | huskRung (b c : Name) (disp : BitVec 16)
  | evsend (a : Name)
  -- the step class (R133)
  | depset (b : Name) (subs : BitVec 1) (idx : BitVec 4)
  | skewset (limit : BitVec 16)
  | ringset (b : Name) (ring : BitVec 4) (depth : BitVec 4)
  | pace
  | unpace
  | puts (a : Name) (ring : BitVec 2) (off : BitVec 12)
  | gets (a b c : Name) (ring : BitVec 2) (off : BitVec 12)
  -- the memory class
  | ldq (a b c : Name) (size : BitVec 2) (disp : BitVec 14)
  | stq (a b c : Name) (size : BitVec 2) (disp : BitVec 14)
  | ldb (a b c : Name) (disp : BitVec 10) (bits : BitVec 6)
  | stb (a b c : Name) (disp : BitVec 10) (bits : BitVec 6)
  | ldg (a b c : Name) (size : BitVec 2) (disp : BitVec 14)
  | stg (a b c : Name) (size : BitVec 2) (disp : BitVec 14)
  | ldfe (a b c : Name) (d : BitVec 8)
  | ldff (a b c : Name) (d : BitVec 8)
  | stfe (a b c : Name) (d : BitVec 8)
  | stff (a b c : Name) (d : BitVec 8)
  | fefull (a b c : Name) (d : BitVec 8)
  | feempty (a b c : Name) (d : BitVec 8)
  | festate (a b c : Name) (d : BitVec 8)
  | win (a b c : Name) (kind : BitVec 2) (size : BitVec 5)
  -- the ordering class
  | fence (kind : BitVec 3) (scope : BitVec 3)
  | ldacq (a b : Name) (size : BitVec 2) (scope : BitVec 3) (disp : BitVec 11)
  | strel (a b : Name) (size : BitVec 2) (scope : BitVec 3) (disp : BitVec 11)
  | amo (a b c : Name) (op : BitVec 4) (size : BitVec 2) (order : BitVec 2) (scope : BitVec 3)
  | cas (a b c d : Name) (size : BitVec 2) (order : BitVec 2) (scope : BitVec 3)
  | red (a b : Name) (op : BitVec 4) (size : BitVec 2) (order : BitVec 2) (scope : BitVec 3)
  | bar (nowait : BitVec 1) (id : BitVec 5)
  -- the message class
  | send (scope : BitVec 3) (rel : BitVec 1) (b c : Name) (n : BitVec 7)
  | copy (a b c : Name) (disp : BitVec 16)
  | xwait (a : Name)
  -- repetition (R254 to R258)
  | rpbegin
  | rpend
  | rprun (b c : Name) (disp : BitVec 16)
  | rpruni (n : BitVec 16)
  | rpwait
  -- the vector class (R246 to R251)
  | vadd (a b c : VRef)
  | vsub (a b c : VRef)
  | vmul (a b c : VRef)
  | vmin (a b c : VRef)
  | vmax (a b c : VRef)
  | vand (a b c : VRef)
  | vor (a b c : VRef)
  | vxor (a b c : VRef)
  | vshl (a b c : VRef)
  | vshr (a b c : VRef)
  | vceq (a b c : VRef)
  | vclt (a b c : VRef)
  | vcle (a b c : VRef)
  | vfma (a b c d : VRef)
  | vfms (a b c d : VRef)
  | vsel (a b c d : VRef)
  | vmov (a b : VRef)
  | vabs (a b : VRef)
  | vneg (a b : VRef)
  | vexp2 (a b : VRef)
  | vlog2 (a b : VRef)
  | vrcp (a b : VRef)
  | vrsq (a b : VRef)
  | vfloor (a b : VRef)
  -- the conversion class (R237 to R242)
  | vcvt (a b : VRef) (ty : BitVec 4)
  | vqnt (a b c : VRef) (ty : BitVec 4)
  | vdqnt (a b c : VRef)
  | voutl (a b c : VRef)
  -- vector memory and queues (R251, R253)
  | vld (a : VRef) (b c : Name) (d : BitVec 8)
  | vst (a : VRef) (b c : Name) (d : BitVec 8)
  | vldb (a : VRef) (b c : Name) (d : BitVec 8)
  | vstb (a : VRef) (b c : Name) (d : BitVec 8)
  | vtoq (q : Name) (v : VRef)
  | vfromq (v : VRef) (q : Name)
  | vanyq (q : Name) (v : VRef)
  | vallq (q : Name) (v : VRef)
  -- the matrix class on the core (R279, R280)
  | macc (a b c : Name)
  | mstat (a : Name)
  -- the system class
  | sysrd (a : Name) (n : BitVec 16)
  | syswr (a : Name) (n : BitVec 16)
  | trap (imm : BitVec 16)
  | tlbinv (b : Name) (kind : BitVec 3)
  | quiesce
  | setrm (mode : BitVec 3)
  | flagrd (b : Name)
  | flagclr (mask : BitVec 8)
  -- steps of the core and its slots
  | trapMessage (cluster : Nat)
  | lateFitTrap
  | writeBackArrival (core idx : Nat)
  | waitEnd (core slot : Nat)
  | pauseEnd (core : Nat)
  | checkerReplay
  | lineFill (core slot : Nat)
  | alignDeadline (cluster idx : Nat)
  | slotArbiterBoundary (core : Nat)
  | launchPlacement (launch core : Nat)
  | launchCompletion (launch : Nat)
  | handlerStart (core slot : Nat)
  -- messages, events, copies (R211 to R227)
  | messageArrival (m : Message)
  | messageRetry (core : Nat)
  | eventArrival (target : Agent)
  | copyRequest (core entry : Nat)
  | resumePacket (core slot : Nat) (zero verdict pc value : Word)
  | completionArrival (target : Agent) (handler : Word) (xid : BitVec 32) (status : Word)
  -- pacing (R126 to R149)
  | announceArrival (dst producer : Agent) (count : BitVec 32) (restart ended : Bool)
  | countRequest (dst subscriber : Agent)
  | stepFinish (core : Nat)
  | stepBegin (core : Nat)
  | getsArrival (g : GetsReq)
  | getsRetry (g : GetsReq)
  -- quad ports and homes
  | feopRetry (core slot : Nat)
  | storePerformed (quad idx : Nat)
  | atomicPerform (quad idx : Nat)
  | faultQueueRetry (quad idx : Nat)
  | vbusRetryAttempt (cluster channel : Nat)
  | laneSwap (cluster channel lane : Nat)
  -- engines
  | rpRunEntry (core : Nat)
  | mctx (core : Nat)
  | mzero (core : Nat)
  | mtile (core : Nat)
  | mma (core : Nat)
  | mread (core : Nat)
  | mfence (core : Nat)
  -- the supervisor's registers (R290, R291)
  | resumeSlot (core slot : Nat)
  | freeSlot (core slot : Nat)
  | huskSlot (core slot addr : Nat)
  | haltCore (core : Nat)
  | releaseCore (core : Nat)
  | resetAndUnsealCore (core : Nat)
  -- the host interface and the front end (R307 to R331)
  | nopPacket (queue : Nat)
  | launch (queue : Nat)
  | launchExt (queue : Nat)
  | sheafBegin (queue : Nat)
  | sheafCommit (queue : Nat)
  | signal (queue : Nat)
  | waitPacket (queue : Nat)
  | waitPoll (queue : Nat)
  | setweight (queue : Nat)
  | setsec (queue : Nat)
  | preempt (queue : Nat)
  | preemptDeadline (queue : Nat)
  | resumeq (queue : Nat)
  | resetq (queue : Nat)
  | migrationRequest (cluster logical target : Nat)
  -- the fabric (R332 to R345)
  | standaloneAck (peer cls : Nat)
  | replayTimeout (peer cls : Nat)
  | installNotice (version : BitVec 16) (table : List (Nat × Nat))
  | kBlockCompletion (core : Nat)
  | fabricManagerTold (device port : Nat) (up : Bool)
  | installAck (device : Nat) (version : BitVec 16)
  | read (p : Packet)
  | write (p : Packet)
  | atomic (p : Packet)
  | msg (p : Packet)
  | steprd (p : Packet)
  | resp (p : Packet)
  | ack (p : Packet)
  | activateNotice (version : BitVec 16)
  -- what only comes from outside the device, or from an instruction that has its own constructor
  | migreq (cluster : Nat) (v : Word)
  | coremapSwap (cluster logical phys : Nat)
  | barcfg (cluster : Nat) (v : Word)
  | barcancel (cluster : Nat) (v : Word)
  | flagunionClear (cluster : Nat) (v : Word)
  | logEntryRemove (cluster : Nat) (vbus : Bool) (v : Word)
  | inject (cluster : Nat) (v : Word)
  | storehold (cluster : Nat) (v : Word)
  | oppointRequest (core : Nat) (v : Word)
  | energyLoRead (core slot : Nat)
  | registerWrite (off : Nat) (v : Word)
  | resvRead (queue : Nat)
  | commit (queue : Nat) (v : Word)
  | budgetPeriod (uncore : Nat) (demand : List Nat)
  | voltageTrim (quad slack : Nat)
  | thermalSample (quad : Nat) (sensor : Int)
  | enumRefresh
  | hostCxlMemAccess (write : Bool) (off : Nat) (data : List Byte)
  | deviceReset
  | flit (port : Nat) (data : List Byte) (crc : BitVec 32) (side : Sidecar)
  | linkDead (port : Nat)
  | laneFailure (port : Nat) (good : BitVec 4)
  | portUp (port peer peerPort : Nat) (good : BitVec 4)
  | unreachableNotice (device : Nat)
  | drain
  | seal
  | fwstage
  | fwactivate
  | attest
  | setmigt
  | secregion
  | illegalEncoding
  | domainFormation (self size : Nat) (links : List (Nat × Nat × Nat × Nat))
  | recovery
deriving DecidableEq, Repr

end Sys2Proof
end

