-- ==== Sys2Proof/Machine/State.lean ====
section
/-! DEFINITION. The state of one SK7 device, as plain data: every piece of state that the spec names, and the few fields the model adds
(the issue latch, what acts next, the counter of free values). Sparse tables list only what differs from its reset value. -/

namespace Sys2Proof.Machine

/-- The mode that fits a value to a name (R5, R68). -/
inductive FitMode where
  | wrap | sat | trap
deriving DecidableEq, Repr

/-- An entry of a strand's seat table (R43, R44) with the bits that its seat holds. A streamer's name also carries a poison
mark (R222). -/
structure NameEntry where
  row : Nat
  bit : Nat
  width : Nat
  signed : Bool
  mode : FitMode
  bits : Word := 0#64
  poison : Bool := false
deriving DecidableEq, Repr

/-- A placed vector id (R50): its row in the quad's vector store, its element type, the first id of its array, and the row's bits. -/
structure VecEntry where
  row : Nat
  ty : Nat
  first : Nat
  data : BitVec 1024 := 0#1024
deriving DecidableEq, Repr

/-- Why a strand is parked (R101, R119): what wait() waits for. -/
inductive Wait where
  /-- a data queue or $bq with fewer than `need` poppable entries (R71, R252) -/
  | queueRead (q need : Nat)
  /-- a data queue or $bq without room for `need` entries (R71, R252) -/
  | queueWrite (q need : Nat)
  /-- a reading FEOP held at a quad port (R163), with its write-back -/
  | fullEmpty (wb : Nat)
  /-- a GETS held at the producer's quad or waiting for its return (R141), with its write-back -/
  | gets (wb : Nat)
  /-- STEP, until the core begins a step (R127) -/
  | step
  /-- XWAIT on a transfer id (R226) -/
  | xwait (id : BitVec 32)
  /-- BAR, until its generation ends (R208) -/
  | barrier
  /-- ALIGN, until its gather is released (R95) -/
  | align
  /-- no write-back to one name outstanding (R54) -/
  | name (n : Name)
  /-- no write-back to any name outstanding, and no sequencer run for the strand (R54) -/
  | names
  /-- EXIT's conditions (R112), and those of FLAGRD and FLAGCLR: every earlier instruction of the strand done (R234) -/
  | exit
  /-- HRET's conditions (R116) -/
  | hret
  /-- the strand's stores and atomics performed, for a fence or release of the given scope (R197); 6 for FENCE.X -/
  | drained (scope : Nat)
  /-- a fence or ERRFENCE: earlier loads returned (R179, R197) -/
  | loads
  /-- ERRFENCE: acknowledgements received (R179) -/
  | acks
  /-- a global load of a launch that checks every load: it goes on, or traps, when the load has returned (R178) -/
  | loadCheck
  /-- the sequencer's run ended (R254) -/
  | run
  /-- a free slot among 0 to 13 of a core (R121) -/
  | slotFree (core : Nat)
  /-- QUIESCE's conditions (R304) -/
  | quiet
  /-- MIGPT of a strand that is to be husked: its values, run and matrix commands are in (R54, R259, R262) -/
  | husk
  /-- TLBINV: the accesses that used a removed translation performed (R305), with its kind -/
  | tlbClean (kind : Nat)
  /-- a load that a queued atomic or full/empty write to the same bytes must precede (R190) -/
  | ahead (addr len : Nat)
deriving DecidableEq, Repr

/-- Why a slot is STOPPED (R101, R283, R293): by a trap, by the sealing of its core, or by a debug halt of its core. -/
inductive StopReason where
  | trapped | sealed | halted
deriving DecidableEq, Repr

/-- The state of a slot (R101). -/
inductive Status where
  | free
  | ready
  | parked (w : Wait)
  | sleep
  | stopped (r : StopReason)
deriving DecidableEq, Repr

/-- A pending error (R177): the first error's cause and address, and how many later ones were counted. -/
structure PendErr where
  cause : Nat
  addr : Word
  later : Nat := 0
deriving DecidableEq, Repr

/-- A barrier wait of a strand (R208): the PC of its BAR, the physical barrier and generation in which it was counted, and whether BARCANCEL
ended that generation while a trap had ended the wait (R209, R367). -/
structure BarWait where
  pc : Word
  bar : Nat
  gen : BitVec 32
  cancelled : Bool := false
deriving DecidableEq, Repr

/-- An entry of a data queue or $bq (R252): reserved until its value is poppable. On a streamer it also carries a poison mark (R222); on any other
unit `bad` says that the value came poisoned, for the error of the pop (R177). -/
structure QEntry where
  id : Nat
  val : Option Word
  poison : Bool := false
  bad : Bool := false
deriving DecidableEq, Repr

/-- A slot with the strand it holds (R101, R31, R117, R233, R263, R284). -/
structure Slot where
  status : Status := .free
  /-- the model's serial number of the strand, new at every start, so that late answers find their strand or none -/
  uid : Nat := 0
  pc : Word := 0#64
  /-- PC of the instruction that transferred control here, 0 for an entry (R25, R100) -/
  from' : Word := 0#64
  /-- PC at which a waiting instruction continues once its wait has completed it (R26, R101) -/
  nextPc : Word := 0#64
  names : Tab NameEntry := []
  vecs : Tab VecEntry := []
  lnk : Word := 0#64
  w0 : Word := 0#64
  w1 : Word := 0#64
  w2 : Word := 0#64
  w3 : Word := 0#64
  msg : Word := 0#64
  xid : BitVec 32 := 0#32
  rm : BitVec 3 := 0#3
  flags : BitVec 8 := 0#8
  tvec : Word := 0#64
  cause : BitVec 8 := 0#8
  active : Bool := false
  resume : Bool := false
  trapVal : Word := 0#64
  trapPc : Word := 0#64
  event : Bool := false
  owner : Option Nat := none
  launch : Option Nat := none
  mapIdx : Nat := 0
  pendErr : Option PendErr := none
  /-- a value that arrived and did not fit a trap-mode name (R367) -/
  lateFit : Option Word := none
  stage : List Word := [0#64, 0#64, 0#64, 0#64, 0#64, 0#64, 0#64, 0#64]
  /-- the barrier generations in which this strand's BARs have been counted and which they wait for (R208): the one it is parked in, and
  one whose wait a late-fit trap has ended, until its BAR is re-executed (R367) -/
  barWait : List BarWait := []
  /-- HFLAGS[1] of a resumed husk: the barrier arrival was counted (R119, R209) -/
  barCounted : Bool := false
  /-- inbox entry or completion that the handler run handles (R211) -/
  handling : Option Nat := none
  /-- the sender of the message handled (R212) -/
  sender : Agent := 0#32
  /-- latched high halves of energy counters, by quad (R302) -/
  shadow : Tab Word := []
  /-- the serial number below which a fence or release waits for writes, once it has begun to wait (R191, R197) -/
  fenced : Option Nat := none
  /-- bytes of peer memory returned for the instruction that waits for them (R334) -/
  peerBuf : List Host.Cell := []
  /-- the payload that a SEND.REL read at its issue, while it waits to release (R214) -/
  snap : List Word := []
  /-- the base of the line from which it last issued a head, none before its first (R96) -/
  atLine : Option Word := none
  lastIssue : Option Nat := none
  lastYield : Bool := false
  /-- consecutive checker mismatches of the current instruction (R292) -/
  mismatches : Nat := 0
  /-- queue entries that the instruction at the PC popped before it waited or was replayed, each with its queue: its re-execution takes these
  first (R71, R88), and a trap or a husk puts them back -/
  kept : List (Nat × QEntry) := []
  /-- queue entries that the instruction being executed has taken so far, in order -/
  taken : List (Nat × QEntry) := []
  /-- the fixed names ($lnk, $w0 to $w3) of a streamer's strand that carry a poison mark (R222) -/
  marks : List Nat := []
  /-- how many instructions outside a burst's heads the strand of a streamer has issued: it numbers the bursts (R222) -/
  burst : Nat := 0
  /-- the beat that the strand of a streamer reads from: its burst, its block of 32 bytes, and whether it came poisoned (R222, R356) -/
  beat : Option (Nat × Nat × Bool) := none
  /-- what a replayed instruction read of $step and $cyc (R82, R88) -/
  sampled : Option (Word × Word) := none
deriving DecidableEq, Repr

/-- A write-back on its way to a name (R53, R72): `val` is none until the unit that serves it has answered. -/
structure WriteBack where
  serial : Nat
  slot : Nat
  uid : Nat
  name : Name
  /-- the reserved entry of a queue, when the name is a queue (R252) -/
  entry : Option Nat := none
  val : Option Int := none
  /-- the cause and address of a pending error that the value brings (R177) -/
  err : Option (Nat × Word) := none
  /-- a poisoned value, for a streamer's name (R222) -/
  poison : Bool := false
deriving DecidableEq, Repr

/-- A VTOQ that has words left to push (R253). -/
structure Vtoq where
  slot : Nat
  words : List Word
  /-- an entry of the sequencer's run pushed it (R257) -/
  run : Bool := false
deriving DecidableEq, Repr

/-- A VFROMQ that has words left to pop (R253): the vector id it will write, the words taken, and the ids of the entries of those that had come
poisoned (R177). -/
structure Vfromq where
  slot : Nat
  uid : Nat
  vec : Nat
  words : List Word
  run : Bool := false
  bad : List Nat := []
deriving DecidableEq, Repr

/-- A data queue or the branch-outcome queue of a core (R252). -/
structure DataQueue where
  entries : List QEntry := []
  vto : List Vtoq := []
  vfrom : List Vfromq := []
deriving DecidableEq, Repr

/-- A recorded entry (R255): the vector instruction, and a VM entry's captured window and offset. -/
structure RpEntry where
  instr : Instr
  win : Word := 0#64
  off : Int := 0
deriving DecidableEq, Repr

/-- A run in progress (R256, R257): the loop nest and where it stands. -/
structure RpRun where
  rm : BitVec 3 := 0#3
  n0 : Nat
  n1 : Nat
  n2 : Nat
  slevel : Nat
  m : Nat
  t0 : Int
  t1 : Int
  t0s : List Int
  t1s : List Int
  i0 : Nat := 0
  i1 : Nat := 0
  i2 : Nat := 0
  e : Nat := 0
deriving DecidableEq, Repr

/-- The repetition sequencer of a core (R254). -/
structure Sequencer where
  owner : Option Nat := none
  recording : Bool := false
  buf : List RpEntry := []
  run : Option RpRun := none
deriving DecidableEq, Repr

/-- An occupied inbox entry (R211, R220, R285), in arrival order: entry 0 to 15 ordinary, 16 and above a reserved trap entry.
`words` of a trap entry and of a supervisor's or streamer's entry stand in memory like any other. -/
structure InboxEntry where
  entry : Nat
  target : Agent
  sender : Agent
  launch : Option Nat
  handler : Word
  running : Bool := false
deriving DecidableEq, Repr

/-- An entry of the outbound buffer (R215). -/
structure OutEntry where
  msg : Message
  slot : Nat
  uid : Nat
  /-- told to retry: sent again from this uncore cycle on -/
  retrying : Bool := false
  due : Nat := 0
  /-- on its way to a peer device -/
  sent : Bool := false
deriving DecidableEq, Repr

/-- The format context of the matrix unit (R262, R265). -/
structure MCtx where
  fa : Nat
  fb : Nat
  ba : Int
  bb : Int
  out : Nat
  rm : Nat
  lock : Nat
  cap : Nat
deriving DecidableEq, Repr

/-- A committed matrix command (R263, R265). -/
structure MCmd where
  words : List Word
  slot : Nat
  uid : Nat
deriving DecidableEq, Repr

/-- The special tag of an accumulator element (R262, R273). -/
inductive AccTag where
  | finite | posInf | negInf | nan
deriving DecidableEq, Repr

/-- An accumulator element (R262). -/
structure AccElem where
  val : BitVec 160 := 0#160
  tag : AccTag := .finite
  poison : Bool := false
  inexact : Bool := false
deriving DecidableEq, Repr

/-- An accumulator set (R262): elements keyed by 32 × row + column; the pair record; (blocks done, blocks in all). -/
structure AccSet where
  elems : Tab AccElem := []
  kcount : Nat := 0
  pair : Option (Nat × Int × Int) := none
  progress : Nat × Nat := (0, 0)
deriving DecidableEq, Repr

/-- A tile register (R262, R270): the format, K, and for each of its 32 lanes the element codes, the scale bytes, and for each element
whether a poisoned word held it or its scale. -/
structure Tile where
  fmt : Nat
  k : Nat
  codes : List (List Nat)
  scales : List (List Nat)
  poison : List (List Bool)
deriving DecidableEq, Repr

/-- A command in execution (R264): its block count so far, and the flags it has raised. -/
structure MExec where
  cmd : MCmd
  blk : Nat := 0
  /-- the outlier entries, each with whether its word was poisoned -/
  outliers : List (Nat × Bool) := []
  flags : BitVec 8 := 0#8
deriving DecidableEq, Repr

/-- The matrix state of a core (R262). -/
structure Matrix where
  ctx : Option MCtx := none
  queue : List MCmd := []
  exec : Option MExec := none
  acc0 : AccSet := {}
  acc1 : AccSet := {}
  tiles : Tab Tile := []
  etag : BitVec 32 := 0#32
  edet : Nat := 0
  ecount : Nat := 0
deriving DecidableEq, Repr

/-- A translation held by a TLB (R171): the launch it belongs to, the page's base and size, its frame and its permissions; and for a page of
a G16 group, the group's entry that the walk checked (R169): the translation serves that entry's sixteenth of the page. -/
structure TlbEntry where
  launch : Option Nat
  va : Nat
  log2 : Nat
  pa : Nat
  rd : Bool
  wr : Bool
  ex : Bool
  sec : Bool
  sub : Option Nat := none
deriving DecidableEq, Repr

/-- A line buffer (R96): the physical line and its 32 parcels; `poison` marks a line with an uncorrectable error. -/
structure LineBuf where
  pa : Nat
  parcels : List Parcel
  poison : Bool := false
deriving DecidableEq, Repr

/-- A physical core, a supervisor core (unit 64) or a streamer (units 65 to 69): R9, R12, R221. -/
structure Core where
  slots : Tab Slot := []
  /-- the rotation register (R102) -/
  last : Nat := 15
  /-- the first cycle in which it may issue again: one after the cycle in which it issued last (R102) -/
  canIssue : Nat := 0
  /-- the last pause cycle (R52), and the first cycle the divider is free (R84) -/
  pauseTo : Option Nat := none
  /-- the lengths of the pauses that follow the one in progress, in order: none overlaps another (R52) -/
  pauses : List Nat := []
  divFree : Nat := 0
  wbs : List WriteBack := []
  /-- write-backs that arrived during a pause (R53), in arrival order -/
  held : List WriteBack := []
  /-- later arrivals of the pause, which stay in the returning units and follow those held, in arrival order (R53) -/
  late : List WriteBack := []
  queues : Tab DataQueue := []
  seq : Sequencer := {}
  inbox : List InboxEntry := []
  outbuf : List OutEntry := []
  /-- the handler map image in force (R108) -/
  hmap : Option (List Parcel) := none
  lines : List LineBuf := []
  /-- physical lines of peers that it has asked for ahead of need (R96) -/
  ahead : List Nat := []
  /-- lines requested ahead of need whose own transfer, or a word of theirs with a parked atomic, holds them up (R96, R205, R356): launch and line -/
  wanted : List (Option Nat × Word) := []
  tlb : List TlbEntry := []
  /-- arbiter credits by queue (R105) -/
  credits : Tab Nat := []
  /-- the clock cycle of the last arbiter boundary taken (R105) -/
  bound : Option Nat := none
  /-- queues of which a seed found no place at the last boundary, in the order tried, and whether names have been released since (R49) -/
  unseated : List Nat := []
  freed : Bool := false
  duty : Nat := 16
  req : Nat := 2250
  sealed : Bool := false
  checkerSealed : Bool := false
  halted : Bool := false
  /-- the strand whose error sealed the core, with its TRAPVAL: the first faulting strand (R293, R323) -/
  culprit : Option (Agent × Word) := none
  mx : Matrix := {}
  /-- MIGPT instructions issued in the budget period, by which firmware chooses a core to migrate (R363) -/
  migpts : Nat := 0
  /-- the count of the last budget period, which the quad reports -/
  migptsLast : Nat := 0
deriving DecidableEq, Repr

/-- A byte to store with the bits of it that are stored (R159, R161). -/
structure MByte where
  addr : Nat
  val : Byte
  mask : Byte := 255#8
deriving DecidableEq, Repr

/-- An atomic on its way to its home (R200 to R203). `dest` is the write-back that AMO and CAS return the old
value to, 0 for none. -/
structure AtomicReq where
  cas : Bool
  op : Nat
  bytes : Nat
  addr : Nat
  signed : Bool
  operand : Word
  newVal : Word := 0#64
  dest : Nat := 0
  /-- it is an acquire: later instructions of its strand wait for it (R192) -/
  acq : Bool := false
  /-- it is a release, at whatever scope: it never merges (R191, R204) -/
  rel : Bool := false
  /-- its scope field, which a packet to a peer carries (R35, R368) -/
  scope : Nat := 0
deriving DecidableEq, Repr

/-- The full/empty operations (R162). -/
inductive FeOp where
  | ldfe | ldff | stfe | stff | fefull | feempty | festate
deriving DecidableEq, Repr

/-- What an entry of a write queue does at its home (R188, R204). -/
inductive WOp where
  | store (bytes : List MByte) (poison : Bool)
  | fe (op : FeOp) (addr : Nat) (val : Word)
  | atomic (a : AtomicReq)
  /-- a read from a peer device, which follows the accesses queued before it -/
  | read (addr len : Nat)
deriving DecidableEq, Repr

/-- An entry of a quad's write queue (R204): who committed it, its virtual address for an error record (R177), the uncore cycle
before which it is held (R353), and whether everything before it must be performed first (R191). -/
structure WEntry where
  serial : Nat
  op : WOp
  core : Nat
  slot : Nat
  uid : Nat
  va : Word
  holdTo : Nat := 0
  rel : Bool := false
  /-- it comes from a peer device or the host -/
  outside : Bool := false
  /-- the device and SEQ of the request that a peer's access answers (R368) -/
  peer : Option (Nat × BitVec 32) := none
  /-- strands whose REDs merged into it: core, slot and strand (R204) -/
  mates : List (Nat × Nat × Nat) := []
  /-- the host queues whose launches' strands committed it: a SIGNAL waits for these (R316) -/
  queues : List Nat := []
  /-- the burst of its streamer strand that it belongs to (R222) -/
  burst : Nat := 0
  /-- the writes that a release follows, by serial number: those that its strand had issued and those visible to it as the release issued (R191) -/
  after : List Nat := []
deriving DecidableEq, Repr

/-- A FEOP held at a quad port (R163), in arrival order. -/
structure FeWait where
  op : FeOp
  addr : Nat
  val : Word := 0#64
  core : Nat
  slot : Nat
  uid : Nat
  local' : Bool
  /-- a reader's write-back, or a writer's entry -/
  serial : Nat
  /-- the uncore cycle before which a request that found its list full is not re-sent -/
  due : Nat := 0
  queues : List Nat := []
  /-- the writes that a writer follows as a release (R191, R193) -/
  after : List Nat := []
deriving DecidableEq, Repr

/-- A quad (R10): shared parts and regulators. -/
structure Quad where
  wq : List WEntry := []
  feWaits : List FeWait := []
  /-- FEOPs that found their list full and will be re-sent (R163) -/
  feRetry : List FeWait := []
  /-- GETS held in the step wait list (R143) -/
  stepWaits : List GetsReq := []
  /-- GETS that found the list full, with the uncore cycle in which they are sent again (R143) -/
  stepRetry : List (Nat × GetsReq) := []
  /-- position of the core the matrix unit served last (R264) -/
  mxLast : Nat := 3
  temp : Int := 640
  tempTest : Word := 0#64
  /-- a value written to QUAD.TEMPTEST while a sensor action was pending: it takes effect at the next sample (R289) -/
  tempNext : Option Word := none
  migArmed : Bool := true
  freq : Nat := 2250
  /-- the quad clock's count at the last change of its frequency, and the uncore cycle of that change (R31, R299) -/
  clkBase : Nat := 0
  clkAt : Nat := 0
  mv : Nat := 0
  budgetCap : Nat := 2250
  thermalCap : Nat := 2250
  energy : Word := 0#64
  secure : Bool := false
deriving DecidableEq, Repr

/-- A neighbour in a core's producer or subscriber list (R124). -/
structure Neighbour where
  agent : Agent
  count : BitVec 32 := 0#32
  ended : Bool := false
  lost : Bool := false
deriving DecidableEq, Repr

/-- A member of the paced set (R124, R146). A member in its slot has that slot's number as its key; a husked one a key that is 16
or a multiple of 16 above the number of the slot that it left. -/
structure Member where
  arrived : Bool := false
  husked : Bool := false
  /-- it was resumed from a husk taken in STEP and has not yet executed that STEP again (R146) -/
  rejoins : Bool := false
  /-- the serial numbers of the strands that the membership has had: the one in its slot, and those that were husked (R146) -/
  uids : List Nat := []
  /-- the serial number below which writes had been visible to it when it arrived (R191) -/
  bound : Nat := 0
deriving DecidableEq, Repr

/-- A step ring (R136). -/
structure Ring where
  win : Word
  depth : Nat
deriving DecidableEq, Repr

/-- A transfer-table entry (R224): `result` is none while in flight. -/
structure Xfer where
  slot : Nat
  uid : Nat
  launch : Option Nat
  result : Option Nat := none
  /-- its issuing strand has exited -/
  gone : Bool := false
  /-- for a COPY whose source reads are bounded (R354): the streamer that performs it, and the uncore cycle from which its steps come
  before anything else -/
  hurry : Option (Nat × Nat) := none
deriving DecidableEq, Repr

/-- A queued completion (R223). -/
structure Completion where
  xid : BitVec 32
  handler : Word
  status : Word
  launch : Option Nat
deriving DecidableEq, Repr

/-- The state that belongs to a logical core (R124, R223, R224). -/
structure Logical where
  paced : Bool := false
  s : BitVec 32 := 0#32
  f : BitVec 32 := 0#32
  held : Bool := false
  ended : Bool := false
  producers : Tab Neighbour := []
  subscribers : Tab Neighbour := []
  limit : Nat := 0
  rings : Tab Ring := []
  members : Tab Member := []
  xfers : Tab Xfer := []
  nextXid : BitVec 32 := 1#32
  /-- its core was sealed, with whether it was paced then: the first strand restarted on it brings S and F back (R148) -/
  restart : Option Bool := none
  comps : List Completion := []
deriving DecidableEq, Repr

/-- A cluster barrier (R207): N, the N of the next generation, the counter, the generation, and the launch and id that use it. -/
structure Barrier where
  n : Nat := 1
  nNext : Option Nat := none
  a : Nat := 0
  g : BitVec 32 := 0#32
  owner : Option (Nat × Nat) := none
deriving DecidableEq, Repr

/-- A barrier record kept for a husked waiter (R209). -/
structure BarRecord where
  agent : Agent
  bar : Nat
  gen : BitVec 32
  cancelled : Bool := false
deriving DecidableEq, Repr

/-- A gather entry of the fetch port (R95). -/
structure Gather where
  launch : Option Nat
  tag : BitVec 8
  pc : Word
  deadline : Nat
  members : List (Nat × Nat)
deriving DecidableEq, Repr

/-- A read transfer on a vertical channel under retry (R174, R356): the channel, the failed attempts, the lane named, the uncore cycle of
the next attempt or of the swap before it, and the write-back that waits for the data, with the data that a passing attempt delivers. -/
structure Beat where
  chan : Nat
  /-- the uncore cycles of the failed attempts -/
  times : List Nat := []
  /-- the lane that inverted the first attempt -/
  bad : Nat := 0
  lane : Option Nat := none
  due : Nat := 0
  swapAt : Option Nat := none
  core : Nat
  wb : Nat
  bits : Nat
  val : Nat
  poison : Bool
  va : Word
  /-- the 32 bytes that it brings, for a transfer that no write-back waits for -/
  block : Nat := 0
deriving DecidableEq, Repr

/-- A cluster (R12). -/
structure Cluster where
  coremap : Tab Nat := []
  logicals : Tab Logical := []
  barriers : Tab Barrier := []
  barRecords : List BarRecord := []
  flagUnion : BitVec 8 := 0#8
  slotctl : Nat := 0
  /-- the SLOTCTL action in progress, as its step (R291) -/
  slotctlOp : Option Instr := none
  migPend : Bool := false
  migCore : Nat := 0
  migArea : Nat := 0
  slackTgt : Nat := 8
  arrLog : List Word := []
  vbusLog : List Word := []
  laneMap : Tab Word := []
  /-- lane failures charged: (channel, lane, uncore cycle) (R174) -/
  charges : List (Nat × Nat × Nat) := []
  beats : List Beat := []
  /-- the blocks of 32 bytes that transfers with retries have brought for a step that waits for them, each with whether it came poisoned (R356) -/
  brought : List (Nat × Bool) := []
  inject : Word := 0#64
  storehold : Word := 0#64
  tlb : List TlbEntry := []
  gathers : List Gather := []
  icache : List LineBuf := []
  /-- physical lines of peers whose fetch was answered with an error while a TRET or a SLOTCTL resume waited for the line (R286) -/
  lostLines : List Nat := []
  /-- the serial numbers of lines that were asked of peers before an invalidation removed their page: they enter nothing (R99, R305) -/
  staleLines : List Nat := []
  /-- lines of peers that wait at the port while 8 misses are outstanding, in arrival order, each with a serial number (R97) -/
  lineWaits : List (Nat × Nat) := []
  /-- restarts of the migration routine that have trapped, whose launches it is to end (R364): launch, cause, TRAPVAL -/
  failures : List (Nat × Nat × Word) := []
  /-- trap messages that wait for a reserved entry of the supervisor's inbox (R285): core key, slot, the four words -/
  trapWaits : List (Nat × Nat × List Word) := []
deriving DecidableEq, Repr

/-- A launch entered, live or saved (R314, R315, R320, R322): what validation read for it. -/
structure Launch where
  queue : Nat
  ticket : BitVec 32
  tag : BitVec 32
  packet : List Byte
  ext : List Byte
  sec : Bool
  ldchk : Bool
  test : Bool
  quota : Nat
  root : Nat
  entry : Word
  tvec : Word
  mapIdx : Nat
  map : List Parcel
  hmap : Option (List Parcel)
  cmask : BitVec 64
  kmask : BitVec 64
  wins : List Word
  seeds : List Word
  ckpt : Word
  bars : List Nat
  /-- strands started per placed core, keyed by cluster × 128 + logical core; a core is listed once the launch is placed on it -/
  started : Tab Nat := []
  /-- strands of it that wait as hardware husks or for a restart from a checkpoint (R296, R294) -/
  husks : Nat := 0
  /-- clusters in which its barriers are taken -/
  barClusters : List Nat := []
  saved : Bool := false
  /-- its last strand is gone or it is being ended, with the record it will post (R323): event, grade, cause, agent, value -/
  ending : Option (Nat × Nat × Nat × Agent × Word) := none
  /-- a queue reset has posted its record: only what it has in flight is left (R327) -/
  posted : Bool := false
deriving DecidableEq, Repr

/-- A host queue (R309), with the front end's state of it (R312, R316, R317, R323, R325, R326). -/
structure Queue where
  qbase : Word := 0#64
  qsize : Nat := 6
  state : Nat := 0
  secok : Bool := false
  enable : Bool := false
  resv : BitVec 32 := 0#32
  head : BitVec 32 := 0#32
  commitmap : List Nat := []
  cqbase : Word := 0#64
  cqhead : BitVec 32 := 0#32
  cqtail : BitVec 32 := 0#32
  weight : Nat := 16
  /-- packets consumed and not yet acted on: (ticket, bytes) -/
  held : List (BitVec 32 × List Byte) := []
  /-- the sheaf being assembled: members wanted and the BEGIN's TAG -/
  sheaf : Option (Nat × BitVec 32) := none
  /-- the held packets have passed validation and act in order -/
  passed : Bool := false
  /-- a SIGNAL or WAIT met a fault: consumption stopped until a queue reset (R316) -/
  stuck : Bool := false
  /-- the serial number of the head packet's access to a peer, when one is under way or answered, and the word its RESP brought, or none for
  an error (R316, R334) -/
  asked : Option Nat := none
  answer : Option (Option Word) := none
  save : Nat := 0
  deadline : Nat := 0
  layout : Nat := 0
  /-- completion records waiting for ring room (R323) -/
  records : List (List Byte) := []
  husked : List (List Byte × List Byte) := []
  /-- the full/empty writes that ports hold of the strands husked for the save area, by serial number: the records follow them (R165, R193) -/
  follows : List Nat := []
  /-- launches that have passed validation and are not yet entered, as validation read them (R321, R322) -/
  built : List Launch := []
  /-- physical addresses of saved husk records that RESUMEQ has still to restart (R326) -/
  restarts : List Nat := []
  /-- ENABLE was cleared while the queue held launches: a queue reset makes it so (R309) -/
  disable : Bool := false
  /-- the held packets are a whole sheaf, or a packet outside any, that is being validated: whether it is a sheaf (R317, R318) -/
  checking : Option Bool := none
  /-- bytes of peer memory that validation or a restore has read, the chunks of memory that could not be read, and the serial number of the READ
  that is out (R318, R326) -/
  codeBuf : List Host.Cell := []
  codeBad : List Nat := []
  codeAsked : Option Nat := none
deriving DecidableEq, Repr

/-- The management mailbox (R325). -/
structure Mailbox where
  cmd : Word := 0#64
  state : Nat := 0
  reason : Nat := 0
  arg0 : Word := 0#64
  arg1 : Word := 0#64
  arg2 : Word := 0#64
  arg3 : Word := 0#64
  /-- bytes of peer memory that the command has read, and the chunks that could not be read -/
  buf : List Host.Cell := []
  bad : List Nat := []
deriving DecidableEq, Repr

/-- A fabric port (R332, R333, R335, R345). -/
structure Port where
  state : Nat := 0
  lanes : BitVec 4 := 0#4
  peerDev : Nat := 0
  peerPort : Nat := 0
  llr : Nat := 0
  errs : Nat := 0
  /-- link sequence numbers: next to send, oldest unacknowledged, next expected (R333) -/
  lsnNext : BitVec 12 := 0#12
  lsnUna : BitVec 12 := 0#12
  lsnExp : BitVec 12 := 0#12
  /-- flits sent and not acknowledged, at most 512, oldest first (R335) -/
  replayBuf : List Flit := []
  /-- packets that wait for room in the replay buffer, oldest first -/
  queue : List Packet := []
  /-- the flits received of a packet that is not yet whole -/
  inBuf : List Flit := []
  /-- failed resends in a row of the flit expected (R335) -/
  resends : Nat := 0
  /-- the uncore cycle in which the resend that this receiver waits for was asked for -/
  asked : Option Nat := none
  /-- flits given to the link, newest first: the model's record of its output -/
  wire : List Flit := []
deriving DecidableEq, Repr

/-- What answers a fabric request (R334, R342): who waits for the RESP. -/
inductive Pending where
  | load (core slot uid serial bytes : Nat) (acq : Bool) (va : Word)
  | fill (core slot uid serial addr : Nat) (va : Word)
  /-- a line that the fetch port of a cluster asks a peer for, on behalf of every core that waits for it (R98) -/
  | line (cluster pa serial : Nat)
  | store (e : WEntry)
  | atomic (e : WEntry)
  | msg (core serial : Nat)
  | gets (g : GetsReq)
  /-- a SIGNAL or WAIT of a queue whose address lies in a peer (R316) -/
  | front (queue serial : Nat)
  /-- a chunk of a peer's memory that a queue's validation or restore reads (R318, R326) -/
  | code (queue serial addr : Nat)
  /-- a chunk of a peer's memory that a mailbox command reads, with the command's step (R325) -/
  | mbox (i : Instr) (addr : Nat)
  | reply
deriving DecidableEq, Repr

/-- A packet in the granary (R337), with what its response completes. -/
structure Grain where
  packet : Packet
  pending : Pending
  answered : Bool := false
deriving DecidableEq, Repr

/-- A flow with a peer device in one class (R336): our source end and our receiver end. -/
structure Flow where
  next : BitVec 32 := 0#32
  una : BitVec 32 := 0#32
  exp : BitVec 32 := 0#32
  closed : Bool := false
  /-- an acknowledgement that no packet of the reverse flow has carried yet (R334) -/
  owed : Bool := false
  /-- the uncore cycle from which the 1 µs of R334 counts, while an acknowledgement is owed -/
  owedAt : Nat := 0
  /-- the uncore cycle from which the 40 µs of R339 count -/
  since : Nat := 0
deriving DecidableEq, Repr

/-- The fabric interface (R332 to R345): tables list (destination, port), port 48 marking a destination unreachable. -/
structure Fabric where
  ports : Tab Port := []
  table : List (Nat × Nat) := []
  cur : BitVec 16 := 0#16
  pendTable : Option (BitVec 16 × List (Nat × Nat)) := none
  /-- keyed by 2 × peer device + class -/
  flows : Tab Flow := []
  granary : List Grain := []
  /-- requests that wait for granary or window room (R337) -/
  waiting : List Grain := []
  replays : Nat := 0
  /-- acknowledgements the fabric manager has received, when this device is the manager (R341) -/
  acks : List (Nat × BitVec 16) := []
  /-- packets that left this device, newest first: the model's record of its output -/
  out : List Packet := []
  /-- ports that this device knows to be down: (device, port) -/
  down : List (Nat × Nat) := []
  /-- the domain's cabling: (device, port, peer device, peer port), each cable from both ends -/
  links : List (Nat × Nat × Nat × Nat) := []
  /-- the version that the manager last issued -/
  issued : BitVec 16 := 0#16
  /-- notices that this device has flooded, and those of other devices that it has passed on: (device, count) (R341) -/
  notices : Nat := 0
  passed : List (Nat × Nat) := []
  /-- the tables of install notices whose parts have not all come -/
  parts : List (BitVec 16 × List (Nat × Nat)) := []
deriving DecidableEq, Repr

/-- The writes of a streamer's burst to a failing secure sector, held until they cover it (R176): each word with its mark. -/
structure SectorRun where
  entry : WEntry
  sector : Nat
  parts : List (List MByte × Bool)
deriving DecidableEq, Repr

/-- An atomic parked on a poisoned word (R205). -/
structure Parked where
  entry : WEntry
  home : Nat
deriving DecidableEq, Repr

/-- The rest of the device (R17, R289, R325, R328, R331, R370). -/
structure Device where
  num : Nat := 0
  size : Nat := 1
  sirev : Nat := 1
  fwrev : Nat := 1
  profile : BitVec 32 := 0x01010101#32
  secreg : Tab Word := []
  migThreshold : Nat := 95
  drain : Nat := 0
  staged : Option (Nat × List Nat) := none
  activating : Bool := false
  gen : Word := 0#64
  shadow : List Host.Cell := []
  errLog : List (List Word) := []
  errCount : Nat := 0
  /-- addresses that firmware sets: the supervisor's trap, migration, request and completion-log handlers, and its tree (R168, R285) -/
  fwTrap : Word := 0#64
  fwMigrate : Word := 0#64
  fwRequest : Word := 0#64
  fwLog : Word := 0#64
  /-- entry of the streamers' copy routine, in the firmware's tree (R221) -/
  fwCopy : Word := 0#64
  fwRoot : Nat := 0
  /-- MSI-X vectors raised, newest first (R307, R323) -/
  msix : List Nat := []
  /-- a device-fatal fault is in force until recovery (R306, R324) -/
  fatal : Bool := false
  /-- launches that the fatal fault ended, for the grade-2 records of recovery -/
  lostLaunches : List Launch := []
  /-- the data that the last host read returned: the model's record of its output -/
  hostData : List Byte := []
  /-- that data came poisoned (R173) -/
  hostPoison : Bool := false
  /-- the save-area layouts that the active firmware restores (R326, R328) -/
  layouts : List Nat := [3]
  /-- the SHAKE256 digests of the staged and the active firmware; none for the firmware of reset (R328, R330) -/
  stagedDigest : List Byte := []
  fwDigest : Option (List Byte) := none
deriving DecidableEq, Repr

/-- A message that hardware or the management core sends: it leaves once the writes of the strand named have been performed (R361), and not
before an uncore cycle when its target told it to retry (R215). -/
structure HwMsg where
  msg : Message
  strand : Option (Nat × Nat × Nat) := none
  due : Nat := 0
deriving DecidableEq, Repr

/-- The issue latch: the core, the slot, the PC being executed and H of its line (R26). -/
structure Cur where
  core : Nat := 0
  slot : Nat := 0
  pc : Word := 0#64
  h : Nat := 1
deriving DecidableEq, Repr

/-- One turn of the machine: a core's issue cycle, an agenda entry, or an input from outside. -/
inductive Turn where
  | issue (core : Nat)
  /-- an issue cycle in which the checker stage finds a mismatch (R292) -/
  | replay (core : Nat)
  | agenda (idx : Nat)
  | act (i : Instr)
  /-- the host writes bytes of its own memory, through its caches, with or without CXL poison (R19, R205) -/
  | host (addr : Nat) (data : List Byte) (poison : Bool)
  /-- a bit of a stored word flips (R173) -/
  | flip (wa bit : Nat)
  /-- a secure sector's data becomes uncorrectable, or its tag fails (R176) -/
  | sector (addr : Nat) (media : Bool)
deriving DecidableEq, Repr

/-- The whole device. Cores are keyed by 128 × cluster + unit, quads by 16 × cluster + quad. -/
structure State where
  cores : Tab Core := []
  quads : Tab Quad := []
  clusters : Tab Cluster := []
  dev : Device := {}
  fab : Fabric := {}
  queues : Tab Queue := []
  mbox : Mailbox := {}
  launches : Tab Launch := []
  nextLaunch : Nat := 1
  uncore : Nat := 0
  mem : List Host.Cell := []
  /-- quad-store words that are full, by word address (R10) -/
  full : List Nat := []
  /-- poisoned words, by word address (R173) -/
  poison : List Nat := []
  /-- flipped bits of stored words: (word address, bit) (R173, R183) -/
  flips : List (Nat × Nat) := []
  /-- secure GDDR 7 sectors whose tag fails, and whose data is uncorrectable, by sector address (R176) -/
  tagBad : List Nat := []
  mediaBad : List Nat := []
  parked : List Parked := []
  runs : List SectorRun := []
  hwMsgs : List HwMsg := []
  serial : Nat := 1
  cur : Cur := {}
  turns : List Turn := []
  agenda : List Instr := []
  /-- turns taken that no list gave: even ones go to what is due, odd ones to the cores -/
  rot : Nat := 0
  /-- steps taken in this uncore cycle on behalf of bounded COPYs (R354) -/
  haste : Nat := 0
  fresh : Nat := 0
  /-- within a step, the block whose transfer holds the step up (R356); none between steps -/
  stall : Option Nat := none
deriving DecidableEq, Repr

/-- The reasons a step can fault. No step of this machine faults: whatever the spec has stop a strand or the device is a next state. -/
inductive Fault where
deriving DecidableEq, Repr

/-- The reasons a step can be refused. -/
inductive Refusal where
  /-- raised by an arm of `exec` whose instruction has no meaning in the model; safe -/
  | notModelled (mnemonic : String)
deriving DecidableEq, Repr

/-- The machine right after reset. Every field stands at the value that its declaration gives. -/
def State.reset : State := {}

end Sys2Proof.Machine
end

