-- ==== Sys2Proof/Machine/Tab.lean ====
section
/-! DEFINITION. Sparse tables (sorted by key, no key twice), sorted sets of addresses, and the machine's memory as bytes: little-endian
everywhere (R3), in one canonical form. -/

namespace Sys2Proof.Machine

/-- The entry of a key, if the table lists it. -/
def tfind {α : Type} (t : Tab α) (k : Nat) : Option α :=
  match t with
  | [] => none
  | (j, v) :: r => if j = k then some v else tfind r k

/-- The entry of a key, or the value of an unlisted key. -/
def tget {α : Type} (t : Tab α) (d : α) (k : Nat) : α :=
  (tfind t k).getD d

/-- The table with a key's entry set; keys stay rising. -/
def tput {α : Type} (t : Tab α) (k : Nat) (v : α) : Tab α :=
  match t with
  | [] => [(k, v)]
  | (j, u) :: r => if j < k then (j, u) :: tput r k v else if j = k then (k, v) :: r else (k, v) :: (j, u) :: r

/-- The table without a key. -/
def tdel {α : Type} (t : Tab α) (k : Nat) : Tab α :=
  match t with
  | [] => []
  | (j, v) :: r => if j = k then r else (j, v) :: tdel r k

/-- Every entry changed by a function of its key and value. -/
def tmap {α β : Type} (t : Tab α) (f : Nat → α → β) : Tab β :=
  List.map (fun e => (e.1, f e.1 e.2)) t

/-- A sorted set of addresses with one more member. -/
def sput (t : List Nat) (k : Nat) : List Nat :=
  match t with
  | [] => [k]
  | j :: r => if j < k then j :: sput r k else if j = k then j :: r else k :: j :: r

/-- A sorted set of addresses without a member. -/
def sdel (t : List Nat) (k : Nat) : List Nat :=
  List.filter (fun j => j != k) t

/-- A byte of memory; a byte that nothing has written reads 0 (log entry 1). -/
def memByte (m : List Host.Cell) (a : Nat) : Byte :=
  match m with
  | [] => 0#8
  | (j, v) :: r => if j = a then v else memByte r a

/-- Memory with one byte written; writing 0 removes the entry. -/
def memPut (m : List Host.Cell) (a : Nat) (v : Byte) : List Host.Cell :=
  match m with
  | [] => if v = 0#8 then [] else [(a, v)]
  | (j, u) :: r =>
    if j < a then (j, u) :: memPut r a v
    else if j = a then (if v = 0#8 then r else (a, v) :: r)
    else (if v = 0#8 then (j, u) :: r else (a, v) :: (j, u) :: r)

/-- The canonical form of memory: addresses strictly rising, and no entry equal to what an unlisted byte reads as. -/
def Memory.wf (m : List Host.Cell) : Bool :=
  match m with
  | [] => true
  | [(_, v)] => v != 0#8
  | (j, v) :: (k, u) :: r => v != 0#8 && decide (j < k) && Memory.wf ((k, u) :: r)

/-- The n bytes from an address upward. -/
def memBytes (m : List Host.Cell) (a n : Nat) : List Byte :=
  (List.range n).map fun i => memByte m (a + i)

/-- The number that bytes stand for, the least significant first (R3). -/
def ofBytes (bs : List Byte) : Nat :=
  match bs with
  | [] => 0
  | b :: r => b.toNat + 256 * ofBytes r

/-- The n bytes of a number, the least significant first (R3). -/
def toBytes (n : Nat) (v : Nat) : List Byte :=
  match n with
  | 0 => []
  | k + 1 => BitVec.ofNat 8 v :: toBytes k (v / 256)

/-- Memory with bytes written from an address upward. -/
def memPuts (m : List Host.Cell) (a : Nat) (bs : List Byte) : List Host.Cell :=
  match bs with
  | [] => m
  | b :: r => memPuts (memPut m a b) (a + 1) r

/-- The 64-bit word at an address. -/
def memWord (m : List Host.Cell) (a : Nat) : Word :=
  BitVec.ofNat 64 (ofBytes (memBytes m a 8))

/-- Memory with a 64-bit word written. -/
def memPutWord (m : List Host.Cell) (a : Nat) (w : Word) : List Host.Cell :=
  memPuts m a (toBytes 8 w.toNat)

/-- Memory with words written from an address upward. -/
def memPutWords (m : List Host.Cell) (a : Nat) (ws : List Word) : List Host.Cell :=
  match ws with
  | [] => m
  | w :: r => memPutWords (memPutWord m a w) (a + 8) r

/-- n words from an address upward. -/
def memWords (m : List Host.Cell) (a n : Nat) : List Word :=
  (List.range n).map fun i => memWord m (a + 8 * i)

/-- Bits hi..lo of a number (R3, R4). -/
def bitsOf (v hi lo : Nat) : Nat :=
  v / 2 ^ lo % 2 ^ (hi + 1 - lo)

/-- The position of the first member that satisfies a test. -/
def indexWhere {α : Type} (p : α → Bool) (l : List α) : Option Nat :=
  l.findIdx? p

/-- The list without the member at a position. -/
def dropAt {α : Type} (l : List α) (i : Nat) : List α :=
  l.take i ++ l.drop (i + 1)

end Sys2Proof.Machine
end

