-- ==== Sys2Proof/Machine/Ops.lean ====
section
/-! DEFINITION. The named operations over the state: where things are, who is who (R16), waiting, going on, and taking a trap (R283)
and returning from one (R286). A meaning is a body run on the strand of the issue latch. -/

namespace Sys2Proof.Machine

/-! ### Places -/

/-- The core, supervisor or streamer of a key. -/
def coreOf (s : State) (k : Nat) : Core := tget s.cores {} k

/-- The state with a core set. -/
def setCore (s : State) (k : Nat) (c : Core) : State := { s with cores := tput s.cores k c }

/-- The state with a core changed. -/
def modCore (s : State) (k : Nat) (f : Core → Core) : State := setCore s k (f (coreOf s k))

/-- A slot of a core. -/
def slotOf (s : State) (k i : Nat) : Slot := tget (coreOf s k).slots {} i

/-- The state with a slot set. -/
def setSlot (s : State) (k i : Nat) (x : Slot) : State :=
  modCore s k fun c => { c with slots := tput c.slots i x }

/-- The state with a slot changed. -/
def modSlot (s : State) (k i : Nat) (f : Slot → Slot) : State := setSlot s k i (f (slotOf s k i))

/-- A quad. -/
def quadOf (s : State) (q : Nat) : Quad := tget s.quads {} q

/-- The state with a quad changed. -/
def modQuad (s : State) (q : Nat) (f : Quad → Quad) : State := { s with quads := tput s.quads q (f (quadOf s q)) }

/-- A cluster. -/
def clusterOf (s : State) (c : Nat) : Cluster := tget s.clusters {} c

/-- The state with a cluster changed. -/
def modCluster (s : State) (c : Nat) (f : Cluster → Cluster) : State :=
  { s with clusters := tput s.clusters c (f (clusterOf s c)) }

/-- The state of a logical core of a cluster. -/
def logicalOf (s : State) (c l : Nat) : Logical := tget (clusterOf s c).logicals {} l

/-- The state with a logical core's state changed. -/
def modLogical (s : State) (c l : Nat) (f : Logical → Logical) : State :=
  modCluster s c fun x => { x with logicals := tput x.logicals l (f (tget x.logicals {} l)) }

/-- A host queue. -/
def queueOf (s : State) (q : Nat) : Queue := tget s.queues {} q

/-- The state with a host queue changed. -/
def modQueue (s : State) (q : Nat) (f : Queue → Queue) : State := { s with queues := tput s.queues q (f (queueOf s q)) }

/-- The state with a launch changed, if it is known. -/
def modLaunch (s : State) (l : Nat) (f : Launch → Launch) : State :=
  match tfind s.launches l with
  | none => s
  | some x => { s with launches := tput s.launches l (f x) }

/-- The device part changed. -/
def modDev (s : State) (f : Device → Device) : State := { s with dev := f s.dev }

/-- A step put on the agenda. -/
def post (s : State) (i : Instr) : State := { s with agenda := s.agenda ++ [i] }

/-! ### Keys and agent ids -/

/-- The key of a unit of a cluster. -/
def keyOf (cluster unit : Nat) : Nat := 128 * cluster + unit

/-- The cluster of a key. -/
def clusterOfKey (k : Nat) : Nat := k / 128

/-- The unit of a key: a physical core 0 to 63, 64 the supervisor, 65 to 69 the streamers (R12). -/
def unitOfKey (k : Nat) : Nat := k % 128

/-- The quad of a core's key (R10). -/
def quadOfKey (k : Nat) : Nat := 16 * (k / 128) + k % 128 / 4

/-- Whether a key is a core with quad, vector store and matrix unit (R9, R12). -/
def isCore (k : Nat) : Bool := decide (unitOfKey k < 64)

/-- Whether a key is a supervisor core. -/
def isSupervisor (k : Nat) : Bool := unitOfKey k == 64

/-- Whether a key is a streamer. -/
def isStreamer (k : Nat) : Bool := decide (64 < unitOfKey k)

/-- The clusters with a channel streamer (R13). -/
def hasChannel (c : Nat) : Bool :=
  let x := c % 8
  let y := c / 8
  (x == 0 || x == 7 || y == 0 || y == 7) && !(c == 0 || c == 7 || c == 56 || c == 63)

/-- Physical core of a logical core (R15, R290). -/
def physOf (s : State) (c l : Nat) : Nat := tget (clusterOf s c).coremap l l

/-- Logical core that a physical core holds: the inverse of the core map. -/
def logicalIdx (s : State) (c p : Nat) : Nat :=
  ((List.range 64).find? fun l => physOf s c l == p).getD p

/-- The logical unit number of a key: what $self names. -/
def unitId (s : State) (k : Nat) : Nat :=
  if isCore k then logicalIdx s (clusterOfKey k) (unitOfKey k) else unitOfKey k

/-- An agent id from its fields (R16). -/
def mkAgent (slot dev cluster unit : Nat) : Agent :=
  BitVec.ofNat 32 (slot % 16 * 2 ^ 23 + dev % 1024 * 2 ^ 13 + cluster % 64 * 2 ^ 7 + unit % 128)

/-- The unit field of an agent id. -/
def agentUnit (t : Agent) : Nat := t.toNat % 128

/-- The cluster field of an agent id. -/
def agentCluster (t : Agent) : Nat := t.toNat / 2 ^ 7 % 64

/-- The slot field of an agent id. -/
def agentSlot (t : Agent) : Nat := t.toNat / 2 ^ 23 % 16

/-- The device that an agent id names (R16): 0x3FF means this device in a domain of at most 1,023 devices. -/
def agentDev (s : State) (t : Agent) : Nat :=
  let d := t.toNat / 2 ^ 13 % 1024
  if d == 1023 && decide (s.dev.size < 1024) then s.dev.num else d

/-- Whether an agent id names an agent of the domain (R16, R114, R214). -/
def agentValid (s : State) (t : Agent) : Bool :=
  t.toNat / 2 ^ 27 == 0 && decide (agentUnit t ≤ 69) && (agentUnit t != 69 || hasChannel (agentCluster t))
    && decide (agentDev s t < s.dev.size)

/-- Whether the fabric has declared a device unreachable (R170, R340). -/
def unreachable (s : State) (d : Nat) : Bool :=
  s.fab.table.any fun e => e.1 == d && e.2 == 48

/-- Whether an agent id names an agent of this device. -/
def agentHere (s : State) (t : Agent) : Bool := agentDev s t == s.dev.num

/-- The key of the unit that an agent id of this device names; a logical core goes through the core map (R15). -/
def agentKey (s : State) (t : Agent) : Nat :=
  let c := agentCluster t
  let u := agentUnit t
  if u < 64 then keyOf c (physOf s c u) else keyOf c u

/-- $self: the logical agent id of a strand (R31, R106). -/
def selfAgent (s : State) (k i : Nat) : Agent := mkAgent i s.dev.num (clusterOfKey k) (unitId s k)

/-- The agent id of a logical core, slot field 0. -/
def coreAgent (s : State) (c l : Nat) : Agent := mkAgent 0 s.dev.num c l

/-- Two agent ids that name one core: the same device, cluster and unit. -/
def sameUnit (s : State) (a b : Agent) : Bool :=
  agentDev s a == agentDev s b && agentCluster a == agentCluster b && agentUnit a == agentUnit b

/-! ### Addresses -/

/-- First byte of a quad's store in the physical space (R151). -/
def quadBase (q : Nat) : Nat := 0x200000000 + q * 0x80000

/-- Where the local store and inbox of a supervisor or streamer stand: above the 52-bit physical space, 512 KiB a unit
(log entry 6: the spec gives these bytes no physical address). -/
def localBase (k : Nat) : Nat := 2 ^ 52 + (8 * clusterOfKey k + (unitOfKey k - 64)) * 0x80000

/-- What a window of logical quad 0x3FF addresses (R152, R221). -/
def ownBase (k : Nat) : Nat := if isCore k then quadBase (quadOfKey k) else localBase k

/-- Offset of inbox entry e in the store that holds it (R211; R220, R285 for the units above 63, log entry 6). -/
def inboxOffset (k e : Nat) : Nat :=
  if isCore k then 0x78000 + 0x2000 * (unitOfKey k % 4) + 512 * e else 0x4000 + 512 * e

/-- First byte of inbox entry e. -/
def inboxAddr (k e : Nat) : Nat := ownBase k + inboxOffset k e

/-- The window on inbox entry e that $msg holds (R212). -/
def inboxWindow (k e : Nat) : Word :=
  BitVec.ofNat 64 (0x3FF * 2 ^ 24 + 9 * 2 ^ 19 + inboxOffset k e % 2 ^ 19)

/-! ### Program counters -/

/-- The PC after a head: the next head of the line, or head 1 of the next line (R26). At an odd PC, which only a write of TRAPPC brings, the head is
that of the address below it, and the PC stays odd (log entry 103). -/
def nextPc (pc : Word) (h : Nat) : Word :=
  let i := pc.toNat % 64 / 2
  if i < h then pc + 2#64 else BitVec.ofNat 64 (pc.toNat / 64 * 64 + 66)

/-- The line base of a PC. -/
def lineBase (pc : Word) : Word := BitVec.ofNat 64 (pc.toNat / 64 * 64)

/-- The target of a branch immediate (R27, R86). -/
def branchTarget (pc : Word) (t : Target) : Word :=
  lineBase pc + BitVec.ofInt 64 (64 * t.line.toInt) + BitVec.ofNat 64 (2 * t.head.toNat)

/-- The strand of the issue latch. -/
def curSlot (s : State) : Slot := slotOf s s.cur.core s.cur.slot

/-- The strand of the issue latch changed. -/
def modCur (s : State) (f : Slot → Slot) : State := modSlot s s.cur.core s.cur.slot f

/-- The PC that follows the instruction of the issue latch (R26). -/
def curNext (s : State) : Word := nextPc s.cur.pc s.cur.h

/-- An error added to a strand's record: the first is kept, later ones are counted (R177). -/
def errWith (p : Option PendErr) (cause : Nat) (addr : Word) : Option PendErr :=
  match p with
  | none => some { cause := cause, addr := addr }
  | some e => some { e with later := e.later + 1 }

/-- An error recorded in a strand (R177). -/
def recordErr (x : Slot) (cause : Nat) (addr : Word) : Slot := { x with pendErr := errWith x.pendErr cause addr }

/-- The errors of pops of poisoned data, given the entries' ids, added to a strand's record (R177). What address a pop's error records the spec does
not say: a free value (log entry 114). -/
def popErrs (p : Option PendErr) (ids : List Nat) : Option PendErr := ids.foldl (fun e id => errWith e 0x0E (Config.poppedAddr id)) p

/-- The ids of the entries that had come poisoned. -/
def badIds (es : List (Nat × QEntry)) : List Nat := (es.filter (·.2.bad)).map (·.2.id)

/-- A strand with nothing left of the instruction it was at, which is complete: what a wait or a replay kept for its re-execution is gone, and what
it has popped poisoned is in its record of errors (R177). -/
def Slot.settled (x : Slot) : Slot :=
  { x with mismatches := 0, fenced := none, peerBuf := [], snap := [], kept := [], taken := [], sampled := none
           pendErr := popErrs x.pendErr (badIds (x.kept ++ x.taken)) }

/-- The strand of the issue latch goes on at a PC; the PC it came from is kept for R25. -/
def goTo (s : State) (pc : Word) : State :=
  modCur s fun x => { x.settled with pc := pc, from' := s.cur.pc }

/-- Cycles of the clock that a unit issues by since reset (R31): its quad's clock runs at the quad's granted frequency against the uncore
clock of 2,250 MHz; a supervisor core and a streamer have no quad and run by the uncore clock (log entry 69). -/
def cycOf (s : State) (k : Nat) : Nat :=
  if isCore k then
    let q := quadOf s (quadOfKey k)
    q.clkBase + (s.uncore - q.clkAt) * q.freq / 2250
  else s.uncore

/-! ### Queues (R252, R253) -/

/-- Entries a queue holds (R252). -/
def queueCap (q : Nat) : Nat := if q == 4 then 16 else 8

/-- A queue of a core. -/
def dqOf (s : State) (k q : Nat) : DataQueue := tget (coreOf s k).queues {} q

/-- The state with a queue set. -/
def setDq (s : State) (k q : Nat) (d : DataQueue) : State :=
  modCore s k fun c => { c with queues := tput c.queues q d }

/-- One word of an incomplete VTOQ enters its queue if there is room (R253). -/
def vtoqStep (cap : Nat) (fresh : Nat) (d : DataQueue) : DataQueue :=
  match d.vto with
  | [] => d
  | v :: r =>
    if d.entries.length < cap then
      match v.words with
      | [] => { d with vto := r }
      | w :: ws => { d with entries := d.entries ++ [{ id := fresh, val := some w }],
                            vto := if ws.isEmpty then r else { v with words := ws } :: r }
    else d

/-- One poppable entry goes to an incomplete VFROMQ that has fewer than 16 words (R253). -/
def vfromqStep (d : DataQueue) : DataQueue :=
  match d.vfrom, d.entries with
  | v :: r, ⟨id, some w, _, b⟩ :: es =>
    if v.words.length < 16 then
      { d with entries := es, vfrom := { v with words := v.words ++ [w], bad := if b then v.bad ++ [id] else v.bad } :: r }
    else d
  | _, _ => d

/-- A queue with its incomplete VTOQ and VFROMQ taken as far as room and data allow (R253). -/
def settle (cap fresh : Nat) (n : Nat) (d : DataQueue) : DataQueue :=
  match n with
  | 0 => d
  | m + 1 => settle cap (fresh + 1) m (vfromqStep (vtoqStep cap fresh d))

/-- The words of a row, word 0 first (R253), and the row of 16 words. -/
def rowOfWords (ws : List Word) : BitVec 1024 :=
  ws.reverse.foldl (fun acc w => (acc <<< 64) ||| w.setWidth 1024) 0#1024

/-- A VFROMQ that has taken its sixteenth word writes its row once and is complete (R253); if its strand is gone the words are dropped. -/
def finishVfrom (s : State) (k q : Nat) : State :=
  let d := dqOf s k q
  match d.vfrom with
  | v :: r =>
    if v.words.length == 16 then
      let s1 := setDq s k q { d with vfrom := r }
      let x := slotOf s1 k v.slot
      if x.uid == v.uid then
        match tfind x.vecs v.vec with
        | some e =>
          setSlot s1 k v.slot { x with vecs := tput x.vecs v.vec { e with data := rowOfWords v.words }, pendErr := popErrs x.pendErr v.bad }
        | none => s1
      else s1
    else s
  | [] => s

/-- Incomplete VTOQ and VFROMQ of a queue taken as far as they go before a row is complete (R253). -/
def settleOnce (k q : Nat) (s : State) : State :=
  let s1 := setDq s k q (settle (queueCap q) s.serial 64 (dqOf s k q))
  finishVfrom { s1 with serial := s.serial + 64 } k q

/-- The same a number of times. -/
def settleTimes (n k q : Nat) (s : State) : State :=
  match n with
  | 0 => s
  | m + 1 => settleTimes m k q (settleOnce k q s)

/-- A queue after its data or its room has changed: incomplete VTOQ and VFROMQ go as far as they can (R253), each pass completing a row if any
can be completed. -/
def settleQueue (s : State) (k q : Nat) : State :=
  let d := dqOf s k q
  if d.vto.isEmpty && d.vfrom.isEmpty then s else settleTimes (d.vto.length + d.vfrom.length + 1) k q s

/-! ### Traps -/

/-- TRAPCAUSE as a register (R284). -/
def trapCauseWord (x : Slot) : Word :=
  BitVec.ofNat 64 (x.cause.toNat + (if x.resume then 256 else 0) + (if x.active then 512 else 0))

/-- The four words of a trap message (R285). -/
def trapWords (s : State) (k i : Nat) : List Word :=
  let x := slotOf s k i
  [s.dev.fwTrap,
   BitVec.ofNat 64 ((selfAgent s k i).toNat + x.cause.toNat * 2 ^ 32 + (if x.active then 2 ^ 40 else 0)
     + (if (coreOf s k).sealed then 2 ^ 41 else 0)),
   x.trapVal, x.trapPc]

/-- The trap message of a strand leaves for the cluster's supervisor (R285). -/
def sendTrap (s : State) (k i : Nat) : State :=
  let c := clusterOfKey k
  let ws := trapWords s k i
  modCluster s c fun x => { x with trapWaits := x.trapWaits ++ [(k, i, ws)] }

/-- A slot as a core holds it: on a core that is halted for debug, a strand that could issue is STOPPED until the release (R101, R304). -/
def atRest (s : State) (k : Nat) (x : Slot) : Slot :=
  if (coreOf s k).halted && x.status == .ready then { x with status := .stopped .halted } else x

/-- The trap registers as trap entry leaves them, ACTIVE apart (R283). -/
def recordTrap (x : Slot) (pc : Word) (cause : Nat) (val : Word) : Slot :=
  { x.settled with cause := BitVec.ofNat 8 cause, trapVal := val, trapPc := pc, resume := cause == 0x13 || cause == 0x14 }

/-- Entries put back at the heads of their queues, in their former order (R71). -/
def putBackAll (es : List (Nat × QEntry)) (c : Core) : Core :=
  match es with
  | [] => c
  | (q, e) :: r =>
    let c1 := putBackAll r c
    let d := tget c1.queues {} q
    { c1 with queues := tput c1.queues q { d with entries := e :: d.entries } }

/-- The queue entries that a strand's instruction has popped go back to the heads of their queues: it waits no longer, and has had no
effect (R71, R119). A VFROMQ that waits for data finds it there (R253). -/
def putBack (s : State) (k i : Nat) : State :=
  let x := slotOf s k i
  match x.taken ++ x.kept with
  | [] => s
  | es => (es.map (·.1)).foldl (fun t q => settleQueue t k q) (modSlot (modCore s k (putBackAll es)) k i fun y => { y with kept := [], taken := [] })

/-- Trap entry by the strand's own vector: ACTIVE is set and control goes to TVEC (R283). -/
def enterVector (x : Slot) (pc : Word) : Slot :=
  { x with active := true, pc := x.tvec, from' := pc, status := .ready }

/-- Trap entry of a cause that never seals (R283), with popped entries put back (R71). -/
def trapPlain (s : State) (k i : Nat) (pc : Word) (cause : Nat) (val : Word) : State :=
  let s1 := putBack s k i
  let x := recordTrap (slotOf s1 k i) pc cause val
  if x.tvec == 0#64 || x.active then
    sendTrap (setSlot s1 k i { x with status := .stopped .trapped }) k i
  else setSlot s1 k i (atRest s1 k (enterVector x pc))

/-- A write-back withdrawn, with the queue entry that was reserved for it: its instruction has had no effect (R4), and a VTOQ that waits for room
finds it (R253). -/
def dropWb (s : State) (k serial : Nat) : State :=
  if serial = 0 then s
  else
    match (coreOf s k).wbs.find? fun w => w.serial == serial with
    | none => s
    | some w =>
      let s1 := modCore s k fun c => { c with wbs := c.wbs.filter fun v => v.serial != serial }
      match w.entry with
      | none => s1
      | some id =>
        let q := w.name.toNat - 241
        let d := dqOf s1 k q
        settleQueue (setDq s1 k q { d with entries := d.entries.filter fun e => e.id != id }) k q

/-- A GETS that traps in its waiting reader (R141, R147): it has written nothing. -/
def trapGets (s : State) (g : GetsReq) (cause : Nat) (val : Word) : State :=
  let x := slotOf s g.core g.slot
  if x.status == .parked (.gets g.serial) && x.uid == g.uid then
    trapPlain (dropWb s g.core g.serial) g.core g.slot x.pc cause val
  else s

/-- A GETS of which the reader is told that the producer is sealed or lost: trap 0x0D in the reader (R147). -/
def failGets (s : State) (g : GetsReq) : State := trapGets s g 0x0D (g.producer.setWidth 64)

/-- LOST set in every list entry that names an agent's core (R147). -/
def markLost (s : State) (p : Agent → Bool) : State :=
  let upd := fun (_ : Nat) (n : Neighbour) => if p n.agent then { n with lost := true } else n
  { s with clusters := tmap s.clusters fun _ c =>
      { c with logicals := tmap c.logicals fun _ l =>
          { l with producers := tmap l.producers upd, subscribers := tmap l.subscribers upd } } }

/-- A strand taken off its gather by itself (R95). -/
def leaveGather (s : State) (k i : Nat) : State :=
  modCluster s (clusterOfKey k) fun x =>
    { x with gathers := (x.gathers.map fun g => { g with members := g.members.filter (· != (k, i)) }).filter
               (fun g => !g.members.isEmpty) }

/-- A strand taken off every list that holds it while it waits (R95, R165): it has had no effect there, and what it popped for the wait
goes back (R119). -/
def withdraw (s : State) (k i : Nat) : State :=
  let keepFe := fun (w : FeWait) => !(w.core == k && w.slot == i && (w.op == .ldfe || w.op == .ldff))
  let keepGets := fun (g : GetsReq) => !(g.core == k && g.slot == i && g.from'.isNone)
  let s1 := { s with quads := tmap s.quads fun _ q =>
    { q with feWaits := q.feWaits.filter keepFe, feRetry := q.feRetry.filter keepFe,
             stepWaits := q.stepWaits.filter keepGets, stepRetry := q.stepRetry.filter fun g => keepGets g.2 } }
  let s2 := match (slotOf s k i).status with
    | .parked (.fullEmpty n) | .parked (.gets n) => dropWb s1 k n
    | _ => s1
  putBack (leaveGather s2 k i) k i

/-- A slot of a core that is sealed: STOPPED, and behind its ALIGN if it was in one (R95, R293); one that a trap has stopped stays so (R291). -/
def stopSlot (x : Slot) : Slot :=
  match x.status with
  | .parked .align => { x with status := .stopped .sealed, from' := x.pc, pc := x.nextPc }
  | .stopped .trapped => x
  | _ => { x with status := .stopped .sealed }

/-- The slots of a core that is sealed: every one is STOPPED (R293). -/
def stopAll (t : Tab Slot) : Tab Slot := (List.range 16).foldl (fun u i => tput u i (stopSlot (tget u {} i))) t

/-- The notice to every peer device that a core is sealed, for the LOST marks there (R147, R293). The spec lays out no such message: the model
sends its words, 4 and the core's agent id, as one of the hardware's (log entry 12). -/
def tellPeers (s : State) (a : Agent) : State :=
  let ds := (List.range s.dev.size).filter fun d => d != s.dev.num && !(unreachable s d)
  { s with hwMsgs := s.hwMsgs ++ ds.map fun d =>
      { msg := { core := 0, serial := 0, target := mkAgent 0 d 0 0, sender := a, launch := none, words := [4#64, a.setWidth 64] } } }

/-- A core is sealed (R293): its waiting strands leave the lists that hold them (R165), slots stop, commands and the run end without
writing, its transfer entries are discarded, GETS waiting for it fail (those of peers as they are looked at again), LOST marks are
set, here and on peer devices. -/
def sealCore (s : State) (k : Nat) (checker : Bool) : State :=
  let c := clusterOfKey k
  let l := unitId s k
  let a := coreAgent s c l
  let s0 := (List.range 16).foldl (fun t i => withdraw t k i) s
  let s1 := modCore s0 k fun x =>
    { x with sealed := true, checkerSealed := x.checkerSealed || checker
             slots := stopAll x.slots
             mx := { x.mx with queue := [], exec := none }
             seq := { x.seq with run := none } }
  let s2 := modLogical s1 c l fun x => { x with xfers := [], comps := [], restart := some (x.paced || x.restart.getD false) }
  let q := quadOfKey k
  let gone := (quadOf s2 q).stepWaits.filter fun g => sameUnit s g.producer a
  let s3 := modQuad s2 q fun x => { x with stepWaits := x.stepWaits.filter fun g => !(sameUnit s g.producer a) }
  let s4 := gone.foldl (fun t g => if g.from'.isSome then post t (.getsArrival g) else failGets t g) s3
  tellPeers (markLost s4 fun n => sameUnit s n a) a

/-- Whether a trap stops its strand (R283): cause 0x0E does, but for a supervisor core's own precise read of poisoned data (R177). -/
def trapStops (k : Nat) (x : Slot) (cause : Nat) (precise : Bool := true) : Bool :=
  (cause == 0x0E && !(isSupervisor k && precise)) || x.tvec == 0#64 || x.active

/-- Taking an exception: trap(cause, value) of the strand in slot i of core k, at a PC (R5, R283), with popped entries put back (R71).
A cause of 0x0E on a core seals it (R178, R293) and tells the supervisor; a checker seal is told apart. `precise` says that the trap is
the instruction's own read of poisoned data (R177). Off the 64 cores of a cluster a cause of 0x0E seals nothing, a fetched line's too (log entry 97). -/
def takeTrapAt (s : State) (k i : Nat) (pc : Word) (cause : Nat) (val : Word) (checker : Bool := false) (precise : Bool := true) : State :=
  let s1 := putBack s k i
  if cause == 0x0E && isCore k then
    let s2 := modSlot s1 k i fun x => { recordTrap x pc cause val with status := .stopped .trapped }
    let s3 := modCore s2 k fun c => { c with culprit := some (c.culprit.getD (selfAgent s1 k i, val)) }
    sendTrap (sealCore s3 k checker) k i
  else
    let x := recordTrap (slotOf s1 k i) pc cause val
    if trapStops k x cause precise then sendTrap (setSlot s1 k i { x with status := .stopped .trapped }) k i
    else setSlot s1 k i (atRest s1 k (enterVector x pc))

/-- Taking an exception in the strand of the issue latch. -/
def takeTrap (s : State) (cause : Nat) (val : Word) : State :=
  takeTrapAt s s.cur.core s.cur.slot s.cur.pc cause val

/-- A pending error raised in the strand of the issue latch (R178): its cause 0x0E stops the strand on every unit. -/
def raiseTrap (s : State) (cause : Nat) (val : Word) : State :=
  takeTrapAt s s.cur.core s.cur.slot s.cur.pc cause val false false

/-- Return from a trap (R286), given the PC that follows TRAPPC under R26: ACTIVE is cleared and control goes to TRAPPC, or past it
when RESUME is 1. -/
def returnFromTrap (x : Slot) (pc next : Word) : Slot :=
  { x.settled with active := false, pc := if x.resume then next else x.trapPc, from' := pc }

/-! ### Bodies -/

/-- What a body answers: a value and the state so far; a trap, taken on the state before the instruction, on a given one, or on the first with what
the arrays' reads did in the second (R4, R173); a wait, likewise; a pending error raised (R178), on a given state; or the slot passed over, with
nothing done, or with what it has read and popped kept for the issue to come (R218). -/
inductive Ans (α : Type) where
  | ok (a : α) (s : State)
  | trap (cause : Nat) (val : Word)
  | trapIn (cause : Nat) (val : Word) (s : State)
  | trapRead (cause : Nat) (val : Word) (s : State)
  | raise (cause : Nat) (val : Word) (s : State)
  | wait (w : Wait)
  | waitIn (w : Wait) (s : State)
  | hold
  | holdIn (s : State)
deriving DecidableEq, Repr

/-- One body after another. -/
def Ans.bind {α β : Type} (x : Ans α) (f : α → State → Ans β) : Ans β :=
  match x with
  | .ok a s => f a s
  | .trap c v => .trap c v
  | .trapIn c v s => .trapIn c v s
  | .trapRead c v s => .trapRead c v s
  | .raise c v s => .raise c v s
  | .wait w => .wait w
  | .waitIn w s => .waitIn w s
  | .hold => .hold
  | .holdIn s => .holdIn s

/-- A body after a read of memory: a trap that abandons the instruction keeps what the read did to its arrays (R4, R173). -/
def Ans.readThen {α β : Type} (x : Ans α) (f : α → State → Ans β) : Ans β :=
  x.bind fun a t =>
    match f a t with
    | .trap c v => .trapRead c v t
    | y => y

/-- A body that goes on only if a test holds, and traps otherwise. -/
def require (b : Bool) (cause : Nat) (val : Word) (s : State) : Ans Unit :=
  if b then .ok () s else .trap cause val

/-- A body that goes on only if another answers ok. -/
def Ans.seq {α : Type} (x : Ans Unit) (f : State → Ans α) : Ans α := x.bind fun _ t => f t

/-- The entries at the head of a queue that can be popped now (R252). -/
def poppable (q : DataQueue) : Nat := (q.entries.takeWhile fun e => e.val.isSome).length

/-- A queue wait with the number of entries it needs: an instruction that found a queue empty needs one entry more than it could
pop, one that found it full one place more than there was room for (R71). -/
def Wait.sized (w : Wait) (c : Core) : Wait :=
  match w with
  | .queueRead q _ => .queueRead q (poppable (tget c.queues {} q) + 1)
  | .queueWrite q _ => .queueWrite q (queueCap q - (tget c.queues {} q).entries.length + 1)
  | w => w

/-- wait(cond) at the strand of the issue latch (R5): parked, its PC at the waiting instruction. Entries that it has popped are kept for
its re-execution, and so is the serial number below which writes had been visible to it when it first issued (R191). -/
def park (s : State) (w : Wait) : State :=
  modCur s fun x =>
    { x with status := .parked (w.sized (coreOf s s.cur.core)), nextPc := nextPc s.cur.pc s.cur.h, kept := x.taken ++ x.kept, taken := [],
             fenced := some (x.fenced.getD s.serial) }

/-- A state with what reads of the arrays have done in another that came of it: what ECC corrected, wrote back, marked and logged, and what the
transfers did on their channels (R173, R174, R180, R181), and what the migration routine has noted (R364). An instruction that is abandoned has read
what it has read. -/
def keepReads (s t : State) : State :=
  { s with flips := t.flips, poison := t.poison, mediaBad := t.mediaBad
           clusters := tmap t.clusters fun c y =>
             { clusterOf s c with arrLog := y.arrLog, vbusLog := y.vbusLog, inject := y.inject, laneMap := y.laneMap, charges := y.charges,
                                  beats := y.beats, brought := y.brought, failures := y.failures } }

/-- How a body ends when it does not complete. A pending error is raised before any effect of the instruction (R178). -/
def endOf {α : Type} (x : Ans α) (s : State) (done : α → State → State) : Host.Outcome State Fault Refusal :=
  match x with
  | .ok a t => .next (done a t)
  | .trap c v => .next (takeTrap s c v)
  | .trapIn c v t => .next (takeTrap t c v)
  | .trapRead c v t => .next (takeTrap (keepReads s t) c v)
  | .raise c v _ => .next (raiseTrap (modCur s fun x => { x with pendErr := none }) c v)
  | .wait w => .next (park s w)
  | .waitIn w t => .next (park t w)
  | .hold => .next s
  | .holdIn t => .next (modCur t fun x => { x with kept := x.taken ++ x.kept, taken := [] })

/-- Run a body; the strand then goes on at the next head (R26). -/
def run (body : State → Ans Unit) (s : State) : Host.Outcome State Fault Refusal :=
  endOf (body s) s fun _ t => goTo t (curNext s)

/-- Run a body that answers the PC to go on at, next when none (R86). -/
def runJump (body : State → Ans (Option Word)) (s : State) : Host.Outcome State Fault Refusal :=
  endOf (body s) s fun a t => goTo t (a.getD (curNext s))

/-- Run a body that has itself said where its strand stands. -/
def runEnd (body : State → Ans Unit) (s : State) : Host.Outcome State Fault Refusal :=
  endOf (body s) s fun _ t => t

/-- A parked or sleeping strand whose instruction has been completed for it goes on after that instruction. -/
def finishWait (s : State) (k i : Nat) : State :=
  modSlot s k i fun x => atRest s k { x.settled with status := .ready, from' := x.pc, pc := x.nextPc }

/-- A parked strand whose condition holds is ready again, at the instruction that waited. -/
def wake (s : State) (k i : Nat) : State :=
  modSlot s k i fun x => atRest s k { x with status := .ready }

end Sys2Proof.Machine
end

