-- ==== Sys2Proof/Machine/Flags.lean ====
section
/-! DEFINITION. STRAND.FLAGS (R233): its bits, raising them, and CLUS.FLAGUNION, which copies each bit as it is set (R235). -/

namespace Sys2Proof.Machine

/-- Invalid. -/
def flagNV : BitVec 8 := 0x01#8
/-- Division by zero. -/
def flagDZ : BitVec 8 := 0x02#8
/-- Overflow. -/
def flagOF : BitVec 8 := 0x04#8
/-- Underflow. -/
def flagUF : BitVec 8 := 0x08#8
/-- Inexact. -/
def flagNX : BitVec 8 := 0x10#8
/-- A value was clamped. -/
def flagSAT : BitVec 8 := 0x20#8
/-- Outlier capacity exceeded. -/
def flagOUT : BitVec 8 := 0x40#8
/-- Illegal code or scale kind read. -/
def flagILC : BitVec 8 := 0x80#8

/-- Flags raised in the strand of a slot: ORed into FLAGS, and on a core into the cluster's union (R233, R235). -/
def raiseFlags (s : State) (k i : Nat) (f : BitVec 8) : State :=
  if f = 0#8 then s
  else
    let s1 := modSlot s k i fun x => { x with flags := x.flags ||| f }
    if isCore k then modCluster s1 (clusterOfKey k) fun c => { c with flagUnion := c.flagUnion ||| f } else s1

end Sys2Proof.Machine
end

