-- ==== Sys2Proof/WellFormed.lean ====
section
/-! DEFINITION. The values of the operand fields that make an instruction legal (R31, R34 to R36). A step that no encoding names is
well formed whatever it carries: each of its operands has a fate in the machine. -/

namespace Sys2Proof

/-- A name that an instruction may write: not one of the read-only fixed names of R31. -/
def writable (n : Name) : Bool :=
  n != 246#8 && n != 247#8 && n != 248#8 && n != 249#8 && n != 255#8

/-- A width or count of 1 to 64 (R34). -/
def legalCount (n : BitVec 7) : Bool :=
  decide (1 ≤ n.toNat) && decide (n.toNat ≤ 64)

/-- A scope of 0 strand to 5 domain (R35). -/
def legalScope (n : BitVec 3) : Bool :=
  decide (n.toNat ≤ 5)

/-- An atomic operation with its size: 32 or 64 bits, and 32 only for fadd (R35). -/
def legalAtomic (op : BitVec 4) (size : BitVec 2) : Bool :=
  decide (op.toNat ≤ 7) && decide (2 ≤ size.toNat) && (op != 7#4 || size == 2#2)

/-- A vector element type code (R41). -/
def legalType (t : BitVec 4) : Bool :=
  decide (t.toNat ≤ 9)

/-- $q0 to $q3 (R36). -/
def dataQueue (n : Name) : Bool :=
  decide (241 ≤ n.toNat) && decide (n.toNat ≤ 244)

/-- $q0 to $q3 and $bq (R36). -/
def queueName (n : Name) : Bool :=
  decide (241 ≤ n.toNat) && decide (n.toNat ≤ 245)

/-- The legality of an instruction's operand values (R36). -/
def Instr.wf (i : Instr) : Bool :=
  match i with
  | .nop => true
  | .yield => true
  | .exit => true
  | .step => true
  | .errfence => true
  | .hret => true
  | .wfe => true
  | .tret => true
  | .bkpt => true
  | .migpt => true
  | .j _ => true
  | .jl a _ => writable a
  | .jr _ => true
  | .jlr a _ => writable a
  | .beq _ _ _ => true
  | .bne _ _ _ => true
  | .blt _ _ _ => true
  | .ble _ _ _ => true
  | .bgt _ _ _ => true
  | .bge _ _ _ => true
  | .bqt _ => true
  | .bqf _ => true
  | .bz _ _ => true
  | .bnz _ _ => true
  | .loop a _ => decide (a.toNat < 240)
  | .align _ _ => true
  | .add a _ _ => writable a
  | .sub a _ _ => writable a
  | .and a _ _ => writable a
  | .or a _ _ => writable a
  | .xor a _ _ => writable a
  | .shl a _ _ => writable a
  | .shr a _ _ => writable a
  | .mul a _ _ => writable a
  | .mov a _ => writable a
  | .addi a _ _ => writable a
  | .rsubi a _ _ => writable a
  | .andi a _ _ => writable a
  | .ori a _ _ => writable a
  | .xori a _ _ => writable a
  | .shli a _ _ => writable a
  | .shri a _ _ => writable a
  | .muli a _ _ => writable a
  | .mini a _ _ => writable a
  | .maxi a _ _ => writable a
  | .ceqi a _ _ => writable a
  | .cnei a _ _ => writable a
  | .clti a _ _ => writable a
  | .clei a _ _ => writable a
  | .cgti a _ _ => writable a
  | .cgei a _ _ => writable a
  | .mulh a _ _ => writable a
  | .div a _ _ => writable a
  | .rem a _ _ => writable a
  | .andn a _ _ => writable a
  | .rot a _ _ => writable a
  | .min a _ _ => writable a
  | .max a _ _ => writable a
  | .abs a _ => writable a
  | .neg a _ => writable a
  | .clz a _ => writable a
  | .ctz a _ => writable a
  | .popc a _ => writable a
  | .bfx a _ _ _ => writable a
  | .bfi a _ _ _ => writable a
  | .sel a _ _ _ => writable a
  | .lea a _ _ _ => writable a
  | .ceq a _ _ => writable a
  | .cne a _ _ => writable a
  | .clt a _ _ => writable a
  | .cle a _ _ => writable a
  | .cgt a _ _ => writable a
  | .cge a _ _ => writable a
  | .movi a _ => writable a
  | .mapld _ _ _ => true
  | .maprel => true
  | .resize _ width => legalCount width
  | .resizev _ count => legalCount count
  | .setmode _ _ mode => decide (mode.toNat ≤ 2)
  | .widthof b _ => writable b
  | .modeof b _ => writable b
  | .seatof b _ => writable b
  | .fork a _ _ => writable a
  | .huskSave _ _ _ => true
  | .huskRun _ _ _ => true
  | .huskSaveg _ _ _ => true
  | .huskRung _ _ _ => true
  | .evsend _ => true
  | .depset _ _ _ => true
  | .skewset _ => true
  | .ringset _ _ _ => true
  | .pace => true
  | .unpace => true
  | .puts _ _ _ => true
  | .gets a _ _ _ _ => writable a
  | .ldq a _ _ _ _ => writable a
  | .stq _ _ _ _ _ => true
  | .ldb a _ _ _ _ => writable a
  | .stb _ _ _ _ _ => true
  | .ldg a _ _ _ _ => writable a
  | .stg _ _ _ _ _ => true
  | .ldfe a _ _ _ => writable a
  | .ldff a _ _ _ => writable a
  | .stfe _ _ _ _ => true
  | .stff _ _ _ _ => true
  | .fefull _ _ _ _ => true
  | .feempty a _ _ _ => writable a
  | .festate a _ _ _ => writable a
  | .win a _ _ kind size => writable a && decide (6 ≤ size.toNat) && decide (size.toNat ≤ 19) && decide (kind.toNat ≤ 1)
  | .fence kind scope => legalScope scope && decide (kind.toNat ≤ 4)
  | .ldacq a _ _ scope _ => writable a && legalScope scope
  | .strel _ _ _ scope _ => legalScope scope
  | .amo a _ _ op size _ scope => writable a && legalAtomic op size && legalScope scope
  | .cas a _ _ _ size _ scope => writable a && decide (2 ≤ size.toNat) && legalScope scope
  | .red _ _ op size order scope => legalAtomic op size && legalScope scope && (order == 0#2 || order == 2#2)
  | .bar _ _ => true
  | .send scope rel _ _ n => legalScope scope && (rel == 1#1 || scope == 0#3) && decide (1 ≤ n.toNat) && decide (n.toNat ≤ 64)
  | .copy a _ _ _ => writable a
  | .xwait _ => true
  | .rpbegin => true
  | .rpend => true
  | .rprun _ _ _ => true
  | .rpruni n => n != 0#16
  | .rpwait => true
  | .vadd _ _ _ => true
  | .vsub _ _ _ => true
  | .vmul _ _ _ => true
  | .vmin _ _ _ => true
  | .vmax _ _ _ => true
  | .vand _ _ _ => true
  | .vor _ _ _ => true
  | .vxor _ _ _ => true
  | .vshl _ _ _ => true
  | .vshr _ _ _ => true
  | .vceq _ _ _ => true
  | .vclt _ _ _ => true
  | .vcle _ _ _ => true
  | .vfma _ _ _ _ => true
  | .vfms _ _ _ _ => true
  | .vsel _ _ _ _ => true
  | .vmov _ _ => true
  | .vabs _ _ => true
  | .vneg _ _ => true
  | .vexp2 _ _ => true
  | .vlog2 _ _ => true
  | .vrcp _ _ => true
  | .vrsq _ _ => true
  | .vfloor _ _ => true
  | .vcvt _ _ ty => legalType ty
  | .vqnt _ _ _ ty => legalType ty
  | .vdqnt _ _ _ => true
  | .voutl _ _ _ => true
  | .vld _ _ _ _ => true
  | .vst _ _ _ _ => true
  | .vldb _ _ _ _ => true
  | .vstb _ _ _ _ => true
  | .vtoq q _ => dataQueue q
  | .vfromq _ q => dataQueue q
  | .vanyq q _ => queueName q
  | .vallq q _ => queueName q
  | .macc a _ c => writable a && writable c
  | .mstat a => writable a
  | .sysrd a _ => writable a
  | .syswr _ _ => true
  | .trap _ => true
  | .tlbinv _ kind => decide (kind.toNat ≤ 4)
  | .quiesce => true
  | .setrm mode => decide (mode.toNat ≤ 4)
  | .flagrd b => writable b
  | .flagclr _ => true
  | .trapMessage _ => true
  | .lateFitTrap => true
  | .writeBackArrival _ _ => true
  | .waitEnd _ _ => true
  | .pauseEnd _ => true
  | .checkerReplay => true
  | .lineFill _ _ => true
  | .alignDeadline _ _ => true
  | .slotArbiterBoundary _ => true
  | .launchPlacement _ _ => true
  | .launchCompletion _ => true
  | .handlerStart _ _ => true
  | .messageArrival _ => true
  | .messageRetry _ => true
  | .eventArrival _ => true
  | .copyRequest _ _ => true
  | .resumePacket _ _ _ _ _ _ => true
  | .completionArrival _ _ _ _ => true
  | .announceArrival _ _ _ _ _ => true
  | .countRequest _ _ => true
  | .stepFinish _ => true
  | .stepBegin _ => true
  | .getsArrival _ => true
  | .getsRetry _ => true
  | .feopRetry _ _ => true
  | .storePerformed _ _ => true
  | .atomicPerform _ _ => true
  | .faultQueueRetry _ _ => true
  | .vbusRetryAttempt _ _ => true
  | .laneSwap _ _ _ => true
  | .rpRunEntry _ => true
  | .mctx _ => true
  | .mzero _ => true
  | .mtile _ => true
  | .mma _ => true
  | .mread _ => true
  | .mfence _ => true
  | .resumeSlot _ _ => true
  | .freeSlot _ _ => true
  | .huskSlot _ _ _ => true
  | .haltCore _ => true
  | .releaseCore _ => true
  | .resetAndUnsealCore _ => true
  | .migreq _ _ => true
  | .coremapSwap _ _ _ => true
  | .barcfg _ _ => true
  | .barcancel _ _ => true
  | .flagunionClear _ _ => true
  | .logEntryRemove _ _ _ => true
  | .inject _ _ => true
  | .storehold _ _ => true
  | .oppointRequest _ _ => true
  | .energyLoRead _ _ => true
  | .registerWrite _ _ => true
  | .resvRead _ => true
  | .commit _ _ => true
  | .nopPacket _ => true
  | .launch _ => true
  | .launchExt _ => true
  | .sheafBegin _ => true
  | .sheafCommit _ => true
  | .signal _ => true
  | .waitPacket _ => true
  | .waitPoll _ => true
  | .setweight _ => true
  | .setsec _ => true
  | .preempt _ => true
  | .preemptDeadline _ => true
  | .resumeq _ => true
  | .resetq _ => true
  | .drain => true
  | .seal => true
  | .fwstage => true
  | .fwactivate => true
  | .attest => true
  | .setmigt => true
  | .secregion => true
  | .migrationRequest _ _ _ => true
  | .budgetPeriod _ _ => true
  | .voltageTrim _ _ => true
  | .thermalSample _ _ => true
  | .enumRefresh => true
  | .hostCxlMemAccess _ _ _ => true
  | .deviceReset => true
  | .flit _ _ _ _ => true
  | .linkDead _ => true
  | .laneFailure _ _ => true
  | .portUp _ _ _ _ => true
  | .read _ => true
  | .write _ => true
  | .atomic _ => true
  | .msg _ => true
  | .steprd _ => true
  | .resp _ => true
  | .ack _ => true
  | .standaloneAck _ _ => true
  | .replayTimeout _ _ => true
  | .installNotice _ _ => true
  | .activateNotice _ => true
  | .unreachableNotice _ => true
  | .illegalEncoding => true
  | .kBlockCompletion _ => true
  | .fabricManagerTold _ _ _ => true
  | .installAck _ _ => true
  | .domainFormation _ _ _ => true
  | .recovery => true

end Sys2Proof
end

