-- ==== Sys2Proof/Machine/Operands.lean ====
section
/-! DEFINITION. Operand forms: scalar names and fixed names (R31, R71), fitting a value to a name (R5, R68), data queues (R252), and
windows (R154). -/

namespace Sys2Proof.Machine

/-! ### Values and declarations -/

/-- val(n) of a declared name (R5): its bits as two's complement if signed, unsigned otherwise. -/
def NameEntry.value (e : NameEntry) : Int :=
  if e.signed then (e.bits.setWidth e.width).toInt else ((e.bits.setWidth e.width).toNat : Int)

/-- The smallest value that a width and signedness can hold. -/
def lowest (w : Nat) (signed : Bool) : Int := if signed then -(2 ^ (w - 1)) else 0

/-- The largest value that a width and signedness can hold. -/
def highest (w : Nat) (signed : Bool) : Int := if signed then 2 ^ (w - 1) - 1 else 2 ^ w - 1

/-- Whether a value is representable in a width and signedness. -/
def fits (x : Int) (w : Nat) (signed : Bool) : Bool := decide (lowest w signed ≤ x) && decide (x ≤ highest w signed)

/-- x mod 2^w read back under a signedness (R68). -/
def wrapTo (x : Int) (w : Nat) (signed : Bool) : Int :=
  if signed then (BitVec.ofInt w x).toInt else ((BitVec.ofInt w x).toNat : Int)

/-- The outcome of fit(x, n) (R5, R68): the value kept with whether it was clamped, or none where trap mode cannot hold it. -/
def fitTo (x : Int) (w : Nat) (signed : Bool) (m : FitMode) : Option (Int × Bool) :=
  if fits x w signed then some (x, false)
  else
    match m with
    | .wrap => some (wrapTo x w signed, false)
    | .sat => some (if x < lowest w signed then lowest w signed else highest w signed, true)
    | .trap => none

/-- x mod 2^64 as a word: what a trap reports of a value (R5). -/
def wordOf (x : Int) : Word := BitVec.ofInt 64 x

/-- The bits that hold a value in a name. -/
def NameEntry.store (e : NameEntry) (x : Int) : NameEntry :=
  { e with bits := (BitVec.ofInt e.width x).setWidth 64, poison := false }

/-- The width of a fixed name (R31). -/
def fixedWidth (n : Nat) : Nat :=
  if n == 245 then 1 else if n == 246 || n == 247 || n == 248 then 32 else 64

/-- Whether a name id is fixed (R31). -/
def isFixed (n : Name) : Bool := decide (240 ≤ n.toNat)

/-- The declared entry of a name in a slot. -/
def nameOf (s : State) (k i : Nat) (n : Name) : Option NameEntry := tfind (slotOf s k i).names n.toNat

/-- The state with a declared name's entry set. -/
def setName (s : State) (k i : Nat) (n : Name) (e : NameEntry) : State :=
  modSlot s k i fun x => { x with names := tput x.names n.toNat e }

/-! ### Queues -/

/-- The number of a queue name: 0 to 3 for $q0 to $q3, 4 for $bq (R31). -/
def queueIdx (n : Name) : Nat := n.toNat - 241

/-- Whether a name is a queue (R31). -/
def isQueue (n : Name) : Bool := decide (241 ≤ n.toNat) && decide (n.toNat ≤ 245)

/-- A pop of the head entry (R71, R252): the strand waits while the head is absent or not yet poppable, or an earlier VFROMQ is
incomplete. -/
def popHead (q : Nat) (s : State) : Ans Word :=
  let k := s.cur.core
  let d := dqOf s k q
  match d.vfrom, d.entries with
  | [], ⟨n, some w, p, b⟩ :: es =>
    .ok w (modCur (settleQueue (setDq s k q { d with entries := es }) k q) fun x => { x with taken := x.taken ++ [(q, ⟨n, some w, p, b⟩)] })
  | _, _ => .wait (.queueRead q 0)

/-- A pop by the instruction at the PC: an entry that it popped before it waited or was replayed is taken again (R71, R88, R292), and
otherwise the head is popped. -/
def popQueue (q : Nat) (s : State) : Ans Word :=
  let l := (curSlot s).kept
  match indexWhere (fun e : Nat × QEntry => e.1 == q) l with
  | some j => .ok (((l[j]?).bind (·.2.val)).getD 0#64) (modCur s fun x =>
      { x with kept := dropAt l j, taken := x.taken ++ (l[j]?).toList })
  | none => popHead q s

/-- The raise point of R178: a pending error traps before any effect of the instruction, and is then no longer pending. -/
def raisePoint (s : State) : Ans Unit :=
  match (curSlot s).pendErr with
  | none => .ok () s
  | some e => .raise e.cause e.addr (modCur s fun x => { x with pendErr := none })

/-- A push (R71, R252): the pusher waits while every entry is reserved or an earlier VTOQ is incomplete. -/
def pushNow (q : Nat) (v : Word) (s : State) : Ans Unit :=
  let k := s.cur.core
  let d := dqOf s k q
  if d.vto.isEmpty && decide (d.entries.length < queueCap q) then
    let s1 := setDq s k q { d with entries := d.entries ++ [{ id := s.serial, val := some v }] }
    .ok () (settleQueue { s1 with serial := s.serial + 1 } k q)
  else .wait (.queueWrite q 1)

/-- A push by a strand's instruction, which raises a pending error first (R178). -/
def pushQueue (q : Nat) (v : Word) (s : State) : Ans Unit := (raisePoint s).seq fun s => pushNow q v s

/-- A reservation of an entry for a value that arrives later (R252): its push leaves with this instruction, so that a pending error is
raised first (R178). -/
def reserveQueue (q : Nat) (s : State) : Ans Nat :=
  (raisePoint s).seq fun s =>
  let k := s.cur.core
  let d := dqOf s k q
  if d.vto.isEmpty && decide (d.entries.length < queueCap q) then
    let s1 := setDq s k q { d with entries := d.entries ++ [{ id := s.serial, val := none }] }
    .ok s.serial { s1 with serial := s.serial + 1 }
  else .wait (.queueWrite q 1)

/-! ### Reading and writing names -/

/-- $cyc and $step at the issue latch (R31): a replayed instruction reads what it read before (R82). $step of a unit without step state
reads 0. -/
def sampleOf (s : State) : Word × Word :=
  let k := s.cur.core
  (curSlot s).sampled.getD
    (BitVec.ofNat 64 (cycOf s k), (logicalOf s (clusterOfKey k) (unitId s k)).s.setWidth 64)

/-- The value of a fixed name that is no queue (R31). -/
def fixedValue (s : State) (n : Nat) : Word :=
  let k := s.cur.core
  let x := curSlot s
  if n == 246 then (sampleOf s).2
  else if n == 247 then (selfAgent s k s.cur.slot).setWidth 64
  else if n == 248 then x.xid.setWidth 64
  else if n == 249 then x.msg
  else if n == 250 then x.lnk
  else if n == 251 then x.w0
  else if n == 252 then x.w1
  else if n == 253 then x.w2
  else if n == 254 then x.w3
  else if n == 255 then (sampleOf s).1
  else 0#64

/-- Read a source field (R67, R71): the exact value, with a pop for a queue name; an undeclared id traps with cause 0x03 (R31). -/
def readName (n : Name) (s : State) : Ans Int :=
  if isQueue n then (popQueue (queueIdx n) s).bind fun w t => .ok (w.toNat : Int) t
  else if isFixed n then .ok ((fixedValue s n.toNat).toNat : Int) s
  else
    match nameOf s s.cur.core s.cur.slot n with
    | some e => .ok e.value s
    | none => .trap 0x03 (n.setWidth 64)

/-- A slot with a writable fixed name that is no queue written (R31), and with the poison mark that came with the value (R222). -/
def Slot.setFixed (x : Slot) (n : Nat) (w : Word) (mark : Bool) : Slot :=
  let y := { x with marks := if mark then sput x.marks n else sdel x.marks n }
  if n == 250 then { y with lnk := w }
  else if n == 251 then { y with w0 := w }
  else if n == 252 then { y with w1 := w }
  else if n == 253 then { y with w2 := w }
  else if n == 254 then { y with w3 := w }
  else x

/-- The state with a writable fixed name that is no queue written (R31). -/
def writeFixed (s : State) (n : Nat) (w : Word) : State := modCur s fun x => x.setFixed n w false

/-- A declared name given a fitted value; SAT is raised when it was clamped (R68). -/
def putName (s : State) (k i : Nat) (n : Name) (e : NameEntry) (v : Int) (sat : Bool) : State :=
  raiseFlags (setName s k i n (e.store v)) k i (if sat then flagSAT else 0#8)

/-- write(n, x) (R5, R68, R71): $zero discards, a queue takes the value wrapped, a read-only name traps with cause 0x02. -/
def writeName (n : Name) (x : Int) (s : State) : Ans Unit :=
  if isQueue n then pushQueue (queueIdx n) (if n == 245#8 then wordOf (x % 2) else wordOf x) s
  else if isFixed n then (if writable n then .ok () (writeFixed s n.toNat (wordOf x)) else .trap 0x02 0#64)
  else
    match nameOf s s.cur.core s.cur.slot n with
    | none => .trap 0x03 (n.setWidth 64)
    | some e =>
      match fitTo x e.width e.signed e.mode with
      | some (v, sat) => .ok () (putName s s.cur.core s.cur.slot n e v sat)
      | none => .trap 0x04 (wordOf x)

/-- A value that arrives later at a destination (R72, R367): a write-back is outstanding until then. $zero discards it when it has come, a
queue's entry is reserved, a read-only name traps with cause 0x02, and an undeclared id traps with cause 0x03 (R31). The answer is the write-back's serial number. -/
def deferWrite (a : Name) (x : Option Int) (err : Option (Nat × Word)) (poison : Bool) (s : State) : Ans Nat :=
  let k := s.cur.core
  let i := s.cur.slot
  let wb : WriteBack := { serial := s.serial, slot := i, uid := (slotOf s k i).uid, name := a, val := x, err := err, poison := poison }
  let add := fun (w : WriteBack) (t : State) =>
    modCore { t with serial := t.serial + 1 } k fun c => { c with wbs := c.wbs ++ [{ w with serial := t.serial }] }
  if isQueue a then
    (reserveQueue (queueIdx a) s).bind fun e t => .ok t.serial (add { wb with entry := some e } t)
  else if isFixed a then (if writable a then .ok s.serial (add wb s) else .trap 0x02 0#64)
  else
    match nameOf s k i a with
    | none => .trap 0x03 (a.setWidth 64)
    | some _ => .ok s.serial (add wb s)

/-- Width of a name, declared or fixed (R65, R70); an undeclared id traps. -/
def widthOfName (n : Name) (s : State) : Ans Nat :=
  if isFixed n then .ok (fixedWidth n.toNat) s
  else
    match nameOf s s.cur.core s.cur.slot n with
    | some e => .ok e.width s
    | none => .trap 0x03 (n.setWidth 64)

/-- Signedness of a name; fixed names are unsigned (R31). -/
def signedOfName (n : Name) (s : State) : Ans Bool :=
  if isFixed n then .ok false s
  else
    match nameOf s s.cur.core s.cur.slot n with
    | some e => .ok e.signed s
    | none => .trap 0x03 (n.setWidth 64)

/-- Bits read into a name: as two's complement if the name is signed, unsigned otherwise (R81, R159, R166). -/
def readAs (bits : Nat) (signed : Bool) (v : Nat) : Int :=
  if signed then (BitVec.ofNat bits v).toInt else ((BitVec.ofNat bits v).toNat : Int)

/-! ### Windows -/

/-- KIND of a window descriptor (R154). -/
def winKind (w : Word) : Nat := bitsOf w.toNat 35 34
/-- QUAD of a window descriptor. -/
def winQuad (w : Word) : Nat := bitsOf w.toNat 33 24
/-- LG of a window descriptor. -/
def winLg (w : Word) : Nat := bitsOf w.toNat 23 19
/-- BASE of a window descriptor, rounded down to the window's size. -/
def winBase (w : Word) : Nat := bitsOf w.toNat 18 0 / 2 ^ winLg w * 2 ^ winLg w

/-- Whether a descriptor passes the checks of R154; `cmd` says whether a kind 01 window is admitted (R158). -/
def winValid (w : Word) (cmd : Bool) : Bool :=
  bitsOf w.toNat 63 36 == 0 && (winKind w == 0 || (winKind w == 1 && cmd && winQuad w == 0x3FF))
    && decide (6 ≤ winLg w) && decide (winLg w ≤ 19)

/-- Physical address of the store that a window names, seen from a core (R151, R152). -/
def winStore (k : Nat) (w : Word) : Nat :=
  if winQuad w == 0x3FF then ownBase k else quadBase (winQuad w)

/-- Byte offset in the store of a size-byte access at an offset through a window (R5): wrapped, then rounded down. -/
def winOffset (w : Word) (off : Int) (size : Nat) : Nat :=
  (winBase w + (off % (2 ^ winLg w : Nat)).toNat) / size * size

/-- Physical address of a size-byte access through a window (R5). -/
def winAddr (k : Nat) (w : Word) (off : Int) (size : Nat) : Nat :=
  winStore k w + winOffset w off size

/-- Read a window operand and check its descriptor (R154, R158): cause 0x09 with the descriptor. Supervisors and streamers have no
command queue and admit no kind 01 (R263). -/
def readWindow (n : Name) (cmd : Bool) (s : State) : Ans Word :=
  (readName n s).bind fun x t =>
    let w := wordOf x
    if winValid w (cmd && isCore s.cur.core) then .ok w t else .trap 0x09 w

end Sys2Proof.Machine
end

