-- ==== Sys2Proof/Machine/Control.lean ====
section
/-! DEFINITION. The control class (R86 to R95): jumps, branches, LOOP and ALIGN. -/

namespace Sys2Proof.Machine

/-- A conditional branch's answer: its target or next (R86). -/
def branchIf (b : Bool) (t : Target) (s : State) : Ans (Option Word) :=
  .ok (if b then some (branchTarget s.cur.pc t) else none) s

/-- A branch on two compared values (R91). -/
def branchOn (f : Int → Int → Bool) (b c : Name) (t : Target) : State → Ans (Option Word) := fun s =>
  (readName b s).bind fun x s => (readName c s).bind fun y s => branchIf (f x y) t s

/-- A branch on the next branch outcome (R88, R91): one entry is popped whether or not it branches. -/
def branchOutcome (want : Word) (t : Target) : State → Ans (Option Word) := fun s =>
  (popQueue 4 s).bind fun w s => branchIf (w == want) t s

/-- J (R90). -/
def execJ (t : Target) (s : State) : Host.Outcome State Fault Refusal := runJump (branchIf true t) s

/-- JL (R89, R90): the link is fitted before control transfers. -/
def execJl (a : Name) (t : Target) (s : State) : Host.Outcome State Fault Refusal :=
  runJump (fun s => (writeName a ((curNext s).toNat : Int) s).bind fun _ s => branchIf true t s) s

/-- JR (R90). -/
def execJr (a : Name) (s : State) : Host.Outcome State Fault Refusal :=
  runJump (fun s => (readName a s).bind fun x s => .ok (some (wordOf x)) s) s

/-- JLR (R90): the target is read before the link is written. -/
def execJlr (a b : Name) (s : State) : Host.Outcome State Fault Refusal :=
  runJump (fun s => (readName b s).bind fun x s => (writeName a ((curNext s).toNat : Int) s).bind fun _ s =>
    .ok (some (wordOf x)) s) s

/-- BEQ. -/
def execBeq (b c : Name) (t : Target) (s : State) : Host.Outcome State Fault Refusal :=
  runJump (branchOn (fun x y => decide (x = y)) b c t) s
/-- BNE. -/
def execBne (b c : Name) (t : Target) (s : State) : Host.Outcome State Fault Refusal :=
  runJump (branchOn (fun x y => decide (x ≠ y)) b c t) s
/-- BLT. -/
def execBlt (b c : Name) (t : Target) (s : State) : Host.Outcome State Fault Refusal :=
  runJump (branchOn (fun x y => decide (x < y)) b c t) s
/-- BLE. -/
def execBle (b c : Name) (t : Target) (s : State) : Host.Outcome State Fault Refusal :=
  runJump (branchOn (fun x y => decide (x ≤ y)) b c t) s
/-- BGT. -/
def execBgt (b c : Name) (t : Target) (s : State) : Host.Outcome State Fault Refusal :=
  runJump (branchOn (fun x y => decide (x > y)) b c t) s
/-- BGE. -/
def execBge (b c : Name) (t : Target) (s : State) : Host.Outcome State Fault Refusal :=
  runJump (branchOn (fun x y => decide (x ≥ y)) b c t) s
/-- BQT. -/
def execBqt (t : Target) (s : State) : Host.Outcome State Fault Refusal := runJump (branchOutcome 1#64 t) s
/-- BQF. -/
def execBqf (t : Target) (s : State) : Host.Outcome State Fault Refusal := runJump (branchOutcome 0#64 t) s

/-- BZ (R92). -/
def execBz (a : Name) (t : Target) (s : State) : Host.Outcome State Fault Refusal :=
  runJump (fun s => (readName a s).bind fun x s => branchIf (decide (x = 0)) t s) s

/-- BNZ (R92). -/
def execBnz (a : Name) (t : Target) (s : State) : Host.Outcome State Fault Refusal :=
  runJump (fun s => (readName a s).bind fun x s => branchIf (decide (x ≠ 0)) t s) s

/-- LOOP (R93): the counter is decremented under its own mode, and the value just stored is tested. -/
def execLoop (a : Name) (t : Target) (s : State) : Host.Outcome State Fault Refusal :=
  runJump (fun s =>
    if isFixed a then .trap 0x02 0#64
    else
      (readName a s).bind fun x s => (writeName a (x - 1) s).bind fun _ s => (readName a s).bind fun y s =>
        branchIf (decide (y ≠ 0)) t s) s

/-! ### ALIGN -/

/-- The live work strands of a launch in a cluster: core keys and slots. -/
def liveStrands (s : State) (launch : Option Nat) (c : Nat) : List (Nat × Nat) :=
  (s.cores.filter fun e => clusterOfKey e.1 == c && isCore e.1).flatMap fun e =>
    (e.2.slots.filter fun x => decide (x.1 < 14) && x.2.status != .free && x.2.launch == launch).map fun x => (e.1, x.1)

/-- Whether every live work strand of a gather's launch in the cluster is a member (R95). -/
def gatherFull (s : State) (c : Nat) (g : Gather) : Bool :=
  (liveStrands s g.launch c).all fun m => g.members.contains m

/-- The members of a gather released: each goes on at next (R95). -/
def releaseMembers (s : State) (ms : List (Nat × Nat)) : State :=
  ms.foldl (fun t m => if (slotOf t m.1 m.2).status == .parked .align then finishWait t m.1 m.2 else t) s

/-- A gather entry closed and its members released. -/
def releaseGather (s : State) (c idx : Nat) : State :=
  match (clusterOf s c).gathers[idx]? with
  | none => s
  | some g => releaseMembers (modCluster s c fun x => { x with gathers := dropAt x.gathers idx }) g.members

/-- A cluster's gather entries whose deadline has come released: a strand that arrives in that cycle no longer joins them (R95). -/
def releaseDue (s : State) (c : Nat) : State :=
  let due := fun (g : Gather) => decide (g.deadline ≤ s.uncore)
  match (clusterOf s c).gathers.filter due with
  | [] => s
  | gs => releaseMembers (modCluster s c fun x => { x with gathers := x.gathers.filter fun g => !(due g) }) (gs.flatMap (·.members))

/-- ALIGN's body (R94, R95). In a work slot of a streamer, which R95 does not name, it completes as on a supervisor core (log entry 78). -/
def alignBody (tag : BitVec 8) (timeout : BitVec 16) (s : State) : Ans Unit :=
  let k := s.cur.core
  let i := s.cur.slot
  let c := clusterOfKey k
  let x := curSlot s
  if timeout = 0#16 || !(isCore k) || decide (14 ≤ i) then .ok () s
  else
    let s := releaseDue s c
    let gs := (clusterOf s c).gathers
    match indexWhere (fun g : Gather => g.launch == x.launch && g.tag == tag && g.pc == s.cur.pc) gs with
    | none =>
      if gs.length < 16 then
        let g : Gather := { launch := x.launch, tag := tag, pc := s.cur.pc, deadline := s.uncore + timeout.toNat,
                            members := [(k, i)] }
        if gatherFull s c g then .ok () s
        else .waitIn .align (modCluster s c fun y => { y with gathers := y.gathers ++ [g] })
      else .ok () s
    | some j =>
      match gs[j]? with
      | none => .ok () s
      | some g =>
        let g1 := { g with members := g.members ++ [(k, i)] }
        if gatherFull s c g1 then .ok () (releaseGather s c j)
        else .waitIn .align (modCluster s c fun y => { y with gathers := y.gathers.set j g1 })

/-- ALIGN. -/
def execAlign (tag : BitVec 8) (timeout : BitVec 16) (s : State) : Host.Outcome State Fault Refusal :=
  run (alignBody tag timeout) s

/-- ALIGN_DEADLINE: a gather entry whose deadline has passed, or that every live work strand of its launch has joined, is released (R95). -/
def execAlignDeadline (cluster idx : Nat) (s : State) : Host.Outcome State Fault Refusal :=
  match (clusterOf s cluster).gathers[idx]? with
  | none => .next s
  | some g => if decide (g.deadline ≤ s.uncore) || gatherFull s cluster g then .next (releaseGather s cluster idx) else .next s

end Sys2Proof.Machine
end

