-- ==== Sys2Proof/Decode.lean ====
section
/-! DEFINITION. Lines, heads and their encodings (R22 to R36): the layouts, the decoder, and an encoder written from the same tables. -/

namespace Sys2Proof

/-- The seven layouts (R29). -/
inductive Layout where
  | h0 | n2 | imm | n3s | n2i | s2i | i64
deriving DecidableEq, Repr

/-- The layout of a major opcode (R29, R32); `none` for the unassigned majors of R36. -/
def layoutOf (maj : Nat) : Option Layout :=
  match maj with
  | 0 | 3 | 40 => some .h0
  | 4 | 10 | 11 | 12 | 13 | 14 | 15 | 16 | 17 | 18 | 26 | 49 | 59 => some .n2
  | 1 | 2 | 6 | 7 | 8 | 9 | 46 | 60 | 61 => some .imm
  | 20 | 38 | 43 | 44 | 52 | 53 | 54 | 55 | 56 | 57 | 58 => some .n3s
  | 19 | 24 | 30 | 31 | 32 | 33 | 34 | 35 | 36 | 37 | 39 | 41 | 42 | 45 | 48 => some .n2i
  | 5 | 22 | 25 | 29 | 47 | 51 | 62 => some .s2i
  | 21 => some .i64
  | _ => none

/-- The tail size code that a layout's head carries (R29). -/
def Layout.code : Layout → BitVec 2
  | .h0 => 0#2
  | .n2 | .imm => 1#2
  | .n3s | .n2i | .s2i => 2#2
  | .i64 => 3#2

/-- How many tail parcels a tail size code gives (R23). -/
def tailParcels (code : BitVec 2) : Nat :=
  match code.toNat with
  | 0 => 0
  | 1 => 1
  | 2 => 2
  | _ => 4

/-- The fields of a head and its tail, as R29 places them; a field that the layout lacks is zero. -/
structure Fields where
  a : BitVec 8 := 0#8
  b : BitVec 8 := 0#8
  c : BitVec 8 := 0#8
  sub : BitVec 8 := 0#8
  d : BitVec 8 := 0#8
  imm : BitVec 16 := 0#16
  wide : BitVec 64 := 0#64
deriving DecidableEq, Repr

/-- The fields of a tail under a layout (R29); `none` where the tail is not of the layout's size. -/
def fieldsOf (l : Layout) (a : BitVec 8) (tail : List Parcel) : Option Fields :=
  match l, tail with
  | .h0, [] => some { a := a }
  | .n2, [t0] => some { a := a, b := t0.extractLsb' 8 8, c := t0.extractLsb' 0 8 }
  | .imm, [t0] => some { a := a, imm := t0 }
  | .n3s, [t0, t1] => some { a := a, b := t0.extractLsb' 8 8, c := t0.extractLsb' 0 8, sub := t1.extractLsb' 8 8,
                             d := t1.extractLsb' 0 8 }
  | .n2i, [t0, t1] => some { a := a, b := t0.extractLsb' 8 8, c := t0.extractLsb' 0 8, imm := t1 }
  | .s2i, [t0, t1] => some { a := a, b := t0.extractLsb' 8 8, c := t0.extractLsb' 0 8, imm := t1 }
  | .i64, [t0, t1, t2, t3] => some { a := a, wide := t3 ++ t2 ++ t1 ++ t0 }
  | _, _ => none

/-- The instruction that a major and its fields stand for (R32 to R34): sub-ops beyond their lists and nonzero zero
fields give none. -/
def instrOf (maj : Nat) (f : Fields) : Option Instr :=
  match maj with
  | 0 => match f.a.toNat with
    | 0 => some (.nop)
    | 1 => some (.yield)
    | 2 => some (.exit)
    | 3 => some (.step)
    | 4 => some (.errfence)
    | 5 => some (.hret)
    | 6 => some (.wfe)
    | 7 => some (.tret)
    | 8 => some (.bkpt)
    | 9 => some (.migpt)
    | _ => none
  | 1 => if f.a == 0#8 then some (.j ⟨f.imm.extractLsb' 5 11, f.imm.extractLsb' 0 5⟩) else none
  | 2 => some (.jl f.a ⟨f.imm.extractLsb' 5 11, f.imm.extractLsb' 0 5⟩)
  | 3 => some (.jr f.a)
  | 4 => if f.c == 0#8 then some (.jlr f.a f.b) else none
  | 5 => match f.a.toNat with
    | 0 => some (.beq f.b f.c ⟨f.imm.extractLsb' 5 11, f.imm.extractLsb' 0 5⟩)
    | 1 => some (.bne f.b f.c ⟨f.imm.extractLsb' 5 11, f.imm.extractLsb' 0 5⟩)
    | 2 => some (.blt f.b f.c ⟨f.imm.extractLsb' 5 11, f.imm.extractLsb' 0 5⟩)
    | 3 => some (.ble f.b f.c ⟨f.imm.extractLsb' 5 11, f.imm.extractLsb' 0 5⟩)
    | 4 => some (.bgt f.b f.c ⟨f.imm.extractLsb' 5 11, f.imm.extractLsb' 0 5⟩)
    | 5 => some (.bge f.b f.c ⟨f.imm.extractLsb' 5 11, f.imm.extractLsb' 0 5⟩)
    | 6 => if f.b == 0#8 && f.c == 0#8 then some (.bqt ⟨f.imm.extractLsb' 5 11, f.imm.extractLsb' 0 5⟩) else none
    | 7 => if f.b == 0#8 && f.c == 0#8 then some (.bqf ⟨f.imm.extractLsb' 5 11, f.imm.extractLsb' 0 5⟩) else none
    | _ => none
  | 6 => some (.bz f.a ⟨f.imm.extractLsb' 5 11, f.imm.extractLsb' 0 5⟩)
  | 7 => some (.bnz f.a ⟨f.imm.extractLsb' 5 11, f.imm.extractLsb' 0 5⟩)
  | 8 => some (.loop f.a ⟨f.imm.extractLsb' 5 11, f.imm.extractLsb' 0 5⟩)
  | 9 => some (.align f.a f.imm)
  | 10 => some (.add f.a f.b f.c)
  | 11 => some (.sub f.a f.b f.c)
  | 12 => some (.and f.a f.b f.c)
  | 13 => some (.or f.a f.b f.c)
  | 14 => some (.xor f.a f.b f.c)
  | 15 => some (.shl f.a f.b f.c)
  | 16 => some (.shr f.a f.b f.c)
  | 17 => some (.mul f.a f.b f.c)
  | 18 => if f.c == 0#8 then some (.mov f.a f.b) else none
  | 19 => match f.c.toNat with
    | 0 => some (.addi f.a f.b f.imm)
    | 1 => some (.rsubi f.a f.b f.imm)
    | 2 => some (.andi f.a f.b f.imm)
    | 3 => some (.ori f.a f.b f.imm)
    | 4 => some (.xori f.a f.b f.imm)
    | 5 => if f.imm.extractLsb' 7 9 == 0#9 then some (.shli f.a f.b (f.imm.extractLsb' 0 7)) else none
    | 6 => if f.imm.extractLsb' 7 9 == 0#9 then some (.shri f.a f.b (f.imm.extractLsb' 0 7)) else none
    | 7 => some (.muli f.a f.b f.imm)
    | 8 => some (.mini f.a f.b f.imm)
    | 9 => some (.maxi f.a f.b f.imm)
    | 10 => some (.ceqi f.a f.b f.imm)
    | 11 => some (.cnei f.a f.b f.imm)
    | 12 => some (.clti f.a f.b f.imm)
    | 13 => some (.clei f.a f.b f.imm)
    | 14 => some (.cgti f.a f.b f.imm)
    | 15 => some (.cgei f.a f.b f.imm)
    | _ => none
  | 20 => match f.sub.toNat with
    | 0 => if f.d == 0#8 then some (.mulh f.a f.b f.c) else none
    | 1 => if f.d == 0#8 then some (.div f.a f.b f.c) else none
    | 2 => if f.d == 0#8 then some (.rem f.a f.b f.c) else none
    | 3 => if f.d == 0#8 then some (.andn f.a f.b f.c) else none
    | 4 => if f.d == 0#8 then some (.rot f.a f.b f.c) else none
    | 5 => if f.d == 0#8 then some (.min f.a f.b f.c) else none
    | 6 => if f.d == 0#8 then some (.max f.a f.b f.c) else none
    | 7 => if f.c == 0#8 && f.d == 0#8 then some (.abs f.a f.b) else none
    | 8 => if f.c == 0#8 && f.d == 0#8 then some (.neg f.a f.b) else none
    | 9 => if f.c == 0#8 && f.d == 0#8 then some (.clz f.a f.b) else none
    | 10 => if f.c == 0#8 && f.d == 0#8 then some (.ctz f.a f.b) else none
    | 11 => if f.c == 0#8 && f.d == 0#8 then some (.popc f.a f.b) else none
    | 12 => some (.bfx f.a f.b f.c f.d)
    | 13 => some (.bfi f.a f.b f.c f.d)
    | 14 => some (.sel f.a f.b f.c f.d)
    | 15 => if f.d.extractLsb' 3 5 == 0#5 then some (.lea f.a f.b f.c (f.d.extractLsb' 0 3)) else none
    | 16 => if f.d == 0#8 then some (.ceq f.a f.b f.c) else none
    | 17 => if f.d == 0#8 then some (.cne f.a f.b f.c) else none
    | 18 => if f.d == 0#8 then some (.clt f.a f.b f.c) else none
    | 19 => if f.d == 0#8 then some (.cle f.a f.b f.c) else none
    | 20 => if f.d == 0#8 then some (.cgt f.a f.b f.c) else none
    | 21 => if f.d == 0#8 then some (.cge f.a f.b f.c) else none
    | _ => none
  | 21 => some (.movi f.a f.wide)
  | 22 => match f.a.toNat with
    | 0 => some (.mapld f.b f.c f.imm)
    | 1 => if f.b == 0#8 && f.c == 0#8 && f.imm == 0#16 then some (.maprel) else none
    | 2 => if f.imm.extractLsb' 7 9 == 0#9 && f.c == 0#8 then some (.resize f.b (f.imm.extractLsb' 0 7)) else none
    | 3 => if f.b.extractLsb' 6 2 == 0#2 && f.imm.extractLsb' 7 9 == 0#9 && f.c == 0#8 then some (.resizev (f.b.extractLsb' 0 6) (f.imm.extractLsb' 0 7)) else none
    | 4 => if f.imm.extractLsb' 3 13 == 0#13 && f.c == 0#8 then some (.setmode f.b (f.imm.extractLsb' 2 1) (f.imm.extractLsb' 0 2)) else none
    | 5 => if f.imm == 0#16 then some (.widthof f.b f.c) else none
    | 6 => if f.imm == 0#16 then some (.modeof f.b f.c) else none
    | 7 => if f.imm == 0#16 then some (.seatof f.b f.c) else none
    | _ => none
  | 24 => if f.c == 0#8 then some (.fork f.a f.b ⟨f.imm.extractLsb' 5 11, f.imm.extractLsb' 0 5⟩) else none
  | 25 => match f.a.toNat with
    | 0 => some (.huskSave f.b f.c f.imm)
    | 1 => some (.huskRun f.b f.c f.imm)
    | 2 => some (.huskSaveg f.b f.c f.imm)
    | 3 => some (.huskRung f.b f.c f.imm)
    | _ => none
  | 26 => if f.b == 0#8 && f.c == 0#8 then some (.evsend f.a) else none
  | 29 => match f.a.toNat with
    | 0 => if f.imm.extractLsb' 4 11 == 0#11 && f.c == 0#8 then some (.depset f.b (f.imm.extractLsb' 15 1) (f.imm.extractLsb' 0 4)) else none
    | 1 => if f.b == 0#8 && f.c == 0#8 then some (.skewset f.imm) else none
    | 2 => if f.imm.extractLsb' 4 8 == 0#8 && f.c == 0#8 then some (.ringset f.b (f.imm.extractLsb' 12 4) (f.imm.extractLsb' 0 4)) else none
    | 3 => if f.b == 0#8 && f.c == 0#8 && f.imm == 0#16 then some (.pace) else none
    | 4 => if f.b == 0#8 && f.c == 0#8 && f.imm == 0#16 then some (.unpace) else none
    | _ => none
  | 30 => if f.imm.extractLsb' 14 2 == 0#2 && f.b == 0#8 && f.c == 0#8 then some (.puts f.a (f.imm.extractLsb' 12 2) (f.imm.extractLsb' 0 12)) else none
  | 31 => if f.imm.extractLsb' 14 2 == 0#2 then some (.gets f.a f.b f.c (f.imm.extractLsb' 12 2) (f.imm.extractLsb' 0 12)) else none
  | 32 => some (.ldq f.a f.b f.c (f.imm.extractLsb' 14 2) (f.imm.extractLsb' 0 14))
  | 33 => some (.stq f.a f.b f.c (f.imm.extractLsb' 14 2) (f.imm.extractLsb' 0 14))
  | 34 => some (.ldb f.a f.b f.c (f.imm.extractLsb' 6 10) (f.imm.extractLsb' 0 6))
  | 35 => some (.stb f.a f.b f.c (f.imm.extractLsb' 6 10) (f.imm.extractLsb' 0 6))
  | 36 => some (.ldg f.a f.b f.c (f.imm.extractLsb' 14 2) (f.imm.extractLsb' 0 14))
  | 37 => some (.stg f.a f.b f.c (f.imm.extractLsb' 14 2) (f.imm.extractLsb' 0 14))
  | 38 => match f.sub.toNat with
    | 0 => some (.ldfe f.a f.b f.c f.d)
    | 1 => some (.ldff f.a f.b f.c f.d)
    | 2 => some (.stfe f.a f.b f.c f.d)
    | 3 => some (.stff f.a f.b f.c f.d)
    | 4 => some (.fefull f.a f.b f.c f.d)
    | 5 => some (.feempty f.a f.b f.c f.d)
    | 6 => some (.festate f.a f.b f.c f.d)
    | _ => none
  | 39 => if f.imm.extractLsb' 7 9 == 0#9 then some (.win f.a f.b f.c (f.imm.extractLsb' 5 2) (f.imm.extractLsb' 0 5)) else none
  | 40 => if f.a.extractLsb' 6 2 == 0#2 then some (.fence (f.a.extractLsb' 3 3) (f.a.extractLsb' 0 3)) else none
  | 41 => if f.c == 0#8 then some (.ldacq f.a f.b (f.imm.extractLsb' 14 2) (f.imm.extractLsb' 11 3) (f.imm.extractLsb' 0 11)) else none
  | 42 => if f.c == 0#8 then some (.strel f.a f.b (f.imm.extractLsb' 14 2) (f.imm.extractLsb' 11 3) (f.imm.extractLsb' 0 11)) else none
  | 43 => if f.d.extractLsb' 0 5 == 0#5 then some (.amo f.a f.b f.c (f.sub.extractLsb' 4 4) (f.sub.extractLsb' 2 2) (f.sub.extractLsb' 0 2) (f.d.extractLsb' 5 3)) else none
  | 44 => if f.sub.extractLsb' 0 1 == 0#1 then some (.cas f.a f.b f.c f.d (f.sub.extractLsb' 6 2) (f.sub.extractLsb' 4 2) (f.sub.extractLsb' 1 3)) else none
  | 45 => if f.imm.extractLsb' 0 5 == 0#5 && f.c == 0#8 then some (.red f.a f.b (f.imm.extractLsb' 12 4) (f.imm.extractLsb' 10 2) (f.imm.extractLsb' 8 2) (f.imm.extractLsb' 5 3)) else none
  | 46 => if f.imm.extractLsb' 5 10 == 0#10 && f.a == 0#8 then some (.bar (f.imm.extractLsb' 15 1) (f.imm.extractLsb' 0 5)) else none
  | 47 => if f.a.extractLsb' 4 4 == 0#4 && f.imm.extractLsb' 7 9 == 0#9 then some (.send (f.a.extractLsb' 1 3) (f.a.extractLsb' 0 1) f.b f.c (f.imm.extractLsb' 0 7)) else none
  | 48 => some (.copy f.a f.b f.c f.imm)
  | 49 => if f.b == 0#8 && f.c == 0#8 then some (.xwait f.a) else none
  | 51 => match f.a.toNat with
    | 0 => if f.b == 0#8 && f.c == 0#8 && f.imm == 0#16 then some (.rpbegin) else none
    | 1 => if f.b == 0#8 && f.c == 0#8 && f.imm == 0#16 then some (.rpend) else none
    | 2 => some (.rprun f.b f.c f.imm)
    | 3 => if f.b == 0#8 && f.c == 0#8 then some (.rpruni f.imm) else none
    | 4 => if f.b == 0#8 && f.c == 0#8 && f.imm == 0#16 then some (.rpwait) else none
    | _ => none
  | 52 => match f.sub.toNat with
    | 0 => if f.a.extractLsb' 7 1 == 0#1 && f.b.extractLsb' 7 1 == 0#1 && f.c.extractLsb' 7 1 == 0#1 && f.d == 0#8 then some (.vadd ⟨f.a.extractLsb' 6 1, f.a.extractLsb' 0 6⟩ ⟨f.b.extractLsb' 6 1, f.b.extractLsb' 0 6⟩ ⟨f.c.extractLsb' 6 1, f.c.extractLsb' 0 6⟩) else none
    | 1 => if f.a.extractLsb' 7 1 == 0#1 && f.b.extractLsb' 7 1 == 0#1 && f.c.extractLsb' 7 1 == 0#1 && f.d == 0#8 then some (.vsub ⟨f.a.extractLsb' 6 1, f.a.extractLsb' 0 6⟩ ⟨f.b.extractLsb' 6 1, f.b.extractLsb' 0 6⟩ ⟨f.c.extractLsb' 6 1, f.c.extractLsb' 0 6⟩) else none
    | 2 => if f.a.extractLsb' 7 1 == 0#1 && f.b.extractLsb' 7 1 == 0#1 && f.c.extractLsb' 7 1 == 0#1 && f.d == 0#8 then some (.vmul ⟨f.a.extractLsb' 6 1, f.a.extractLsb' 0 6⟩ ⟨f.b.extractLsb' 6 1, f.b.extractLsb' 0 6⟩ ⟨f.c.extractLsb' 6 1, f.c.extractLsb' 0 6⟩) else none
    | 3 => if f.a.extractLsb' 7 1 == 0#1 && f.b.extractLsb' 7 1 == 0#1 && f.c.extractLsb' 7 1 == 0#1 && f.d == 0#8 then some (.vmin ⟨f.a.extractLsb' 6 1, f.a.extractLsb' 0 6⟩ ⟨f.b.extractLsb' 6 1, f.b.extractLsb' 0 6⟩ ⟨f.c.extractLsb' 6 1, f.c.extractLsb' 0 6⟩) else none
    | 4 => if f.a.extractLsb' 7 1 == 0#1 && f.b.extractLsb' 7 1 == 0#1 && f.c.extractLsb' 7 1 == 0#1 && f.d == 0#8 then some (.vmax ⟨f.a.extractLsb' 6 1, f.a.extractLsb' 0 6⟩ ⟨f.b.extractLsb' 6 1, f.b.extractLsb' 0 6⟩ ⟨f.c.extractLsb' 6 1, f.c.extractLsb' 0 6⟩) else none
    | 5 => if f.a.extractLsb' 7 1 == 0#1 && f.b.extractLsb' 7 1 == 0#1 && f.c.extractLsb' 7 1 == 0#1 && f.d == 0#8 then some (.vand ⟨f.a.extractLsb' 6 1, f.a.extractLsb' 0 6⟩ ⟨f.b.extractLsb' 6 1, f.b.extractLsb' 0 6⟩ ⟨f.c.extractLsb' 6 1, f.c.extractLsb' 0 6⟩) else none
    | 6 => if f.a.extractLsb' 7 1 == 0#1 && f.b.extractLsb' 7 1 == 0#1 && f.c.extractLsb' 7 1 == 0#1 && f.d == 0#8 then some (.vor ⟨f.a.extractLsb' 6 1, f.a.extractLsb' 0 6⟩ ⟨f.b.extractLsb' 6 1, f.b.extractLsb' 0 6⟩ ⟨f.c.extractLsb' 6 1, f.c.extractLsb' 0 6⟩) else none
    | 7 => if f.a.extractLsb' 7 1 == 0#1 && f.b.extractLsb' 7 1 == 0#1 && f.c.extractLsb' 7 1 == 0#1 && f.d == 0#8 then some (.vxor ⟨f.a.extractLsb' 6 1, f.a.extractLsb' 0 6⟩ ⟨f.b.extractLsb' 6 1, f.b.extractLsb' 0 6⟩ ⟨f.c.extractLsb' 6 1, f.c.extractLsb' 0 6⟩) else none
    | 8 => if f.a.extractLsb' 7 1 == 0#1 && f.b.extractLsb' 7 1 == 0#1 && f.c.extractLsb' 7 1 == 0#1 && f.d == 0#8 then some (.vshl ⟨f.a.extractLsb' 6 1, f.a.extractLsb' 0 6⟩ ⟨f.b.extractLsb' 6 1, f.b.extractLsb' 0 6⟩ ⟨f.c.extractLsb' 6 1, f.c.extractLsb' 0 6⟩) else none
    | 9 => if f.a.extractLsb' 7 1 == 0#1 && f.b.extractLsb' 7 1 == 0#1 && f.c.extractLsb' 7 1 == 0#1 && f.d == 0#8 then some (.vshr ⟨f.a.extractLsb' 6 1, f.a.extractLsb' 0 6⟩ ⟨f.b.extractLsb' 6 1, f.b.extractLsb' 0 6⟩ ⟨f.c.extractLsb' 6 1, f.c.extractLsb' 0 6⟩) else none
    | 10 => if f.a.extractLsb' 7 1 == 0#1 && f.b.extractLsb' 7 1 == 0#1 && f.c.extractLsb' 7 1 == 0#1 && f.d == 0#8 then some (.vceq ⟨f.a.extractLsb' 6 1, f.a.extractLsb' 0 6⟩ ⟨f.b.extractLsb' 6 1, f.b.extractLsb' 0 6⟩ ⟨f.c.extractLsb' 6 1, f.c.extractLsb' 0 6⟩) else none
    | 11 => if f.a.extractLsb' 7 1 == 0#1 && f.b.extractLsb' 7 1 == 0#1 && f.c.extractLsb' 7 1 == 0#1 && f.d == 0#8 then some (.vclt ⟨f.a.extractLsb' 6 1, f.a.extractLsb' 0 6⟩ ⟨f.b.extractLsb' 6 1, f.b.extractLsb' 0 6⟩ ⟨f.c.extractLsb' 6 1, f.c.extractLsb' 0 6⟩) else none
    | 12 => if f.a.extractLsb' 7 1 == 0#1 && f.b.extractLsb' 7 1 == 0#1 && f.c.extractLsb' 7 1 == 0#1 && f.d == 0#8 then some (.vcle ⟨f.a.extractLsb' 6 1, f.a.extractLsb' 0 6⟩ ⟨f.b.extractLsb' 6 1, f.b.extractLsb' 0 6⟩ ⟨f.c.extractLsb' 6 1, f.c.extractLsb' 0 6⟩) else none
    | _ => none
  | 53 => match f.sub.toNat with
    | 0 => if f.a.extractLsb' 7 1 == 0#1 && f.b.extractLsb' 7 1 == 0#1 && f.c.extractLsb' 7 1 == 0#1 && f.d.extractLsb' 7 1 == 0#1 then some (.vfma ⟨f.a.extractLsb' 6 1, f.a.extractLsb' 0 6⟩ ⟨f.b.extractLsb' 6 1, f.b.extractLsb' 0 6⟩ ⟨f.c.extractLsb' 6 1, f.c.extractLsb' 0 6⟩ ⟨f.d.extractLsb' 6 1, f.d.extractLsb' 0 6⟩) else none
    | 1 => if f.a.extractLsb' 7 1 == 0#1 && f.b.extractLsb' 7 1 == 0#1 && f.c.extractLsb' 7 1 == 0#1 && f.d.extractLsb' 7 1 == 0#1 then some (.vfms ⟨f.a.extractLsb' 6 1, f.a.extractLsb' 0 6⟩ ⟨f.b.extractLsb' 6 1, f.b.extractLsb' 0 6⟩ ⟨f.c.extractLsb' 6 1, f.c.extractLsb' 0 6⟩ ⟨f.d.extractLsb' 6 1, f.d.extractLsb' 0 6⟩) else none
    | 2 => if f.a.extractLsb' 7 1 == 0#1 && f.b.extractLsb' 7 1 == 0#1 && f.c.extractLsb' 7 1 == 0#1 && f.d.extractLsb' 7 1 == 0#1 then some (.vsel ⟨f.a.extractLsb' 6 1, f.a.extractLsb' 0 6⟩ ⟨f.b.extractLsb' 6 1, f.b.extractLsb' 0 6⟩ ⟨f.c.extractLsb' 6 1, f.c.extractLsb' 0 6⟩ ⟨f.d.extractLsb' 6 1, f.d.extractLsb' 0 6⟩) else none
    | _ => none
  | 54 => match f.sub.toNat with
    | 0 => if f.a.extractLsb' 7 1 == 0#1 && f.b.extractLsb' 7 1 == 0#1 && f.c == 0#8 && f.d == 0#8 then some (.vmov ⟨f.a.extractLsb' 6 1, f.a.extractLsb' 0 6⟩ ⟨f.b.extractLsb' 6 1, f.b.extractLsb' 0 6⟩) else none
    | 1 => if f.a.extractLsb' 7 1 == 0#1 && f.b.extractLsb' 7 1 == 0#1 && f.c == 0#8 && f.d == 0#8 then some (.vabs ⟨f.a.extractLsb' 6 1, f.a.extractLsb' 0 6⟩ ⟨f.b.extractLsb' 6 1, f.b.extractLsb' 0 6⟩) else none
    | 2 => if f.a.extractLsb' 7 1 == 0#1 && f.b.extractLsb' 7 1 == 0#1 && f.c == 0#8 && f.d == 0#8 then some (.vneg ⟨f.a.extractLsb' 6 1, f.a.extractLsb' 0 6⟩ ⟨f.b.extractLsb' 6 1, f.b.extractLsb' 0 6⟩) else none
    | 3 => if f.a.extractLsb' 7 1 == 0#1 && f.b.extractLsb' 7 1 == 0#1 && f.c == 0#8 && f.d == 0#8 then some (.vexp2 ⟨f.a.extractLsb' 6 1, f.a.extractLsb' 0 6⟩ ⟨f.b.extractLsb' 6 1, f.b.extractLsb' 0 6⟩) else none
    | 4 => if f.a.extractLsb' 7 1 == 0#1 && f.b.extractLsb' 7 1 == 0#1 && f.c == 0#8 && f.d == 0#8 then some (.vlog2 ⟨f.a.extractLsb' 6 1, f.a.extractLsb' 0 6⟩ ⟨f.b.extractLsb' 6 1, f.b.extractLsb' 0 6⟩) else none
    | 5 => if f.a.extractLsb' 7 1 == 0#1 && f.b.extractLsb' 7 1 == 0#1 && f.c == 0#8 && f.d == 0#8 then some (.vrcp ⟨f.a.extractLsb' 6 1, f.a.extractLsb' 0 6⟩ ⟨f.b.extractLsb' 6 1, f.b.extractLsb' 0 6⟩) else none
    | 6 => if f.a.extractLsb' 7 1 == 0#1 && f.b.extractLsb' 7 1 == 0#1 && f.c == 0#8 && f.d == 0#8 then some (.vrsq ⟨f.a.extractLsb' 6 1, f.a.extractLsb' 0 6⟩ ⟨f.b.extractLsb' 6 1, f.b.extractLsb' 0 6⟩) else none
    | 7 => if f.a.extractLsb' 7 1 == 0#1 && f.b.extractLsb' 7 1 == 0#1 && f.c == 0#8 && f.d == 0#8 then some (.vfloor ⟨f.a.extractLsb' 6 1, f.a.extractLsb' 0 6⟩ ⟨f.b.extractLsb' 6 1, f.b.extractLsb' 0 6⟩) else none
    | _ => none
  | 55 => match f.sub.toNat with
    | 0 => if f.a.extractLsb' 7 1 == 0#1 && f.b.extractLsb' 7 1 == 0#1 && f.d.extractLsb' 4 4 == 0#4 && f.c == 0#8 then some (.vcvt ⟨f.a.extractLsb' 6 1, f.a.extractLsb' 0 6⟩ ⟨f.b.extractLsb' 6 1, f.b.extractLsb' 0 6⟩ (f.d.extractLsb' 0 4)) else none
    | 1 => if f.a.extractLsb' 7 1 == 0#1 && f.b.extractLsb' 7 1 == 0#1 && f.c.extractLsb' 7 1 == 0#1 && f.d.extractLsb' 4 4 == 0#4 then some (.vqnt ⟨f.a.extractLsb' 6 1, f.a.extractLsb' 0 6⟩ ⟨f.b.extractLsb' 6 1, f.b.extractLsb' 0 6⟩ ⟨f.c.extractLsb' 6 1, f.c.extractLsb' 0 6⟩ (f.d.extractLsb' 0 4)) else none
    | 2 => if f.a.extractLsb' 7 1 == 0#1 && f.b.extractLsb' 7 1 == 0#1 && f.c.extractLsb' 7 1 == 0#1 && f.d == 0#8 then some (.vdqnt ⟨f.a.extractLsb' 6 1, f.a.extractLsb' 0 6⟩ ⟨f.b.extractLsb' 6 1, f.b.extractLsb' 0 6⟩ ⟨f.c.extractLsb' 6 1, f.c.extractLsb' 0 6⟩) else none
    | 3 => if f.a.extractLsb' 7 1 == 0#1 && f.b.extractLsb' 7 1 == 0#1 && f.c.extractLsb' 7 1 == 0#1 && f.d == 0#8 then some (.voutl ⟨f.a.extractLsb' 6 1, f.a.extractLsb' 0 6⟩ ⟨f.b.extractLsb' 6 1, f.b.extractLsb' 0 6⟩ ⟨f.c.extractLsb' 6 1, f.c.extractLsb' 0 6⟩) else none
    | _ => none
  | 56 => match f.sub.toNat with
    | 0 => if f.a.extractLsb' 7 1 == 0#1 then some (.vld ⟨f.a.extractLsb' 6 1, f.a.extractLsb' 0 6⟩ f.b f.c f.d) else none
    | 1 => if f.a.extractLsb' 7 1 == 0#1 then some (.vst ⟨f.a.extractLsb' 6 1, f.a.extractLsb' 0 6⟩ f.b f.c f.d) else none
    | 2 => if f.a.extractLsb' 7 1 == 0#1 then some (.vldb ⟨f.a.extractLsb' 6 1, f.a.extractLsb' 0 6⟩ f.b f.c f.d) else none
    | 3 => if f.a.extractLsb' 7 1 == 0#1 then some (.vstb ⟨f.a.extractLsb' 6 1, f.a.extractLsb' 0 6⟩ f.b f.c f.d) else none
    | _ => none
  | 57 => match f.sub.toNat with
    | 0 => if f.b.extractLsb' 7 1 == 0#1 && f.c == 0#8 && f.d == 0#8 then some (.vtoq f.a ⟨f.b.extractLsb' 6 1, f.b.extractLsb' 0 6⟩) else none
    | 1 => if f.a.extractLsb' 7 1 == 0#1 && f.c == 0#8 && f.d == 0#8 then some (.vfromq ⟨f.a.extractLsb' 6 1, f.a.extractLsb' 0 6⟩ f.b) else none
    | 2 => if f.b.extractLsb' 7 1 == 0#1 && f.c == 0#8 && f.d == 0#8 then some (.vanyq f.a ⟨f.b.extractLsb' 6 1, f.b.extractLsb' 0 6⟩) else none
    | 3 => if f.b.extractLsb' 7 1 == 0#1 && f.c == 0#8 && f.d == 0#8 then some (.vallq f.a ⟨f.b.extractLsb' 6 1, f.b.extractLsb' 0 6⟩) else none
    | _ => none
  | 58 => if f.sub == 0#8 && f.d == 0#8 then some (.macc f.a f.b f.c) else none
  | 59 => if f.b == 0#8 && f.c == 0#8 then some (.mstat f.a) else none
  | 60 => some (.sysrd f.a f.imm)
  | 61 => some (.syswr f.a f.imm)
  | 62 => match f.a.toNat with
    | 0 => if f.b == 0#8 && f.c == 0#8 then some (.trap f.imm) else none
    | 1 => if f.imm.extractLsb' 3 13 == 0#13 && f.c == 0#8 then some (.tlbinv f.b (f.imm.extractLsb' 0 3)) else none
    | 2 => if f.b == 0#8 && f.c == 0#8 && f.imm == 0#16 then some (.quiesce) else none
    | 3 => if f.imm.extractLsb' 3 13 == 0#13 && f.b == 0#8 && f.c == 0#8 then some (.setrm (f.imm.extractLsb' 0 3)) else none
    | 4 => if f.c == 0#8 && f.imm == 0#16 then some (.flagrd f.b) else none
    | 5 => if f.imm.extractLsb' 8 8 == 0#8 && f.b == 0#8 && f.c == 0#8 then some (.flagclr (f.imm.extractLsb' 0 8)) else none
    | _ => none
  | _ => none

/-- The decoder: one head with its tail (R23, R24). `none` is an encoding that R36 gives cause 0x02. -/
def decodeHead (head : Parcel) (tail : List Parcel) : Option Instr :=
  match layoutOf (head.extractLsb' 8 6).toNat with
  | none => none
  | some l =>
    if head.extractLsb' 14 2 == l.code then
      match fieldsOf l (head.extractLsb' 0 8) tail with
      | none => none
      | some f =>
        match instrOf (head.extractLsb' 8 6).toNat f with
        | some i => if i.wf then some i else none
        | none => none
    else none

/-- The major and the fields of an instruction (R32 to R35); `none` for a step that no encoding names. -/
def Instr.fields (i : Instr) : Option (Nat × Fields) :=
  match i with
  | .nop => some (0, {})
  | .yield => some (0, { a := 1#8 })
  | .exit => some (0, { a := 2#8 })
  | .step => some (0, { a := 3#8 })
  | .errfence => some (0, { a := 4#8 })
  | .hret => some (0, { a := 5#8 })
  | .wfe => some (0, { a := 6#8 })
  | .tret => some (0, { a := 7#8 })
  | .bkpt => some (0, { a := 8#8 })
  | .migpt => some (0, { a := 9#8 })
  | .j t => some (1, { imm := t.line ++ t.head })
  | .jl a t => some (2, { a := a, imm := t.line ++ t.head })
  | .jr a => some (3, { a := a })
  | .jlr a b => some (4, { a := a, b := b })
  | .beq b c t => some (5, { b := b, c := c, imm := t.line ++ t.head })
  | .bne b c t => some (5, { a := 1#8, b := b, c := c, imm := t.line ++ t.head })
  | .blt b c t => some (5, { a := 2#8, b := b, c := c, imm := t.line ++ t.head })
  | .ble b c t => some (5, { a := 3#8, b := b, c := c, imm := t.line ++ t.head })
  | .bgt b c t => some (5, { a := 4#8, b := b, c := c, imm := t.line ++ t.head })
  | .bge b c t => some (5, { a := 5#8, b := b, c := c, imm := t.line ++ t.head })
  | .bqt t => some (5, { a := 6#8, imm := t.line ++ t.head })
  | .bqf t => some (5, { a := 7#8, imm := t.line ++ t.head })
  | .bz a t => some (6, { a := a, imm := t.line ++ t.head })
  | .bnz a t => some (7, { a := a, imm := t.line ++ t.head })
  | .loop a t => some (8, { a := a, imm := t.line ++ t.head })
  | .align tag timeout => some (9, { a := tag, imm := timeout })
  | .add a b c => some (10, { a := a, b := b, c := c })
  | .sub a b c => some (11, { a := a, b := b, c := c })
  | .and a b c => some (12, { a := a, b := b, c := c })
  | .or a b c => some (13, { a := a, b := b, c := c })
  | .xor a b c => some (14, { a := a, b := b, c := c })
  | .shl a b c => some (15, { a := a, b := b, c := c })
  | .shr a b c => some (16, { a := a, b := b, c := c })
  | .mul a b c => some (17, { a := a, b := b, c := c })
  | .mov a b => some (18, { a := a, b := b })
  | .addi a b imm => some (19, { a := a, b := b, imm := imm })
  | .rsubi a b imm => some (19, { a := a, b := b, c := 1#8, imm := imm })
  | .andi a b imm => some (19, { a := a, b := b, c := 2#8, imm := imm })
  | .ori a b imm => some (19, { a := a, b := b, c := 3#8, imm := imm })
  | .xori a b imm => some (19, { a := a, b := b, c := 4#8, imm := imm })
  | .shli a b count => some (19, { a := a, b := b, c := 5#8, imm := 0#9 ++ count })
  | .shri a b count => some (19, { a := a, b := b, c := 6#8, imm := 0#9 ++ count })
  | .muli a b imm => some (19, { a := a, b := b, c := 7#8, imm := imm })
  | .mini a b imm => some (19, { a := a, b := b, c := 8#8, imm := imm })
  | .maxi a b imm => some (19, { a := a, b := b, c := 9#8, imm := imm })
  | .ceqi a b imm => some (19, { a := a, b := b, c := 10#8, imm := imm })
  | .cnei a b imm => some (19, { a := a, b := b, c := 11#8, imm := imm })
  | .clti a b imm => some (19, { a := a, b := b, c := 12#8, imm := imm })
  | .clei a b imm => some (19, { a := a, b := b, c := 13#8, imm := imm })
  | .cgti a b imm => some (19, { a := a, b := b, c := 14#8, imm := imm })
  | .cgei a b imm => some (19, { a := a, b := b, c := 15#8, imm := imm })
  | .mulh a b c => some (20, { a := a, b := b, c := c })
  | .div a b c => some (20, { a := a, b := b, c := c, sub := 1#8 })
  | .rem a b c => some (20, { a := a, b := b, c := c, sub := 2#8 })
  | .andn a b c => some (20, { a := a, b := b, c := c, sub := 3#8 })
  | .rot a b c => some (20, { a := a, b := b, c := c, sub := 4#8 })
  | .min a b c => some (20, { a := a, b := b, c := c, sub := 5#8 })
  | .max a b c => some (20, { a := a, b := b, c := c, sub := 6#8 })
  | .abs a b => some (20, { a := a, b := b, sub := 7#8 })
  | .neg a b => some (20, { a := a, b := b, sub := 8#8 })
  | .clz a b => some (20, { a := a, b := b, sub := 9#8 })
  | .ctz a b => some (20, { a := a, b := b, sub := 10#8 })
  | .popc a b => some (20, { a := a, b := b, sub := 11#8 })
  | .bfx a b c d => some (20, { a := a, b := b, c := c, sub := 12#8, d := d })
  | .bfi a b c d => some (20, { a := a, b := b, c := c, sub := 13#8, d := d })
  | .sel a b c d => some (20, { a := a, b := b, c := c, sub := 14#8, d := d })
  | .lea a b c sh => some (20, { a := a, b := b, c := c, sub := 15#8, d := 0#5 ++ sh })
  | .ceq a b c => some (20, { a := a, b := b, c := c, sub := 16#8 })
  | .cne a b c => some (20, { a := a, b := b, c := c, sub := 17#8 })
  | .clt a b c => some (20, { a := a, b := b, c := c, sub := 18#8 })
  | .cle a b c => some (20, { a := a, b := b, c := c, sub := 19#8 })
  | .cgt a b c => some (20, { a := a, b := b, c := c, sub := 20#8 })
  | .cge a b c => some (20, { a := a, b := b, c := c, sub := 21#8 })
  | .movi a imm => some (21, { a := a, wide := imm })
  | .mapld b c disp => some (22, { b := b, c := c, imm := disp })
  | .maprel => some (22, { a := 1#8 })
  | .resize b width => some (22, { a := 2#8, b := b, imm := 0#9 ++ width })
  | .resizev v count => some (22, { a := 3#8, b := 0#2 ++ v, imm := 0#9 ++ count })
  | .setmode b sgn mode => some (22, { a := 4#8, b := b, imm := 0#13 ++ sgn ++ mode })
  | .widthof b c => some (22, { a := 5#8, b := b, c := c })
  | .modeof b c => some (22, { a := 6#8, b := b, c := c })
  | .seatof b c => some (22, { a := 7#8, b := b, c := c })
  | .fork a b t => some (24, { a := a, b := b, imm := t.line ++ t.head })
  | .huskSave b c disp => some (25, { b := b, c := c, imm := disp })
  | .huskRun b c disp => some (25, { a := 1#8, b := b, c := c, imm := disp })
  | .huskSaveg b c disp => some (25, { a := 2#8, b := b, c := c, imm := disp })
  | .huskRung b c disp => some (25, { a := 3#8, b := b, c := c, imm := disp })
  | .evsend a => some (26, { a := a })
  | .depset b subs idx => some (29, { b := b, imm := subs ++ 0#11 ++ idx })
  | .skewset limit => some (29, { a := 1#8, imm := limit })
  | .ringset b ring depth => some (29, { a := 2#8, b := b, imm := ring ++ 0#8 ++ depth })
  | .pace => some (29, { a := 3#8 })
  | .unpace => some (29, { a := 4#8 })
  | .puts a ring off => some (30, { a := a, imm := 0#2 ++ ring ++ off })
  | .gets a b c ring off => some (31, { a := a, b := b, c := c, imm := 0#2 ++ ring ++ off })
  | .ldq a b c size disp => some (32, { a := a, b := b, c := c, imm := size ++ disp })
  | .stq a b c size disp => some (33, { a := a, b := b, c := c, imm := size ++ disp })
  | .ldb a b c disp bits => some (34, { a := a, b := b, c := c, imm := disp ++ bits })
  | .stb a b c disp bits => some (35, { a := a, b := b, c := c, imm := disp ++ bits })
  | .ldg a b c size disp => some (36, { a := a, b := b, c := c, imm := size ++ disp })
  | .stg a b c size disp => some (37, { a := a, b := b, c := c, imm := size ++ disp })
  | .ldfe a b c d => some (38, { a := a, b := b, c := c, d := d })
  | .ldff a b c d => some (38, { a := a, b := b, c := c, sub := 1#8, d := d })
  | .stfe a b c d => some (38, { a := a, b := b, c := c, sub := 2#8, d := d })
  | .stff a b c d => some (38, { a := a, b := b, c := c, sub := 3#8, d := d })
  | .fefull a b c d => some (38, { a := a, b := b, c := c, sub := 4#8, d := d })
  | .feempty a b c d => some (38, { a := a, b := b, c := c, sub := 5#8, d := d })
  | .festate a b c d => some (38, { a := a, b := b, c := c, sub := 6#8, d := d })
  | .win a b c kind size => some (39, { a := a, b := b, c := c, imm := 0#9 ++ kind ++ size })
  | .fence kind scope => some (40, { a := 0#2 ++ kind ++ scope })
  | .ldacq a b size scope disp => some (41, { a := a, b := b, imm := size ++ scope ++ disp })
  | .strel a b size scope disp => some (42, { a := a, b := b, imm := size ++ scope ++ disp })
  | .amo a b c op size order scope => some (43, { a := a, b := b, c := c, sub := op ++ size ++ order, d := scope ++ 0#5 })
  | .cas a b c d size order scope => some (44, { a := a, b := b, c := c, sub := size ++ order ++ scope ++ 0#1, d := d })
  | .red a b op size order scope => some (45, { a := a, b := b, imm := op ++ size ++ order ++ scope ++ 0#5 })
  | .bar nowait id => some (46, { imm := nowait ++ 0#10 ++ id })
  | .send scope rel b c n => some (47, { a := 0#4 ++ scope ++ rel, b := b, c := c, imm := 0#9 ++ n })
  | .copy a b c disp => some (48, { a := a, b := b, c := c, imm := disp })
  | .xwait a => some (49, { a := a })
  | .rpbegin => some (51, {})
  | .rpend => some (51, { a := 1#8 })
  | .rprun b c disp => some (51, { a := 2#8, b := b, c := c, imm := disp })
  | .rpruni n => some (51, { a := 3#8, imm := n })
  | .rpwait => some (51, { a := 4#8 })
  | .vadd a b c => some (52, { a := 0#1 ++ a.stagger ++ a.id, b := 0#1 ++ b.stagger ++ b.id, c := 0#1 ++ c.stagger ++ c.id })
  | .vsub a b c => some (52, { a := 0#1 ++ a.stagger ++ a.id, b := 0#1 ++ b.stagger ++ b.id, c := 0#1 ++ c.stagger ++ c.id, sub := 1#8 })
  | .vmul a b c => some (52, { a := 0#1 ++ a.stagger ++ a.id, b := 0#1 ++ b.stagger ++ b.id, c := 0#1 ++ c.stagger ++ c.id, sub := 2#8 })
  | .vmin a b c => some (52, { a := 0#1 ++ a.stagger ++ a.id, b := 0#1 ++ b.stagger ++ b.id, c := 0#1 ++ c.stagger ++ c.id, sub := 3#8 })
  | .vmax a b c => some (52, { a := 0#1 ++ a.stagger ++ a.id, b := 0#1 ++ b.stagger ++ b.id, c := 0#1 ++ c.stagger ++ c.id, sub := 4#8 })
  | .vand a b c => some (52, { a := 0#1 ++ a.stagger ++ a.id, b := 0#1 ++ b.stagger ++ b.id, c := 0#1 ++ c.stagger ++ c.id, sub := 5#8 })
  | .vor a b c => some (52, { a := 0#1 ++ a.stagger ++ a.id, b := 0#1 ++ b.stagger ++ b.id, c := 0#1 ++ c.stagger ++ c.id, sub := 6#8 })
  | .vxor a b c => some (52, { a := 0#1 ++ a.stagger ++ a.id, b := 0#1 ++ b.stagger ++ b.id, c := 0#1 ++ c.stagger ++ c.id, sub := 7#8 })
  | .vshl a b c => some (52, { a := 0#1 ++ a.stagger ++ a.id, b := 0#1 ++ b.stagger ++ b.id, c := 0#1 ++ c.stagger ++ c.id, sub := 8#8 })
  | .vshr a b c => some (52, { a := 0#1 ++ a.stagger ++ a.id, b := 0#1 ++ b.stagger ++ b.id, c := 0#1 ++ c.stagger ++ c.id, sub := 9#8 })
  | .vceq a b c => some (52, { a := 0#1 ++ a.stagger ++ a.id, b := 0#1 ++ b.stagger ++ b.id, c := 0#1 ++ c.stagger ++ c.id, sub := 10#8 })
  | .vclt a b c => some (52, { a := 0#1 ++ a.stagger ++ a.id, b := 0#1 ++ b.stagger ++ b.id, c := 0#1 ++ c.stagger ++ c.id, sub := 11#8 })
  | .vcle a b c => some (52, { a := 0#1 ++ a.stagger ++ a.id, b := 0#1 ++ b.stagger ++ b.id, c := 0#1 ++ c.stagger ++ c.id, sub := 12#8 })
  | .vfma a b c d => some (53, { a := 0#1 ++ a.stagger ++ a.id, b := 0#1 ++ b.stagger ++ b.id, c := 0#1 ++ c.stagger ++ c.id, d := 0#1 ++ d.stagger ++ d.id })
  | .vfms a b c d => some (53, { a := 0#1 ++ a.stagger ++ a.id, b := 0#1 ++ b.stagger ++ b.id, c := 0#1 ++ c.stagger ++ c.id, sub := 1#8, d := 0#1 ++ d.stagger ++ d.id })
  | .vsel a b c d => some (53, { a := 0#1 ++ a.stagger ++ a.id, b := 0#1 ++ b.stagger ++ b.id, c := 0#1 ++ c.stagger ++ c.id, sub := 2#8, d := 0#1 ++ d.stagger ++ d.id })
  | .vmov a b => some (54, { a := 0#1 ++ a.stagger ++ a.id, b := 0#1 ++ b.stagger ++ b.id })
  | .vabs a b => some (54, { a := 0#1 ++ a.stagger ++ a.id, b := 0#1 ++ b.stagger ++ b.id, sub := 1#8 })
  | .vneg a b => some (54, { a := 0#1 ++ a.stagger ++ a.id, b := 0#1 ++ b.stagger ++ b.id, sub := 2#8 })
  | .vexp2 a b => some (54, { a := 0#1 ++ a.stagger ++ a.id, b := 0#1 ++ b.stagger ++ b.id, sub := 3#8 })
  | .vlog2 a b => some (54, { a := 0#1 ++ a.stagger ++ a.id, b := 0#1 ++ b.stagger ++ b.id, sub := 4#8 })
  | .vrcp a b => some (54, { a := 0#1 ++ a.stagger ++ a.id, b := 0#1 ++ b.stagger ++ b.id, sub := 5#8 })
  | .vrsq a b => some (54, { a := 0#1 ++ a.stagger ++ a.id, b := 0#1 ++ b.stagger ++ b.id, sub := 6#8 })
  | .vfloor a b => some (54, { a := 0#1 ++ a.stagger ++ a.id, b := 0#1 ++ b.stagger ++ b.id, sub := 7#8 })
  | .vcvt a b ty => some (55, { a := 0#1 ++ a.stagger ++ a.id, b := 0#1 ++ b.stagger ++ b.id, d := 0#4 ++ ty })
  | .vqnt a b c ty => some (55, { a := 0#1 ++ a.stagger ++ a.id, b := 0#1 ++ b.stagger ++ b.id, c := 0#1 ++ c.stagger ++ c.id, sub := 1#8, d := 0#4 ++ ty })
  | .vdqnt a b c => some (55, { a := 0#1 ++ a.stagger ++ a.id, b := 0#1 ++ b.stagger ++ b.id, c := 0#1 ++ c.stagger ++ c.id, sub := 2#8 })
  | .voutl a b c => some (55, { a := 0#1 ++ a.stagger ++ a.id, b := 0#1 ++ b.stagger ++ b.id, c := 0#1 ++ c.stagger ++ c.id, sub := 3#8 })
  | .vld a b c d => some (56, { a := 0#1 ++ a.stagger ++ a.id, b := b, c := c, d := d })
  | .vst a b c d => some (56, { a := 0#1 ++ a.stagger ++ a.id, b := b, c := c, sub := 1#8, d := d })
  | .vldb a b c d => some (56, { a := 0#1 ++ a.stagger ++ a.id, b := b, c := c, sub := 2#8, d := d })
  | .vstb a b c d => some (56, { a := 0#1 ++ a.stagger ++ a.id, b := b, c := c, sub := 3#8, d := d })
  | .vtoq q v => some (57, { a := q, b := 0#1 ++ v.stagger ++ v.id })
  | .vfromq v q => some (57, { a := 0#1 ++ v.stagger ++ v.id, b := q, sub := 1#8 })
  | .vanyq q v => some (57, { a := q, b := 0#1 ++ v.stagger ++ v.id, sub := 2#8 })
  | .vallq q v => some (57, { a := q, b := 0#1 ++ v.stagger ++ v.id, sub := 3#8 })
  | .macc a b c => some (58, { a := a, b := b, c := c })
  | .mstat a => some (59, { a := a })
  | .sysrd a n => some (60, { a := a, imm := n })
  | .syswr a n => some (61, { a := a, imm := n })
  | .trap imm => some (62, { imm := imm })
  | .tlbinv b kind => some (62, { a := 1#8, b := b, imm := 0#13 ++ kind })
  | .quiesce => some (62, { a := 2#8 })
  | .setrm mode => some (62, { a := 3#8, imm := 0#13 ++ mode })
  | .flagrd b => some (62, { a := 4#8, b := b })
  | .flagclr mask => some (62, { a := 5#8, imm := 0#8 ++ mask })
  | .trapMessage _ => none
  | .lateFitTrap => none
  | .writeBackArrival _ _ => none
  | .waitEnd _ _ => none
  | .pauseEnd _ => none
  | .checkerReplay => none
  | .lineFill _ _ => none
  | .alignDeadline _ _ => none
  | .slotArbiterBoundary _ => none
  | .launchPlacement _ _ => none
  | .launchCompletion _ => none
  | .handlerStart _ _ => none
  | .messageArrival _ => none
  | .messageRetry _ => none
  | .eventArrival _ => none
  | .copyRequest _ _ => none
  | .resumePacket _ _ _ _ _ _ => none
  | .completionArrival _ _ _ _ => none
  | .announceArrival _ _ _ _ _ => none
  | .countRequest _ _ => none
  | .stepFinish _ => none
  | .stepBegin _ => none
  | .getsArrival _ => none
  | .getsRetry _ => none
  | .feopRetry _ _ => none
  | .storePerformed _ _ => none
  | .atomicPerform _ _ => none
  | .faultQueueRetry _ _ => none
  | .vbusRetryAttempt _ _ => none
  | .laneSwap _ _ _ => none
  | .rpRunEntry _ => none
  | .mctx _ => none
  | .mzero _ => none
  | .mtile _ => none
  | .mma _ => none
  | .mread _ => none
  | .mfence _ => none
  | .resumeSlot _ _ => none
  | .freeSlot _ _ => none
  | .huskSlot _ _ _ => none
  | .haltCore _ => none
  | .releaseCore _ => none
  | .resetAndUnsealCore _ => none
  | .migreq _ _ => none
  | .coremapSwap _ _ _ => none
  | .barcfg _ _ => none
  | .barcancel _ _ => none
  | .flagunionClear _ _ => none
  | .logEntryRemove _ _ _ => none
  | .inject _ _ => none
  | .storehold _ _ => none
  | .oppointRequest _ _ => none
  | .energyLoRead _ _ => none
  | .registerWrite _ _ => none
  | .resvRead _ => none
  | .commit _ _ => none
  | .nopPacket _ => none
  | .launch _ => none
  | .launchExt _ => none
  | .sheafBegin _ => none
  | .sheafCommit _ => none
  | .signal _ => none
  | .waitPacket _ => none
  | .waitPoll _ => none
  | .setweight _ => none
  | .setsec _ => none
  | .preempt _ => none
  | .preemptDeadline _ => none
  | .resumeq _ => none
  | .resetq _ => none
  | .drain => none
  | .seal => none
  | .fwstage => none
  | .fwactivate => none
  | .attest => none
  | .setmigt => none
  | .secregion => none
  | .migrationRequest _ _ _ => none
  | .budgetPeriod _ _ => none
  | .voltageTrim _ _ => none
  | .thermalSample _ _ => none
  | .enumRefresh => none
  | .hostCxlMemAccess _ _ _ => none
  | .deviceReset => none
  | .flit _ _ _ _ => none
  | .linkDead _ => none
  | .laneFailure _ _ => none
  | .portUp _ _ _ _ => none
  | .read _ => none
  | .write _ => none
  | .atomic _ => none
  | .msg _ => none
  | .steprd _ => none
  | .resp _ => none
  | .ack _ => none
  | .standaloneAck _ _ => none
  | .replayTimeout _ _ => none
  | .installNotice _ _ => none
  | .activateNotice _ => none
  | .unreachableNotice _ => none
  | .illegalEncoding => none
  | .kBlockCompletion _ => none
  | .fabricManagerTold _ _ _ => none
  | .installAck _ _ => none
  | .domainFormation _ _ _ => none
  | .recovery => none

/-- The parcels of a major and fields under a layout (R23, R29): the head, then t0 upward. -/
def parcelsOf (l : Layout) (maj : Nat) (f : Fields) : List Parcel :=
  let head : Parcel := l.code ++ BitVec.ofNat 6 maj ++ f.a
  match l with
  | .h0 => [head]
  | .n2 => [head, f.b ++ f.c]
  | .imm => [head, f.imm]
  | .n3s => [head, f.b ++ f.c, f.sub ++ f.d]
  | .n2i | .s2i => [head, f.b ++ f.c, f.imm]
  | .i64 => [head, f.wide.extractLsb' 0 16, f.wide.extractLsb' 16 16, f.wide.extractLsb' 32 16, f.wide.extractLsb' 48 16]

/-- The encoder: the head of an instruction and its tail parcels; empty for a step that no encoding names. -/
def encode (i : Instr) : List Parcel :=
  match i.fields with
  | none => []
  | some (maj, f) =>
    match layoutOf maj with
    | none => []
    | some l => parcelsOf l maj f

/-- The decoder over a list of parcels, head first. -/
def decode (ps : List Parcel) : Option Instr :=
  match ps with
  | [] => none
  | head :: tail => decodeHead head tail

/-- The header of a line (R22) is valid when ZERO and KIND are zero and H is 1 to 31; this is H. -/
def lineHeads (hdr : Parcel) : Option Nat :=
  if hdr.extractLsb' 5 11 == 0#11 && hdr.extractLsb' 0 5 != 0#5 then some (hdr.extractLsb' 0 5).toNat else none

/-- S_i of R24: the sum of the tail sizes of the first heads. -/
def tailSum (heads : List Parcel) : Nat :=
  (heads.map fun h => tailParcels (h.extractLsb' 14 2)).sum

/-- H of a line of 32 parcels when the line is valid (R25). -/
def validLine (ps : List Parcel) : Option Nat :=
  match ps with
  | [] => none
  | hdr :: rest =>
    match lineHeads hdr with
    | none => none
    | some h =>
      let s := tailSum (rest.take h)
      if ps.length == 32 && decide (1 + h + s ≤ 32) && ((ps.drop (h + 1)).take (31 - s - h)).all (· == 0#16) then some h
      else none

/-- Head i of a line and its tail, t0 first (R24). -/
def lineHead (ps : List Parcel) (i : Nat) : Parcel × List Parcel :=
  let heads := ps.drop 1
  let s := tailSum (heads.take i)
  let s' := tailSum (heads.take (i - 1))
  (ps.getD i 0#16, (ps.drop (32 - s)).take (s - s'))

/-- A line that holds one instruction, as its first head, and nothing else (R22 to R25). -/
def lineOf (ps : List Parcel) : List Parcel :=
  match ps with
  | [] => List.replicate 32 0#16
  | head :: tail => [1#16, head] ++ List.replicate (30 - tail.length) 0#16 ++ tail

/-- Parcel k, counted from the head, of an instruction numbered as the opcode table numbers it: the head stands in the
most significant 16 of its bits, each later parcel below the one before it, and parcels past the end are zero. -/
def tableParcel (nbits w k : Nat) : Parcel :=
  if 16 * (k + 1) ≤ nbits then BitVec.ofNat 16 (w >>> (nbits - 16 * (k + 1))) else 0#16

/-- The parcels of an instruction given as the opcode table numbers its bits. -/
def tableParcels (nbits w : Nat) : List Parcel :=
  let head := tableParcel nbits w 0
  head :: (List.range (tailParcels (head.extractLsb' 14 2))).map fun k => tableParcel nbits w (k + 1)

/-- The instruction the decoder reads from a word of the opcode table. -/
def decodeTableWord (nbits w : Nat) : Option Instr :=
  decode (tableParcels nbits w)

end Sys2Proof
end

