-- ==== Sys2Proof/Machine/Arrays.lean ====
section
/-! DEFINITION. The physical space (R151), secure regions (R370), and reads of the memory arrays: the array log (R180), soft errors and ECC
(R173, R183), the vertical channels of stacked SRAM with their retries, naming and swaps (R174, R175, R181 to R183, R356 to R358), and
secure sectors (R176). One lane error can be armed in a cluster at a time. -/

namespace Sys2Proof.Machine

/-! ### The physical space -/

/-- Stacked SRAM (R151). -/
def inSram (pa : Nat) : Bool := decide (pa < 0x200000000)
/-- The quad-store aperture (R151). -/
def inQuads (pa : Nat) : Bool := decide (0x200000000 ≤ pa) && decide (pa < 0x220000000)
/-- GDDR 7 (R151). -/
def inGddr (pa : Nat) : Bool := decide (0x1000000000 ≤ pa) && decide (pa < 0x3400000000)
/-- The peer aperture (R151). -/
def inPeer (pa : Nat) : Bool := decide (0x4000000000000 ≤ pa) && decide (pa < 0x8000000000000)
/-- The host aperture (R151). -/
def inHost (pa : Nat) : Bool := decide (0x8000000000000 ≤ pa) && decide (pa < 0x10000000000000)
/-- The device's own memories. -/
def inDevice (pa : Nat) : Bool := inSram pa || inQuads pa || inGddr pa
/-- The device of a peer address. -/
def peerDev (pa : Nat) : Nat := (pa - 0x4000000000000) / 0x10000000000
/-- The offset of a peer address in that device's space. -/
def peerOff (pa : Nat) : Nat := (pa - 0x4000000000000) % 0x10000000000

/-- Whether a physical address is a hole of R151; a peer address is one where the peer's own space has a hole. -/
def isHole (pa : Nat) : Bool :=
  !(inDevice pa || inHost pa || (inPeer pa && inDevice (peerOff pa)))

/-- The peer aperture of a device's own number is its local memory (R151). -/
def localAt (num pa : Nat) : Nat := if inPeer pa && peerDev pa == num then peerOff pa else pa

/-- The peer aperture of this device's own number is local memory (R151). -/
def localPa (s : State) (pa : Nat) : Nat := localAt s.dev.num pa

/-- Base of the region that a DEV.SECREG value describes (R370). -/
def secBase (w : Word) : Nat := bitsOf w.toNat 37 25 * 2 ^ 25
/-- Size in bytes of the region that a DEV.SECREG value describes. -/
def secSize (w : Word) : Nat := bitsOf w.toNat 50 38 * 2 ^ 25
/-- EN of a DEV.SECREG value. -/
def secEn (w : Word) : Bool := bitsOf w.toNat 63 63 == 1

/-- Whether an address is secure memory (R370). -/
def inSecure (s : State) (pa : Nat) : Bool :=
  s.dev.secreg.any fun e => secEn e.2 && decide (secBase e.2 ≤ pa) && decide (pa < secBase e.2 + secSize e.2)

/-- The quad of a quad-store address. -/
def quadOfPa (pa : Nat) : Nat := (pa - 0x200000000) / 0x80000

/-- Home cluster of a stacked-SRAM address (R151). -/
def sramCluster (pa : Nat) : Nat := pa / 0x8000000

/-- Whether a quad-store address lies in the inbox region (R156). -/
def inInbox (pa : Nat) : Bool := inQuads pa && decide (0x78000 ≤ pa % 0x80000)

/-- The GDDR 7 channel of an address (R153). -/
def gddrChannel (pa : Nat) : Nat := (pa - 0x1000000000) / 512 % 24

/-- The cluster that hosts a GDDR 7 channel (R153): the clusters of R13 in ascending order. -/
def channelCluster (ch : Nat) : Nat :=
  (((List.range 64).filter hasChannel)[ch]?).getD 0

/-! ### The array log -/

/-- A log queue of eight with an entry added; when it is full the last entry's OVF is set instead (R180, R181). -/
def logPush (l : List Word) (w : Word) : List Word :=
  if l.length < 8 then l ++ [w]
  else
    match l.reverse with
    | [] => [w]
    | x :: r => (r.reverse) ++ [x ||| (1#64 <<< 62)]

/-- An entry of MEM.ARRLOG (R180). -/
def arrEntry (src kind tne bit pa : Nat) : Word :=
  BitVec.ofNat 64 (2 ^ 63 + src * 2 ^ 60 + kind * 2 ^ 58 + tne * 2 ^ 57 + bit * 2 ^ 51 + pa % 2 ^ 48 / 8)

/-- SRC of an address in MEM.ARRLOG. -/
def arrSrc (pa : Nat) : Nat := if inSram pa then 0 else if inQuads pa then 2 else 1

/-- The cluster in whose MEM.ARRLOG an address's errors are logged: the cluster of the memory (R180; log entry 9). -/
def logCluster (pa : Nat) : Nat :=
  if inSram pa then sramCluster pa else if inQuads pa then quadOfPa pa / 16 else channelCluster (gddrChannel pa)

/-- An array error logged (R173, R180). -/
def logArray (s : State) (kind tne bit pa : Nat) : State :=
  modCluster s (logCluster pa) fun c => { c with arrLog := logPush c.arrLog (arrEntry (arrSrc pa) kind tne bit pa) }

/-- Whether an address lies in a secure GDDR 7 sector (R370). -/
def inSector (s : State) (pa : Nat) : Bool := inGddr pa && inSecure s pa

/-- The sector of an address. -/
def sectorOf (pa : Nat) : Nat := pa / 512 * 512

/-! ### Soft errors (R173) -/

/-- A word read from an array that protects each 64-bit word: a single flipped bit is corrected, written back and logged, two or more mark
the word poisoned (R173, R183). -/
def scrubSecded (s : State) (wa : Nat) : State :=
  let fs := s.flips.filter fun f => f.1 == wa
  match fs with
  | [] => s
  | [f] => logArray { s with flips := s.flips.filter fun g => g.1 != wa } 0 0 f.2 wa
  | _ => logArray { s with flips := s.flips.filter (fun g => g.1 != wa), poison := sput s.poison wa } 1 0 0 wa

/-- The 16-bit symbol of its 64-byte burst in which a flipped bit lies. -/
def symbolOf (f : Nat × Nat) : Nat := f.1 % 64 * 8 / 16 + f.2 / 16

/-- A GDDR 7 burst of 64 bytes read (R173): errors in one 16-bit symbol are corrected, written back and logged with source 1, errors in more
mark the burst poisoned, or leave its secure sector without data, which every read of the sector then logs (R176). BIT of the entry is the flipped bit's place in its word, 0 when the symbol had several (log entry 82). -/
def scrubBurst (s : State) (ba : Nat) : State :=
  let mine := fun (f : Nat × Nat) => f.1 / 64 * 64 == ba
  match s.flips.filter mine with
  | [] => s
  | f :: r =>
    let s1 := { s with flips := s.flips.filter fun g => !(mine g) }
    if r.all fun g => symbolOf g == symbolOf f then logArray s1 0 0 (if r.isEmpty then f.2 else 0) ba
    else if inSector s1 ba then { s1 with mediaBad := sput s1.mediaBad (sectorOf ba) }
    else logArray { s1 with poison := (List.range 8).foldl (fun p j => sput p (ba + 8 * j)) s1.poison } 1 0 0 ba

/-- A secure sector read: its tag covers all eight bursts (R173, R176). -/
def scrubSector (s : State) (sec : Nat) : State := (List.range 8).foldl (fun t j => scrubBurst t (sec + 64 * j)) s

/-- The word at an address read from its array. -/
def scrubWord (s : State) (wa : Nat) : State :=
  if inSector s wa then scrubSector s (sectorOf wa) else if inGddr wa then scrubBurst s (wa / 64 * 64) else scrubSecded s wa

/-- The addresses of the words that n bytes from an address touch. -/
def wordsOf (a n : Nat) : List Nat :=
  (List.range ((a % 8 + n + 7) / 8)).map fun i => a / 8 * 8 + 8 * i

/-- Every word that an access touches scrubbed. -/
def scrub (s : State) (a n : Nat) : State := (wordsOf a n).foldl scrubWord s

/-- A bit of a stored word flipped (R183). -/
def flipBit (s : State) (wa bit : Nat) : State :=
  if s.flips.contains (wa, bit) then { s with flips := s.flips.filter (· != (wa, bit)) } else { s with flips := s.flips ++ [(wa, bit)] }

/-! ### Vertical channels (R174, R356) -/

/-- Vertical channel of a stacked-SRAM address (R219). -/
def sramChannel (pa : Nat) : Nat := bitsOf pa 9 6

/-- Spares of a channel in use: (spare, lane) (R182). -/
def swaps (c : Cluster) (ch : Nat) : List (Nat × Nat) :=
  let m := (tget c.laneMap 0#64 ch).toNat
  (List.range 4).filterMap fun j =>
    if bitsOf m (16 * j + 15) (16 * j + 15) == 1 then some (j, bitsOf m (16 * j + 8) (16 * j)) else none

/-- COUNT of MEM.INJECT (R183). -/
def injCount (c : Cluster) : Nat := bitsOf c.inject.toNat 48 45

/-- The lane on which the next beat of a channel is inverted, if one is armed and still driven (R183). -/
def armedLane (c : Cluster) (ch : Nat) : Option Nat :=
  let w := c.inject.toNat
  let lane := bitsOf w 57 49
  if bitsOf w 63 62 == 3 && bitsOf w 61 58 == ch && injCount c != 0 && decide (lane ≤ 263)
      && !((swaps c ch).any fun p => p.2 == lane) then some lane
  else none

/-- MEM.INJECT after one beat has fired: COUNT less one, and ARM cleared at 0 (R357). -/
def injFired (c : Cluster) : Cluster :=
  let n := injCount c - 1
  let w := c.inject.toNat - 2 ^ 45
  { c with inject := BitVec.ofNat 64 (if n = 0 then w - 2 ^ 63 else w) }

/-- The 32-lane group of a lane: of a data lane, or of a parity lane (R356). -/
def laneGroup (lane : Nat) : Nat := if lane < 256 then lane / 32 else lane - 256

/-- An entry of MEM.VBUSLOG (R181). -/
def vbusEntry (chan event lane attempt spare cyc : Nat) : Word :=
  BitVec.ofNat 64 (2 ^ 63 + chan * 2 ^ 58 + event * 2 ^ 56 + lane * 2 ^ 47 + attempt * 2 ^ 44 + spare * 2 ^ 42 + cyc % 2 ^ 42)

/-- A channel event of an uncore cycle logged. -/
def logVbus (s : State) (now c chan event lane attempt spare : Nat) : State :=
  modCluster s c fun x => { x with vbusLog := logPush x.vbusLog (vbusEntry chan event lane attempt spare now) }

/-- One millisecond in uncore cycles (R18). -/
def cyclesPerMs : Nat := 2250000

/-- Charges of a lane within the millisecond before a cycle (R174). -/
def charged (s : State) (now c chan lane : Nat) : Nat :=
  ((clusterOf s c).charges.filter fun e => e.1 == chan && e.2.1 == lane && decide (now < e.2.2 + cyclesPerMs)).length

/-- A lane charged with failures at given cycles. -/
def charge (s : State) (c chan lane : Nat) (cycles : List Nat) : State :=
  modCluster s c fun x => { x with charges := x.charges ++ cycles.map fun t => (chan, lane, t) }

/-- The outcome of an attempt: the transfer is over, with whether it is delivered poisoned, or goes on. -/
inductive BeatEnd where
  | passed
  | poisoned
  | again (b : Beat)
deriving DecidableEq, Repr

/-- The lowest spare of a channel that is not in use (R174). -/
def freeSpare (c : Cluster) (ch : Nat) : Option Nat :=
  (List.range 4).find? fun j => !((swaps c ch).any fun p => p.1 == j)

/-- A lane swapped for the lowest unused spare and logged, or found to have none left (R174, R175, R182). -/
def swapLane (s : State) (now c chan lane : Nat) : State :=
  match freeSpare (clusterOf s c) chan with
  | none => logVbus s now c chan 3 lane 0 0
  | some j =>
    let s1 := modCluster s c fun x =>
      { x with laneMap := tput x.laneMap chan (tget x.laneMap 0#64 chan ||| BitVec.ofNat 64 ((2 ^ 15 + lane) * 2 ^ (16 * j)))
               charges := x.charges.filter fun e => !(e.1 == chan && e.2.1 == lane) }
    logVbus s1 now c chan 1 lane 0 j

/-- From the second attempt on, the failed beat's group is also driven on the lanes of the next group (R356): a copy that a lane error meets
there fails and names nothing, and one that passes names the lane on which the failed beat was inverted. -/
def nameLane (s : State) (c : Nat) (b : Beat) : State × Option Nat :=
  if b.times.isEmpty || b.lane.isSome then (s, b.lane)
  else
    match armedLane (clusterOf s c) b.chan with
    | some l => if laneGroup l == (laneGroup b.bad + 1) % 8 then (modCluster s c injFired, none) else (s, some b.bad)
    | none => (s, some b.bad)

/-- One attempt of a transfer in an uncore cycle (R174, R356). A lane is charged, once it is named, with every failed attempt. -/
def attempt (s : State) (now c : Nat) (b : Beat) : State × BeatEnd :=
  let own := armedLane (clusterOf s c) b.chan
  let s1 := if own.isSome then modCluster s c injFired else s
  let (s2, name) := nameLane s1 c b
  let times := if own.isSome then b.times ++ [now] else b.times
  let due := if b.lane.isNone then times else if own.isSome then [now] else []
  let s3 := match name with | some l => charge s2 c b.chan l due | none => s2
  let third := match name with | some l => !due.isEmpty && decide (3 ≤ charged s3 now c b.chan l) | none => false
  match own with
  | none => (match name with | some l => if third then swapLane s3 now c b.chan l else s3 | none => s3, .passed)
  | some lane =>
    if times.length = 8 then (logVbus s3 now c b.chan 2 (name.getD 511) 0 0, .poisoned)
    else
      (logVbus s3 now c b.chan 0 (name.getD 511) times.length 0,
       .again { b with times := times, lane := name, due := now + 4, swapAt := if third then some (now + 2) else none,
                       bad := if b.times.isEmpty then lane else b.bad })

/-- A beat of a read that no write-back waits for (R356): whether it comes poisoned. While its retries run, each in its cycle, the step is held up
and reads nothing further; once it has come the step finds it brought. -/
def driveBeat (s : State) (p : Nat) : Bool × State :=
  let c := sramCluster p
  let x := clusterOf s c
  match x.brought.find? fun g => g.1 == p with
  | some g => (g.2, modCluster s c fun y => { y with brought := y.brought.filter fun h => h.1 != p })
  | none =>
    if x.beats.any fun b => b.wb == 0 && b.block == p then (false, { s with stall := some p })
    else
      match attempt s s.uncore c { chan := sramChannel p, core := 0, wb := 0, bits := 0, val := 0, poison := false, va := 0#64, block := p } with
      | (t, .again b) => (false, { modCluster t c (fun y => { y with beats := y.beats ++ [b] }) with stall := some p })
      | (t, _) => (false, t)

/-- The beats of n bytes from an address, at most 32 bytes each, one after another (R356). -/
def transfers (s : State) (a n : Nat) : Bool × State :=
  if inSram a then
    ((List.range ((a % 32 + n + 31) / 32)).map fun i => a / 32 * 32 + 32 * i).foldl (fun (x : Bool × State) p =>
      if x.2.stall.isSome then x else let y := driveBeat x.2 p; (x.1 || y.1, y.2)) (false, s)
  else (false, s)

/-- The block whose transfer holds up a step from one state that would give another (R356). -/
def stalledOn (s t : State) : Option Nat := if s.stall.isSome then none else t.stall

/-- A step held up: all it leaves is what its beats did on the channels (R356). -/
def heldBack (s t : State) : State :=
  { s with clusters := tmap t.clusters fun c y =>
      { clusterOf s c with beats := y.beats, inject := y.inject, vbusLog := y.vbusLog, charges := y.charges } }

/-- The state that a step leaves which may have been held up. -/
def unlessHeld (s t : State) : State := if (stalledOn s t).isSome then heldBack s t else t

/-! ### Secure sectors -/

/-- Whether a read of a secure sector is delivered poisoned, logging why (R176): a media error before an integrity error. -/
def sectorRead (s : State) (pa : Nat) : Bool × State :=
  if inSector s pa then
    if s.mediaBad.contains (sectorOf pa) then (true, logArray s 1 1 0 (sectorOf pa))
    else if s.tagBad.contains (sectorOf pa) then (true, logArray s 2 0 0 (sectorOf pa))
    else (false, s)
  else (false, s)

/-- n bytes read from their array: ECC, then the sector's tag; whether what is delivered is poisoned as a whole, marks of single words
apart (R173, R176). -/
def arrayRead (s : State) (a n : Nat) : Bool × State := sectorRead (scrub s a n) a

/-- n bytes read from their array and brought over their channel (R173, R174, R176). -/
def memoryRead (s : State) (a n : Nat) : Bool × State :=
  let x := transfers s a n
  let y := arrayRead x.2 a n
  (x.1 || y.1, y.2)

end Sys2Proof.Machine
end

