-- ==== Sys2Proof/Machine/Translate.lean ====
section
/-! DEFINITION. Translation trees (R168, R169), TLBs (R171) and the checks of an access (R170). -/

namespace Sys2Proof.Machine

/-! ### Tables and entries -/

/-- Leaf page size of a level, as a power of two (R168). -/
def pageLog (level : Nat) (g16 : Bool) : Nat :=
  (if level == 3 then 30 else if level == 4 then 21 else 12) + (if g16 then 4 else 0)

/-- Index of a virtual address at a level (R168). -/
def tableIndex (va level : Nat) : Nat :=
  if level == 0 then bitsOf va 63 57 else bitsOf va (65 - 9 * level) (57 - 9 * level)

/-- V of an entry (R169). -/
def pteV (e : Word) : Bool := bitsOf e.toNat 0 0 == 1
/-- LEAF. -/
def pteLeaf (e : Word) : Bool := bitsOf e.toNat 1 1 == 1
/-- RD. -/
def pteRd (e : Word) : Bool := bitsOf e.toNat 2 2 == 1
/-- W. -/
def pteWr (e : Word) : Bool := bitsOf e.toNat 3 3 == 1
/-- X. -/
def pteX (e : Word) : Bool := bitsOf e.toNat 4 4 == 1
/-- G16. -/
def pteG16 (e : Word) : Bool := bitsOf e.toNat 5 5 == 1
/-- SEC. -/
def pteSec (e : Word) : Bool := bitsOf e.toNat 11 11 == 1
/-- The address that PFN gives. -/
def ptePfn (e : Word) : Nat := bitsOf e.toNat 51 12 * 4096

/-- A malformed entry of a level (R169); an entry whose V is 0 never is. `head` says whether it heads its group of 16, and `perms` whether the
permissions of a leaf count, which validation ignores (R318). -/
def malformed (e : Word) (level : Nat) (head : Bool) (perms : Bool := true) : Bool :=
  pteV e &&
    (bitsOf e.toNat 63 52 != 0 || bitsOf e.toNat 10 6 != 0
      || (perms && pteLeaf e && !((pteRd e && !(pteX e)) || (pteX e && !(pteRd e) && !(pteWr e))))
      || (pteLeaf e && decide (level ≤ 2)) || (!(pteLeaf e) && level == 5) || (pteG16 e && !(pteLeaf e))
      || (pteLeaf e && ptePfn e % 2 ^ pageLog level (pteG16 e) != 0)
      || (pteG16 e && !head))

/-- A page that a walk or a TLB gives. -/
structure Page where
  va : Nat
  log2 : Nat
  pa : Nat
  rd : Bool
  wr : Bool
  ex : Bool
  sec : Bool
  /-- the entry of a G16 group that the walk checked -/
  sub : Option Nat := none
deriving DecidableEq, Repr

/-- The page that a leaf maps (R168, R169). -/
def leafPage (e : Word) (va level : Nat) (g16 : Bool) : Page :=
  let n := pageLog level g16
  { va := va / 2 ^ n * 2 ^ n, log2 := n, pa := ptePfn e, rd := pteRd e, wr := pteWr e, ex := pteX e, sec := pteSec e,
    sub := if g16 then some (tableIndex va level % 16) else none }

/-- One level of a walk (R169): a page, the next table, or none for cause 0x08. -/
def walkLevel (m : List Host.Cell) (table va level : Nat) (perms : Bool := true) : Option (Sum Page Nat) :=
  let i := tableIndex va level
  let e := memWord m (table + 8 * i)
  let h := memWord m (table + 8 * (i / 16 * 16))
  let isHead := i % 16 == 0
  let headLeaf := pteV h && pteLeaf h && pteG16 h
  if malformed h level true perms then none
  else if !isHead && malformed e level headLeaf perms then none
  else if headLeaf then some (.inl (leafPage h va level true))
  else if !(pteV e) then none
  else if pteLeaf e then some (.inl (leafPage e va level false))
  else some (.inr (ptePfn e))

/-- A walk through the levels that are left (R168), by device `num`, of whose own memory a table may be named through the peer aperture (R151):
the page, or none for cause 0x08, which a table in another device's memory gives too (log entry 104). -/
def walk (m : List Host.Cell) (num va : Nat) (table : Nat) (levels : List Nat) (perms : Bool := true) : Option Page :=
  match levels with
  | [] => none
  | l :: r =>
    match walkLevel m (localAt num table) va l perms with
    | none => none
    | some (.inl p) => some p
    | some (.inr t) => walk m num va t r perms

/-- The words that a walk reads: at each level the entry, and the head of its group when it is not the head (R169). -/
def walkWords (m : List Host.Cell) (num va : Nat) (table : Nat) (levels : List Nat) (perms : Bool := true) : List Nat :=
  match levels with
  | [] => []
  | l :: r =>
    let i := tableIndex va l
    let here := if i % 16 == 0 then [localAt num table + 8 * i] else [localAt num table + 8 * i, localAt num table + 8 * (i / 16 * 16)]
    match walkLevel m (localAt num table) va l perms with
    | some (.inr t) => here ++ walkWords m num va t r perms
    | _ => here

/-- The words of a walk read from their arrays (R173, R174): whether one of them came poisoned. -/
def walkReads (s : State) (ws : List Nat) : Bool × State :=
  ws.foldl (fun (x : Bool × State) w =>
    let y := memoryRead x.2 w 8
    (x.1 || y.1 || y.2.poison.contains w, y.2)) (false, s)

/-- The six levels (R168). -/
def allLevels : List Nat := [0, 1, 2, 3, 4, 5]

/-- Root of a launch's tree; without a launch the tree that firmware names (R168). -/
def rootOf (s : State) (launch : Option Nat) : Nat :=
  match launch with
  | none => s.dev.fwRoot
  | some l => ((tfind s.launches l).map (·.root)).getD 0

/-- Whether accesses of a launch are secure-world (R303); firmware's own reach both worlds (log entry 7). -/
def secureWorld (s : State) (launch : Option Nat) : Bool :=
  match launch with
  | none => true
  | some l => ((tfind s.launches l).map (·.sec)).getD false

/-! ### TLBs -/

/-- The page of a TLB entry. -/
def TlbEntry.page (e : TlbEntry) : Page :=
  { va := e.va, log2 := e.log2, pa := e.pa, rd := e.rd, wr := e.wr, ex := e.ex, sec := e.sec, sub := e.sub }

/-- Whether a TLB entry's page covers an address of a launch's tree (R171). -/
def TlbEntry.covers (e : TlbEntry) (launch : Option Nat) (va : Nat) : Bool :=
  e.launch == launch && va / 2 ^ e.log2 * 2 ^ e.log2 == e.va

/-- Whether a TLB entry translates an address: its page covers it, and a walk has checked the entry of its group that the address indexes, so
that nothing but what the tree gave is used (R169, R172). -/
def TlbEntry.serves (e : TlbEntry) (launch : Option Nat) (va : Nat) : Bool :=
  e.covers launch va &&
    (match e.sub with
     | none => true
     | some i => va / 2 ^ (e.log2 - 4) % 16 == i)

/-- A page as a TLB entry of a launch. -/
def Page.entry (p : Page) (launch : Option Nat) : TlbEntry :=
  { launch := launch, va := p.va, log2 := p.log2, pa := p.pa, rd := p.rd, wr := p.wr, ex := p.ex, sec := p.sec, sub := p.sub }

/-- A TLB with an entry added, newest first, the oldest dropped past the capacity. -/
def tlbAdd (cap : Nat) (l : List TlbEntry) (e : TlbEntry) : List TlbEntry :=
  (e :: l.filter fun x => x != e).take cap

/-- The walk of a launch's tree for an address, as it would read memory now (R168, R169). -/
def walkTree (s : State) (launch : Option Nat) (va : Nat) : Option Page := walk s.mem s.dev.num va (rootOf s launch) allLevels

/-- What that walk reads (R173, R174): whether a word of it came poisoned. -/
def treeReads (s : State) (launch : Option Nat) (va : Nat) : Bool × State :=
  walkReads s (walkWords s.mem s.dev.num va (rootOf s launch) allLevels)

/-- Find a translation for a core (R171, R172): its TLB, its cluster's TLB, or a walk; the entry is kept in both TLBs. A walk that reads a
poisoned word finds nothing: the spec does not say what it comes to (log entry 80). -/
def findPage (s : State) (k : Nat) (launch : Option Nat) (va : Nat) : Option (Page × State) :=
  match (coreOf s k).tlb.find? fun e => e.serves launch va with
  | some e => some (e.page, s)
  | none =>
    let c := clusterOfKey k
    match (clusterOf s c).tlb.find? fun e => e.serves launch va with
    | some e => some (e.page, modCore s k fun x => { x with tlb := tlbAdd 32 x.tlb e })
    | none =>
      match walkTree s launch va with
      | none => none
      | some p =>
        let (bad, t) := treeReads s launch va
        let e := p.entry launch
        if bad then none
        else
          some (p, modCluster (modCore t k fun x => { x with tlb := tlbAdd 32 x.tlb e }) c
            fun x => { x with tlb := tlbAdd 4096 x.tlb e })

/-- The page that a search for a translation would find, apart from what it reads on the way. -/
def seenPage (s : State) (k : Nat) (launch : Option Nat) (va : Nat) : Option Page :=
  match (coreOf s k).tlb.find? fun e => e.serves launch va with
  | some e => some e.page
  | none =>
    match (clusterOf s (clusterOfKey k)).tlb.find? fun e => e.serves launch va with
    | some e => some e.page
    | none => walkTree s launch va

/-- The state after the search for a translation, whatever it comes to: the words that a walk has read have been corrected, logged and marked
also where the access then traps (R173, R174). -/
def searched (s : State) (k : Nat) (launch : Option Nat) (va : Nat) : State :=
  match findPage s k launch va with
  | some (_, t) => t
  | none => (treeReads s launch va).2

/-- What an access needs of its page (R170). -/
inductive Need where
  | load | store | both | fetch
deriving DecidableEq, Repr

/-- The permission check (R170). -/
def Page.allows (p : Page) (n : Need) : Bool :=
  match n with
  | .load => p.rd
  | .store => p.wr
  | .both => p.rd && p.wr
  | .fetch => p.ex

/-- The physical address that a page gives a virtual address. -/
def Page.phys (p : Page) (va : Nat) : Nat := p.pa + va % 2 ^ p.log2

/-- Whether a page's address is out of an access's world (R170, R303). -/
def wrongWorld (s : State) (secure : Bool) (p : Page) (pa : Nat) : Bool := (p.sec && !secure) || (p.sec != inSecure s (localPa s pa))

/-- The cause for which a translated access fails, in the order of R170, or none. -/
def accessCause (s : State) (secure : Bool) (p : Page) (pa : Nat) (n : Need) : Option Nat :=
  if wrongWorld s secure p pa then some 0x0A
  else if !(p.allows n) then some 0x09
  else if isHole pa then some 0x09
  else if inPeer pa && (decide (s.dev.size ≤ peerDev pa) || unreachable s (peerDev pa)) then some 0x0F
  else none

/-- Translate an address of a launch's tree for an access from a core (R168 to R172): a local physical address, or the cause. -/
def translate (s : State) (k : Nat) (launch : Option Nat) (va : Nat) (n : Need) : Sum Nat (Nat × State) :=
  match findPage s k launch va with
  | none => .inl 0x08
  | some (p, t) =>
    match accessCause s (secureWorld s launch) p (p.phys va) n with
    | some c => .inl c
    | none => .inr (localPa s (p.phys va), t)

/-- An instruction that has read memory goes on, unless a transfer under retry holds it up: then it waits for that, with no effect yet (R356). -/
def awaitBeats {α : Type} (s t : State) (x : Ans α) : Ans α :=
  match stalledOn s t with
  | some p => .waitIn (.ahead p 32) (heldBack s t)
  | none => x

/-- Translate for the strand of the issue latch under a launch's tree; a failure traps with the virtual address (R170). -/
def translateFor (launch : Option Nat) (va : Word) (n : Need) (s : State) : Ans Nat :=
  match translate s s.cur.core launch va.toNat n with
  | .inl c => let t := searched s s.cur.core launch va.toNat; awaitBeats s t (.trapIn c va t)
  | .inr (pa, t) => awaitBeats s t (.ok pa t)

/-- Translate for the strand of the issue latch. -/
def translateCur (va : Word) (n : Need) (s : State) : Ans Nat := translateFor (curSlot s).launch va n s

end Sys2Proof.Machine
end

