-- ==== Sys2Proof/Machine/Fetch.lean ====
section
/-! DEFINITION. Lines and their buffers (R22 to R28, R96 to R100), the instruction at a strand's PC, and the operands that hold an
instruction back (R72). -/

namespace Sys2Proof.Machine

/-- The 32 parcels of a line in memory (R22). -/
def lineParcels (m : List Host.Cell) (pa : Nat) : List Parcel :=
  (List.range 32).map fun n => BitVec.ofNat 16 (ofBytes (memBytes m (pa + 2 * n) 2))

/-- Whether any word of a line is poisoned (R100). -/
def linePoison (s : State) (pa : Nat) : Bool :=
  s.poison.any fun a => decide (pa ≤ a) && decide (a < pa + 64)

/-- The launch under whose tree a slot fetches: its own; a streamer's routine is firmware's and stands in the firmware's tree (R221). -/
def fetchLaunch (s : State) (k i : Nat) : Option Nat := if isStreamer k then none else (slotOf s k i).launch

/-- The physical line of an address that a page gives a launch's strand: an execute page of its world (R100). -/
def pageLine (s : State) (launch : Option Nat) (p : Page) (base : Nat) : Option Nat :=
  if p.ex && !(wrongWorld s (secureWorld s launch) p (p.phys base)) then some (localPa s (p.phys base)) else none

/-- The physical line of a PC, through the core's TLB, when the TLB holds its page as one that the strand may execute (R96). -/
def linePa (s : State) (k i : Nat) (pc : Word) : Option Nat :=
  match (coreOf s k).tlb.find? fun e => e.serves (fetchLaunch s k i) pc.toNat with
  | some e => pageLine s (fetchLaunch s k i) e.page (lineBase pc).toNat
  | none => none

/-- The physical line of a PC, whatever holds its translation. -/
def lineAt (s : State) (k i : Nat) (pc : Word) : Option Nat :=
  match seenPage s k (fetchLaunch s k i) (lineBase pc).toNat with
  | some p => pageLine s (fetchLaunch s k i) p (lineBase pc).toNat
  | none => none

/-- The line buffer that holds a slot's PC, if the core has it (R96). -/
def lineFor (s : State) (k i : Nat) (pc : Word) : Option LineBuf :=
  match linePa s k i pc with
  | none => none
  | some pa => (coreOf s k).lines.find? fun b => b.pa == pa

/-- H of a line; 0 of an invalid one (R25). -/
def LineBuf.heads (b : LineBuf) : Nat := (validLine b.parcels).getD 0

/-- H of the line that a PC reaches, when the line is valid and the PC names one of its heads (R25 to R27); otherwise 0. -/
def headsAt (b : LineBuf) (pc : Word) : Nat :=
  match validLine b.parcels with
  | none => 0
  | some h => let j := pc.toNat % 64 / 2; if pc.toNat % 2 == 0 && decide (1 ≤ j) && decide (j ≤ h) then h else 0

/-- The instruction at a PC of a line, or an illegal encoding (R36). -/
def instrAt (b : LineBuf) (pc : Word) : Instr :=
  if headsAt b pc == 0 then .illegalEncoding
  else
    let ht := lineHead b.parcels (pc.toNat % 64 / 2)
    (decodeHead ht.1 ht.2).getD .illegalEncoding

/-- The scalar names that an instruction reads or writes, for the interlock of R72. The map instructions wait by R54 instead. -/
def operandNames (i : Instr) : List Name :=
  match i with
  | .jl a _ => [a]
  | .jr a => [a]
  | .jlr a b => [a, b]
  | .beq b c _ => [b, c]
  | .bne b c _ => [b, c]
  | .blt b c _ => [b, c]
  | .ble b c _ => [b, c]
  | .bgt b c _ => [b, c]
  | .bge b c _ => [b, c]
  | .bz a _ => [a]
  | .bnz a _ => [a]
  | .loop a _ => [a]
  | .add a b c => [a, b, c]
  | .sub a b c => [a, b, c]
  | .and a b c => [a, b, c]
  | .or a b c => [a, b, c]
  | .xor a b c => [a, b, c]
  | .shl a b c => [a, b, c]
  | .shr a b c => [a, b, c]
  | .mul a b c => [a, b, c]
  | .mov a b => [a, b]
  | .addi a b _ => [a, b]
  | .rsubi a b _ => [a, b]
  | .andi a b _ => [a, b]
  | .ori a b _ => [a, b]
  | .xori a b _ => [a, b]
  | .shli a b _ => [a, b]
  | .shri a b _ => [a, b]
  | .muli a b _ => [a, b]
  | .mini a b _ => [a, b]
  | .maxi a b _ => [a, b]
  | .ceqi a b _ => [a, b]
  | .cnei a b _ => [a, b]
  | .clti a b _ => [a, b]
  | .clei a b _ => [a, b]
  | .cgti a b _ => [a, b]
  | .cgei a b _ => [a, b]
  | .mulh a b c => [a, b, c]
  | .div a b c => [a, b, c]
  | .rem a b c => [a, b, c]
  | .andn a b c => [a, b, c]
  | .rot a b c => [a, b, c]
  | .min a b c => [a, b, c]
  | .max a b c => [a, b, c]
  | .abs a b => [a, b]
  | .neg a b => [a, b]
  | .clz a b => [a, b]
  | .ctz a b => [a, b]
  | .popc a b => [a, b]
  | .bfx a b c d => [a, b, c, d]
  | .bfi a b c d => [a, b, c, d]
  | .sel a b c d => [a, b, c, d]
  | .lea a b c _ => [a, b, c]
  | .ceq a b c => [a, b, c]
  | .cne a b c => [a, b, c]
  | .clt a b c => [a, b, c]
  | .cle a b c => [a, b, c]
  | .cgt a b c => [a, b, c]
  | .cge a b c => [a, b, c]
  | .movi a _ => [a]
  | .mapld b c _ => [b, c]
  | .widthof b _ => [b]
  | .modeof b _ => [b]
  | .seatof b _ => [b]
  | .fork a b _ => [a, b]
  | .huskSave b c _ => [b, c]
  | .huskRun b c _ => [b, c]
  | .huskSaveg b c _ => [b, c]
  | .huskRung b c _ => [b, c]
  | .evsend a => [a]
  | .depset b _ _ => [b]
  | .ringset b _ _ => [b]
  | .puts a _ _ => [a]
  | .gets a b c _ _ => [a, b, c]
  | .ldq a b c _ _ => [a, b, c]
  | .stq a b c _ _ => [a, b, c]
  | .ldb a b c _ _ => [a, b, c]
  | .stb a b c _ _ => [a, b, c]
  | .ldg a b c _ _ => [a, b, c]
  | .stg a b c _ _ => [a, b, c]
  | .ldfe a b c _ => [a, b, c]
  | .ldff a b c _ => [a, b, c]
  | .stfe a b c _ => [a, b, c]
  | .stff a b c _ => [a, b, c]
  | .fefull a b c _ => [a, b, c]
  | .feempty a b c _ => [a, b, c]
  | .festate a b c _ => [a, b, c]
  | .win a b c _ _ => [a, b, c]
  | .ldacq a b _ _ _ => [a, b]
  | .strel a b _ _ _ => [a, b]
  | .amo a b c _ _ _ _ => [a, b, c]
  | .cas a b c d _ _ _ => [a, b, c, d]
  | .red a b _ _ _ _ => [a, b]
  | .send _ _ b c _ => [b, c]
  | .copy a b c _ => [a, b, c]
  | .xwait a => [a]
  | .rprun b c _ => [b, c]
  | .vld _ b c _ => [b, c]
  | .vst _ b c _ => [b, c]
  | .vldb _ b c _ => [b, c]
  | .vstb _ b c _ => [b, c]
  | .macc a b c => [a, b, c]
  | .mstat a => [a]
  | .sysrd a _ => [a]
  | .syswr a _ => [a]
  | .tlbinv b _ => [b]
  | .flagrd b => [b]
  | _ => []

/-- The name fields that an instruction reads, each of which pops an entry when it names a queue (R71, R88): a checker mismatch keeps what
they popped. -/
def sourceNames (i : Instr) : List Name :=
  match i with
  | .jr a | .bz a _ | .bnz a _ | .evsend a | .puts a _ _ | .xwait a | .syswr a _ => [a]
  | .jlr _ b | .mov _ b | .addi _ b _ | .rsubi _ b _ | .andi _ b _ | .ori _ b _ | .xori _ b _ | .shli _ b _ | .shri _ b _ | .muli _ b _
  | .mini _ b _ | .maxi _ b _ | .ceqi _ b _ | .cnei _ b _ | .clti _ b _ | .clei _ b _ | .cgti _ b _ | .cgei _ b _ | .abs _ b | .neg _ b
  | .clz _ b | .ctz _ b | .popc _ b | .depset b _ _ | .ringset b _ _ | .ldacq _ b _ _ _ | .macc _ b _ | .fork _ b _ | .tlbinv b _ => [b]
  | .beq b c _ | .bne b c _ | .blt b c _ | .ble b c _ | .bgt b c _ | .bge b c _ | .mapld b c _ | .huskSave b c _ | .huskRun b c _
  | .huskSaveg b c _ | .huskRung b c _ | .send _ _ b c _ | .rprun b c _ | .vld _ b c _ | .vst _ b c _ | .vldb _ b c _ | .vstb _ b c _ => [b, c]
  | .bqt _ | .bqf _ => [245#8]
  | .add _ b c | .sub _ b c | .and _ b c | .or _ b c | .xor _ b c | .shl _ b c | .shr _ b c | .mul _ b c | .mulh _ b c | .div _ b c
  | .rem _ b c | .andn _ b c | .rot _ b c | .min _ b c | .max _ b c | .lea _ b c _ | .ceq _ b c | .cne _ b c | .clt _ b c | .cle _ b c
  | .cgt _ b c | .cge _ b c | .gets _ b c _ _ | .ldq _ b c _ _ | .ldb _ b c _ _ | .ldg _ b c _ _ | .ldfe _ b c _ | .ldff _ b c _
  | .feempty _ b c _ | .festate _ b c _ | .win _ b c _ _ | .amo _ b c _ _ _ _ | .copy _ b c _ => [b, c]
  | .bfx _ b c d | .sel _ b c d | .cas _ b c d _ _ _ => [b, c, d]
  | .strel a b _ _ _ | .red a b _ _ _ _ => [a, b]
  | .stq a b c _ _ | .stb a b c _ _ | .stg a b c _ _ | .stfe a b c _ | .stff a b c _ | .fefull a b c _ => [a, b, c]
  | .bfi a b c d => [a, b, c, d]
  | _ => []

/-- The vector fields of an instruction, for the interlock of R72. -/
def operandVecs (i : Instr) : List VRef :=
  match i with
  | .vadd a b c => [a, b, c]
  | .vsub a b c => [a, b, c]
  | .vmul a b c => [a, b, c]
  | .vmin a b c => [a, b, c]
  | .vmax a b c => [a, b, c]
  | .vand a b c => [a, b, c]
  | .vor a b c => [a, b, c]
  | .vxor a b c => [a, b, c]
  | .vshl a b c => [a, b, c]
  | .vshr a b c => [a, b, c]
  | .vceq a b c => [a, b, c]
  | .vclt a b c => [a, b, c]
  | .vcle a b c => [a, b, c]
  | .vfma a b c d => [a, b, c, d]
  | .vfms a b c d => [a, b, c, d]
  | .vsel a b c d => [a, b, c, d]
  | .vmov a b => [a, b]
  | .vabs a b => [a, b]
  | .vneg a b => [a, b]
  | .vexp2 a b => [a, b]
  | .vlog2 a b => [a, b]
  | .vrcp a b => [a, b]
  | .vrsq a b => [a, b]
  | .vfloor a b => [a, b]
  | .vcvt a b _ => [a, b]
  | .vqnt a b c _ => [a, b, c]
  | .vdqnt a b c => [a, b, c]
  | .voutl a b c => [a, b, c]
  | .vld a _ _ _ => [a]
  | .vst a _ _ _ => [a]
  | .vldb a _ _ _ => [a]
  | .vstb a _ _ _ => [a]
  | .vtoq _ v => [v]
  | .vfromq v _ => [v]
  | .vanyq _ v => [v]
  | .vallq _ v => [v]
  | _ => []

/-- The write-backs of a core that have not landed (R53). -/
def pendingWbs (c : Core) : List WriteBack := c.wbs ++ c.held ++ c.late

/-- Whether a write-back to a name of a slot is outstanding (R72). -/
def outstanding (s : State) (k i : Nat) (n : Name) : Bool :=
  (pendingWbs (coreOf s k)).any fun w => w.slot == i && w.name == n && w.entry.isNone

/-- Whether a read of a slot's strand has not returned (R179, R197). -/
def readsOut (s : State) (k i : Nat) : Bool :=
  (pendingWbs (coreOf s k)).any fun w => w.slot == i && w.uid == (slotOf s k i).uid

/-- Whether any write-back to a name of a slot is outstanding (R54): a strand's own, and in a handler slot, whose names one run leaves to
the next, also those of earlier runs (R116). -/
def anyOutstanding (s : State) (k i : Nat) : Bool :=
  let c := coreOf s k
  ((pendingWbs c).any fun w => w.slot == i && (decide (14 ≤ i) || w.uid == (slotOf s k i).uid))
    || c.queues.any fun d => d.2.vfrom.any fun v => v.slot == i

/-- Whether a VFROMQ still has a vector id to write (R72, R253). -/
def vecOutstanding (s : State) (k i v : Nat) : Bool :=
  (coreOf s k).queues.any fun d => d.2.vfrom.any fun x => x.slot == i && x.vec == v

/-- Whether the interlock of R72 holds an instruction of a slot back. $zero and the queues carry no write-back. -/
def interlocked (s : State) (k i : Nat) (ins : Instr) : Bool :=
  ((operandNames ins).any fun n => !(decide (240 ≤ n.toNat) && decide (n.toNat ≤ 245)) && outstanding s k i n)
    || (operandVecs ins).any fun v => vecOutstanding s k i v.id.toNat

/-- A slot that holds a strand. -/
def live (x : Slot) : Bool := x.status != .free

/-- A line placed in a cluster's instruction cache of 2,048 lines, 8 to a set (R97): the set is the physical line number modulo 256, and of a
full set the line filled longest ago goes; the spec gives neither (log entry 70). -/
def icacheAdd (l : List LineBuf) (b : LineBuf) : List LineBuf :=
  let r := b :: l.filter fun x => x.pa != b.pa
  let same := fun (x : LineBuf) => x.pa / 64 % 256 == b.pa / 64 % 256
  if (r.filter same).length ≤ 8 then r
  else
    match indexWhere same r.reverse with
    | some j => dropAt r (r.length - 1 - j)
    | none => r

/-- Lines that a live slot's PC pins (R96). -/
def pinned (s : State) (k : Nat) (b : LineBuf) : Bool :=
  (coreOf s k).slots.any fun e => live e.2 && lineAt s k e.1 e.2.pc == some b.pa

/-- The buffers with a line added, newest first; past 24 the least recently used unpinned line goes (R96). -/
def addLine (keep : LineBuf → Bool) (l : List LineBuf) (b : LineBuf) : List LineBuf :=
  let r := b :: l.filter fun x => x.pa != b.pa
  if r.length ≤ 24 then r
  else
    match indexWhere (fun x => !(keep x) && x.pa != b.pa) r.reverse with
    | some j => dropAt r (r.length - 1 - j)
    | none => r

/-- The buffers after a line is used: it is now the most recently used (R96). -/
def useLine (l : List LineBuf) (pa : Nat) : List LineBuf := l.filter (fun x => x.pa == pa) ++ l.filter fun x => x.pa != pa

/-- A line placed in a core's buffers. -/
def putLine (s : State) (k : Nat) (b : LineBuf) : State :=
  modCore s k fun c => { c with lines := addLine (pinned s k) c.lines b }

/-- Whether a slot waits for its line (R96). -/
def wantsLine (s : State) (k i : Nat) : Bool := (slotOf s k i).status == .ready && (lineFor s k i (slotOf s k i).pc).isNone

/-- A line placed in the buffers of a core for a slot that waits for it, with the translation that its request found (R98). -/
def receiveLine (k : Nat) (b : LineBuf) (s : State) (i : Nat) : State :=
  if wantsLine s k i then
    match translate s k (fetchLaunch s k i) (lineBase (slotOf s k i).pc).toNat .fetch with
    | .inr (pa, t) => if pa == b.pa then putLine t k b else s
    | .inl _ => s
  else s

/-- A line placed in the buffers of a core that has asked for it ahead of need (R96). -/
def receiveAhead (k : Nat) (b : LineBuf) (s : State) : State :=
  if (coreOf s k).ahead.contains b.pa then putLine (modCore s k fun c => { c with ahead := sdel c.ahead b.pa }) k b else s

/-- The keys of a cluster's cores. -/
def clusterCores (s : State) (c : Nat) : List Nat := (s.cores.filter fun e => clusterOfKey e.1 == c).map (·.1)

/-- A line broadcast to every core of the cluster that wants it, for a slot that waits for it or ahead of need (R96, R98). -/
def broadcast (s : State) (c : Nat) (b : LineBuf) : State :=
  (clusterCores s c).foldl (fun t k => ((coreOf t k).slots.map (·.1)).foldl (receiveLine k b) (receiveAhead k b t)) s

/-- What a peer's answer to the request for a line does: nothing where the line's page has been removed since (R99, R305). -/
def lineAnswered (s : State) (c n : Nat) (act : State → State) : State :=
  if (clusterOf s c).staleLines.contains n then modCluster s c fun x => { x with staleLines := sdel x.staleLines n } else act s

/-- A line that came from a peer: it enters the cluster's instruction cache and is broadcast (R97, R98). -/
def lineArrives (s : State) (c : Nat) (b : LineBuf) : State :=
  broadcast (modCluster s c fun x => { x with icache := icacheAdd x.icache b }) c b

/-- The slots of a cluster that wait for a physical line. -/
def lineWaiters (s : State) (c pa : Nat) : List (Nat × Nat) :=
  (s.cores.filter fun e => clusterOfKey e.1 == c).flatMap fun e =>
    (e.2.slots.filter fun x => wantsLine s e.1 x.1 && lineAt s e.1 x.1 x.2.pc == some pa).map fun x => (e.1, x.1)

/-- Whether a TRET or a SLOTCTL resume of a cluster waits for a physical line, to learn what follows TRAPPC (R286). -/
def lineSought (s : State) (c pa : Nat) : Bool :=
  (clusterOf s c).slotctlOp.isSome
    || s.cores.any fun e => clusterOfKey e.1 == c && e.2.slots.any fun x => x.2.status == .parked (.ahead pa 64)

/-- Every slot that waits for a line traps, each with the PC that transferred control there (R100); one that a trap before it has stopped, with
its core, would not issue from the line and does not. -/
def trapWaiters (s : State) (c pa cause : Nat) : State :=
  (lineWaiters s c pa).foldl (fun t m =>
    if wantsLine t m.1 m.2 then takeTrapAt t m.1 m.2 (slotOf t m.1 m.2).pc cause (slotOf t m.1 m.2).from' false false else t) s

/-- A line that a peer answered with an error: every slot that waits for it traps (R100), and what asked for it ahead of need gets nothing. -/
def lineFails (s : State) (c pa cause : Nat) : State :=
  let s1 := if lineSought s c pa then modCluster s c fun x => { x with lostLines := sput x.lostLines pa } else s
  trapWaiters { s1 with cores := tmap s1.cores fun k x => if clusterOfKey k == c then { x with ahead := sdel x.ahead pa } else x } c pa cause

/-- The lines that a cluster's fetch port has asked peers for and that have not come, by their serial numbers (R97). -/
def linesOut (s : State) (c : Nat) : List (Nat × Nat) :=
  (s.fab.granary ++ s.fab.waiting).filterMap fun g =>
    match g.pending with
    | .line d pa n => if d == c && !g.answered then some (pa, n) else none
    | _ => none

/-- Whether a cluster's fetch port has a request for a physical line of a peer that has not come (R98). -/
def lineAsked (s : State) (c pa : Nat) : Bool := (linesOut s c ++ (clusterOf s c).lineWaits).any fun e => e.1 == pa

/-- Whether the port may ask for another line: it has 8 misses outstanding at most (R97). -/
def portFree (s : State) (c : Nat) : Bool := decide ((linesOut s c).length < 8)

end Sys2Proof.Machine
end

