-- ==== Sys2Proof/Machine/Link.lean ====
section
/-! DEFINITION. Links (R332, R333, R335): the layout of a packet in flits, the check of a flit, and a port as a sender. -/

namespace Sys2Proof.Machine

/-! ### CRC-32 (R333) -/

/-- One bit through the reflected IEEE 802.3 polynomial. -/
def crcBit (c : BitVec 32) : BitVec 32 := if c.getLsbD 0 then (c >>> 1) ^^^ 0xEDB88320#32 else c >>> 1

/-- One byte through the polynomial. -/
def crcByte (c : BitVec 32) (b : Byte) : BitVec 32 := (List.range 8).foldl (fun x _ => crcBit x) (c ^^^ b.setWidth 32)

/-- The CRC-32 of a flit's 64 bytes, those that its packet does not fill being zero. The spec names the polynomial; the bit order, the initial
value and the final inversion are those of IEEE 802.3 (log entry 90). -/
def flitCrc (bs : List Byte) : BitVec 32 :=
  ~~~((bs ++ List.replicate (64 - bs.length) 0#8).foldl crcByte 0xFFFFFFFF#32)

/-- Whether a flit's CRC is that of its bytes. -/
def flitGood (f : Flit) : Bool := f.crc == flitCrc f.data

/-! ### Packets in flits (R333, R368) -/

/-- Flits of a packet with P payload bytes (R368). -/
def flitsOf (p : Nat) : Nat := 1 + (p - 48 + 63) / 64

/-- The two words of a packet's header (R333). -/
def headerWords (p : Packet) : Nat × Nat :=
  (p.kind + p.cls * 2 ^ 8 + p.src * 2 ^ 10 + p.dst * 2 ^ 20 + (if p.zeroBit then 2 ^ 30 else 0) + (if p.av then 2 ^ 31 else 0)
      + p.ver.toNat * 2 ^ 32 + p.flits * 2 ^ 48 + p.zeroHigh.toNat * 2 ^ 52,
    p.seq.toNat + p.ack.toNat * 2 ^ 32)

/-- A packet's bytes, the header first, cut into its flits. -/
def flitParts (p : Packet) : List (List Byte) :=
  let bs := toBytes 8 (headerWords p).1 ++ toBytes 8 (headerWords p).2 ++ p.payload
  (List.range (flitsOf p.payload.length)).map fun j => (bs.drop (64 * j)).take 64

/-- FLITS of the header that a first flit opens with. -/
def flitsField (d : List Byte) : Nat := bitsOf (ofBytes (d.take 8)) 51 48

/-- The packet that flits make, come by a port. -/
def packetOfFlits (port : Nat) (fs : List Flit) : Packet :=
  let bs := fs.flatMap (·.data)
  let w0 := ofBytes (bs.take 8)
  let w1 := ofBytes ((bs.drop 8).take 8)
  { kind := bitsOf w0 7 0, cls := bitsOf w0 9 8, src := bitsOf w0 19 10, dst := bitsOf w0 29 20, av := bitsOf w0 31 31 == 1,
    ver := BitVec.ofNat 16 (bitsOf w0 47 32), seq := BitVec.ofNat 32 (bitsOf w1 31 0), ack := BitVec.ofNat 32 (bitsOf w1 63 32),
    payload := bs.drop 16, flits := bitsOf w0 51 48, zeroHigh := BitVec.ofNat 12 (bitsOf w0 63 52), zeroBit := bitsOf w0 30 30 == 1,
    mark := fs.any (·.mark), port := port }

/-- Whether a packet is one that R334 has discarded: a kind of no class or of another, a nonzero zero field, or a bad FLITS value. -/
def badPacket (p : Packet) : Bool :=
  let classOk := if p.kind == 6 then p.cls == 1 else if p.kind == 7 then decide (p.cls < 2) else if p.kind == 8 then p.cls == 2
    else decide (1 ≤ p.kind) && decide (p.kind ≤ 5) && p.cls == 0
  !classOk || p.zeroBit || p.zeroHigh != 0#12 || decide (9 < p.flits) || p.flits + 1 != flitsOf p.payload.length || decide (1024 ≤ p.src)
    || decide (1024 ≤ p.dst)

/-! ### A port as a sender (R335) -/

/-- The fabric changed. -/
def modFab (s : State) (f : Fabric → Fabric) : State := { s with fab := f s.fab }

/-- A port's state. -/
def portOf (s : State) (p : Nat) : Port := tget s.fab.ports {} p

/-- A port changed. -/
def modPort (s : State) (p : Nat) (f : Port → Port) : State :=
  modFab s fun b => { b with ports := tput b.ports p (f (tget b.ports {} p)) }

/-- Whether a port carries traffic. -/
def portUp (s : State) (p : Nat) : Bool := let x : Port := tget s.fab.ports {} p; x.state == 2 || x.state == 3

/-- A flit given to the link under the next link sequence number, and kept until it is acknowledged. -/
def Port.sendFlit (x : Port) (mark : Bool) (d : List Byte) : Port :=
  let f : Flit := { data := d, crc := flitCrc d, lsn := x.lsnNext, ack := x.lsnExp, mark := mark }
  { x with lsnNext := x.lsnNext + 1#12, replayBuf := x.replayBuf ++ [f], wire := f :: x.wire }

/-- The request to resend that answers a bad flit (R335): a flit with no part of a packet, outside the link's sequence. -/
def Port.askResend (x : Port) : Port :=
  { x with wire := { data := [], crc := flitCrc [], lsn := x.lsnNext, ack := x.lsnExp, resend := true } :: x.wire }

/-- An acknowledgement of the flits received so far (R335): a flit with no part of a packet, outside the link's sequence. -/
def Port.ackFlit (x : Port) : Port :=
  { x with wire := { data := [], crc := flitCrc [], lsn := x.lsnNext, ack := x.lsnExp } :: x.wire }

/-- The next packet to leave a port's queue: a response or a control packet never waits behind requests (R338). -/
def Port.nextPacket (x : Port) : Nat := (indexWhere (fun p : Packet => p.cls != 0) x.queue).getD 0

/-- Packets of the queue sent as far as the replay buffer of 512 flits has room. -/
def Port.pump (n : Nat) (x : Port) : Port :=
  match n with
  | 0 => x
  | m + 1 =>
    match x.queue[x.nextPacket]? with
    | none => x
    | some p =>
      if x.replayBuf.length + flitsOf p.payload.length ≤ 512 then
        Port.pump m ((flitParts p).foldl (fun y d => y.sendFlit p.mark d) { x with queue := dropAt x.queue x.nextPacket })
      else x

/-- A packet given to a port: what is given to one that is down is lost (R338). -/
def givePort (s : State) (port : Nat) (p : Packet) : State :=
  if portUp s port then
    modPort s port fun x => let y := { x with queue := x.queue ++ [p] }; y.pump y.queue.length
  else s

/-- A link acknowledgement taken: the flits before it leave the replay buffer, and what waited for their room goes (R335). -/
def Port.takeAck (x : Port) (a : BitVec 12) : Port :=
  if 0 < (a - x.lsnUna).toInt && 0 ≤ (x.lsnNext - a).toInt then
    let y := { x with lsnUna := a, replayBuf := x.replayBuf.filter fun f => decide (0 ≤ (f.lsn - a).toInt) }
    y.pump y.queue.length
  else x

/-- The flits from the failed one on sent again, in order (R335); with none of them left, that the receiver has all. A request of its own that is not
yet answered, which may be the flit that failed, goes again too (log entry 90). -/
def Port.resend (x : Port) : Port :=
  let y : Port :=
    if x.replayBuf.isEmpty then x.ackFlit
    else { x with llr := x.llr + 1, wire := (x.replayBuf.map fun f => { f with ack := x.lsnExp }).reverse ++ x.wire }
  if x.asked.isSome then y.askResend else y

/-- A resend asked for, from the flit expected on. -/
def Port.ask (x : Port) (now : Nat) : Port := ({ x with asked := some now, llr := x.llr + 1 } : Port).askResend

/-- Uncore cycles after which a request to resend that nothing has answered is repeated: 1 µs (log entry 90). -/
def askAgain : Nat := 2250

/-- A flit that is not the one expected arrives: a resend is asked for if none is awaited, or if the request has been given up for lost. -/
def Port.askLate (x : Port) (now : Nat) : Port :=
  match x.asked with
  | none => x.ask now
  | some t => if t + askAgain ≤ now then x.ask now else x

/-- A flit with a good CRC after the one expected, or before it (R335): a gap is asked for, and a flit received before is acknowledged again. -/
def Port.astray (x : Port) (lsn : BitVec 12) (now : Nat) : Port :=
  if (lsn - x.lsnExp).toInt < 0 then x.ackFlit else x.askLate now

/-- The flit expected received, and acknowledged (R335). -/
def Port.accept (x : Port) (f : Flit) : Port :=
  ({ x with lsnExp := x.lsnExp + 1#12, resends := 0, asked := none, inBuf := x.inBuf ++ [f] } : Port).ackFlit

end Sys2Proof.Machine
end

