-- ==== Sys2Proof/Machine/Wire.lean ====
section
/-! DEFINITION. Answers that come back to a strand (R177, R215), and the source side of the fabric: payloads (R368), flows and granary
(R336, R337). -/

namespace Sys2Proof.Machine

/-! ### Answers -/

/-- An error recorded in the strand with a serial number, if it still lives. -/
def recordErrAt (s : State) (k i uid cause : Nat) (addr : Word) : State :=
  let x := slotOf s k i
  if x.uid == uid && x.status != .free then setSlot s k i (recordErr x cause addr) else s

/-- The answer of an unanswered write-back: `bits` bits read under the destination's signedness (R159, R166), with an error. -/
def answerWb (s : State) (k serial bits v : Nat) (err : Option (Nat × Word)) (poison : Bool := false) : State :=
  if serial = 0 then s
  else
    let signed := fun (w : WriteBack) =>
      match nameOf s k w.slot w.name with
      | some e => e.signed && !(isFixed w.name)
      | none => false
    modCore s k fun c =>
      { c with wbs := c.wbs.map fun w =>
          if w.serial == serial then { w with val := some (readAs bits (signed w) v), err := err, poison := poison } else w }

/-- A COPY whose request found no streamer fails its transfer, so that nothing waits for it for ever (R226, R342); with its strand gone the entry is
freed (R224). -/
def failCopy (s : State) (k : Nat) (m : Message) (cause : Nat) : State :=
  if agentUnit m.target < 65 then s
  else
    let x := (m.words.getD 8 0#64).toNat / 2 ^ 32
    modLogical s (clusterOfKey k) (unitId s k) fun y =>
      match tfind y.xfers x with
      | some e => { y with xfers := if e.gone then tdel y.xfers x else tput y.xfers x { e with result := some cause } }
      | none => y

/-- An inbox's answer to an entry of an outbound buffer (R215): 0 accept, 1 retry, 2 error with its cause. -/
def answerMsg (s : State) (k serial status cause : Nat) : State :=
  match (coreOf s k).outbuf.find? fun e => e.msg.serial == serial with
  | none => s
  | some e =>
    if status == 1 then
      modCore s k fun c =>
        { c with outbuf := c.outbuf.map fun x => if x.msg.serial == serial then { x with retrying := true, due := s.uncore + 64, sent := false } else x }
    else
      let s1 := modCore s k fun c => { c with outbuf := c.outbuf.filter fun x => x.msg.serial != serial }
      if status == 0 then s1 else failCopy (recordErrAt s1 k e.slot e.uid cause (e.msg.target.setWidth 64)) k e.msg cause

/-- The error of a write that its home or the fabric refused, in its strand and in those whose REDs merged into it (R176, R177, R342). -/
def failWrite (s : State) (e : WEntry) (cause : Nat) : State :=
  e.mates.foldl (fun t m => recordErrAt t m.1 m.2.1 m.2.2 cause e.va) (recordErrAt s e.core e.slot e.uid cause e.va)

/-- Bytes from an address added to those that are held. -/
def holdBytes (b : List Host.Cell) (addr : Nat) (bs : List Byte) : List Host.Cell := b ++ bs.zipIdx.map fun e => (addr + e.2, e.1)

/-- What a queue's READ of a chunk brought, or that it failed (R318, R326); an answer that the queue waits for no more has no effect. -/
def codeArrives (s : State) (q serial addr : Nat) (data : Option (List Byte)) : State :=
  modQueue s q fun x =>
    if x.codeAsked != some serial then x
    else
      match data with
      | some bs => { x with codeAsked := none, codeBuf := holdBytes x.codeBuf addr bs }
      | none => { x with codeAsked := none, codeBad := addr :: x.codeBad }

/-- What a peer's answer to a SIGNAL or WAIT brought (R316), if the queue still waits for it. -/
def frontArrives (s : State) (q serial : Nat) (w : Option Word) : State :=
  modQueue s q fun x => if x.asked == some serial then { x with answer := some w } else x

/-- What a mailbox command's READ of a chunk brought, or that it failed: the command goes on (R325). -/
def mboxArrives (s : State) (i : Instr) (addr : Nat) (data : Option (List Byte)) : State :=
  let m := s.mbox
  post { s with mbox := match data with
    | some bs => { m with buf := holdBytes m.buf addr bs }
    | none => { m with bad := addr :: m.bad } } i

/-- What a request that held a granary entry comes to when its device is unreachable (R342). -/
def failPending (s : State) (p : Pending) : State :=
  match p with
  | .load k _ _ serial _ _ va => answerWb s k serial 64 0 (some (0x0F, va))
  | .fill _ _ _ _ _ _ => s
  | .line c pa n => lineAnswered s c n fun t => lineFails t c pa 0x0F
  | .store e => failWrite s e 0x0F
  | .atomic e =>
    match e.op with
    | .atomic a => if a.dest = 0 then failWrite s e 0x0F else answerWb s e.core a.dest 64 0 (some (0x0F, e.va))
    | _ => s
  | .msg k serial => answerMsg s k serial 2 0x0F
  | .gets g => failGets s g
  | .front q n => frontArrives s q n none
  | .code q n a => codeArrives s q n a none
  | .mbox i a => mboxArrives s i a none
  | .reply => s

/-! ### Payloads (R368) -/

/-- The kinds of access that a READ tells apart: a load, an acquire load, a line fetch, and the reads of records. -/
inductive ReadKind where
  | load | acquire | fetch | record
deriving DecidableEq, Repr

/-- A READ's byte of access kind, order and scope: the kind in bits 1 and 0, the acquire bit in 2, the scope from bit 4 on (log entry 12). -/
def readAttr (kind : ReadKind) (scope : Nat) : Nat :=
  (match kind with | .load => 0 | .acquire => 5 | .fetch => 2 | .record => 3) + scope * 2 ^ 4

/-- READ. -/
def payRead (addr len : Nat) (kind : ReadKind := .record) (scope : Nat := 0) : List Byte :=
  toBytes 8 addr ++ toBytes 2 len ++ toBytes 1 (readAttr kind scope) ++ toBytes 5 0

/-- The byte mask of a WRITE: bit n for data byte n. -/
def byteMask (have' : List Bool) : List Byte :=
  (List.range ((have'.length + 7) / 8)).map fun i =>
    BitVec.ofNat 8 ((List.range 8).foldl (fun acc j => if have'.getD (8 * i + j) false then acc + 2 ^ j else acc) 0)

/-- WRITE of data bytes from an address. -/
def payWrite (addr : Nat) (data : List Byte) : List Byte :=
  toBytes 8 addr ++ byteMask (data.map fun _ => true) ++ data

/-- The t1 fields of an atomic (R35). A CAS is told by its size field, whose upper bit no op number sets; its field D, a name of the
issuer, is sent as 0. -/
def atomicT1 (a : AtomicReq) : Nat :=
  let order := (if a.acq then 1 else 0) + (if a.rel then 2 else 0)
  let size := if a.bytes == 8 then 3 else 2
  if a.cas then size * 2 ^ 14 + order * 2 ^ 12 + a.scope * 2 ^ 9
  else a.op * 2 ^ 12 + size * 2 ^ 10 + order * 2 ^ 8 + a.scope * 2 ^ 5

/-- ATOMIC. How min and max compare no byte of it says: the packet's mark does (log entry 12). -/
def payAtomic (addr : Nat) (a : AtomicReq) : List Byte :=
  toBytes 8 addr ++ toBytes 2 (atomicT1 a) ++ toBytes 6 0 ++ toBytes 8 a.operand.toNat ++ toBytes 8 a.newVal.toNat

/-- MSG. -/
def payMsg (m : Message) : List Byte :=
  toBytes 4 m.target.toNat ++ toBytes 4 m.sender.toNat ++ toBytes 4 (m.launch.getD 0) ++ toBytes 2 m.words.length ++ toBytes 2 0
    ++ m.words.flatMap fun w => toBytes 8 w.toNat

/-- STEPRD. -/
def payStep (g : GetsReq) : List Byte :=
  toBytes 4 g.producer.toNat ++ toBytes 4 g.step.toNat ++ toBytes 2 (g.ring.toNat * 2 ^ 12 + g.off.toNat) ++ toBytes 6 0

/-- RESP. -/
def payResp (seq : BitVec 32) (status cause : Nat) (data : List Byte) : List Byte :=
  toBytes 4 seq.toNat ++ toBytes 1 status ++ toBytes 1 cause ++ toBytes 2 0 ++ toBytes 2 data.length ++ toBytes 6 0 ++ data

/-! ### Flows and granary -/

/-- diff(a, b) of R126, in n bits. -/
def serialDiff {n : Nat} (a b : BitVec n) : Int := (a - b).toInt

/-- Key of the flow with a device in a class. -/
def flowKey (peer cls : Nat) : Nat := 2 * peer + cls

/-- A flow's state. -/
def flowOf (s : State) (peer cls : Nat) : Flow := tget s.fab.flows {} (flowKey peer cls)

/-- A flow changed. -/
def modFlow (s : State) (peer cls : Nat) (f : Flow → Flow) : State :=
  modFab s fun b => { b with flows := tput b.flows (flowKey peer cls) (f (tget b.flows {} (flowKey peer cls))) }

/-- Whether a granary entry is still unacknowledged: it occupies its flits until then (R336, R337). -/
def unacked (s : State) (g : Grain) : Bool :=
  decide (0 ≤ serialDiff g.packet.seq (flowOf s g.packet.dst g.packet.cls).una)

/-- Flits of the granary in use (R345). -/
def granaryUsed (s : State) : Nat :=
  (s.fab.granary.map fun g => if unacked s g then flitsOf g.packet.payload.length else 0).sum

/-- The port that the routing table names for a device; 48 for an unreachable one and for one without an entry (R340). -/
def portTo (s : State) (d : Nat) : Nat :=
  match s.fab.table.find? fun e => e.1 == d with
  | some e => e.2
  | none => 48

/-- A packet given to the port of its destination; the model records it. -/
def outPacket (s : State) (p : Packet) : State := givePort (modFab s fun b => { b with out := p :: b.out }) (portTo s p.dst) p

/-- A packet of a flow leaves, stamped with the current version and with the acknowledgement of the reverse flow, which is then owed no more
(R333, R334, R340). -/
def emitPacket (s : State) (p : Packet) : State :=
  let s1 := outPacket s { p with av := true, ver := s.fab.cur, ack := (flowOf s p.dst p.cls).exp }
  if (flowOf s p.dst p.cls).owed then modFlow s1 p.dst p.cls fun x => { x with owed := false } else s1

/-- Whether a flow's window and the granary have room for m packets of a payload (R336, R337). -/
def flowRoom (s : State) (peer cls n : Nat) (m : Nat := 1) : Bool :=
  let f := flowOf s peer cls
  decide ((f.next - f.una).toNat + m ≤ 1024) && decide (granaryUsed s + m * flitsOf n ≤ 262144)

/-- A packet injected: written into the granary under the flow's next sequence number, and sent (R336, R337). -/
def injectNow (s : State) (g : Grain) : State :=
  let f := flowOf s g.packet.dst g.packet.cls
  let p := { g.packet with seq := f.next }
  let s1 := modFlow s p.dst p.cls fun x => { x with next := x.next + 1#32, since := if x.next == x.una then s.uncore else x.since }
  emitPacket (modFab s1 fun b => { b with granary := b.granary ++ [{ g with packet := p }] }) p

/-- Whether a packet of a flow waits at the interface. -/
def flowWaits (s : State) (peer cls : Nat) : Bool := s.fab.waiting.any fun w => w.packet.dst == peer && w.packet.cls == cls

/-- Whether the interface takes m requests of a payload for a device now (R337); those to a device that cannot be reached complete at once (R342). -/
def takesNow (s : State) (peer n m : Nat) : Bool :=
  unreachable s peer || (flowOf s peer 0).closed || (!(flowWaits s peer 0) && flowRoom s peer 0 n m)

/-- A class-0 or class-1 packet handed to the interface: injected if there is room and nothing of its flow waits, else waiting
(R337); a request to an unreachable device or a closed flow completes as R342 says. -/
def sendPacket (s : State) (peer cls kind : Nat) (payload : List Byte) (p : Pending) (mark : Bool := false) : State :=
  let g : Grain :=
    { packet := { kind := kind, cls := cls, src := s.dev.num, dst := peer, av := true, ver := s.fab.cur, seq := 0#32, ack := 0#32,
                  payload := payload, mark := mark }
      pending := p }
  if unreachable s peer || (flowOf s peer cls).closed then failPending s p
  else if flowWaits s peer cls || !(flowRoom s peer cls payload.length) then
    modFab s fun b => { b with waiting := b.waiting ++ [g] }
  else injectNow s g

/-- Waiting packets of a flow injected while there is room (R337). -/
def drainFlow (s : State) (peer cls : Nat) (n : Nat) : State :=
  match n with
  | 0 => s
  | m + 1 =>
    match indexWhere (fun w : Grain => w.packet.dst == peer && w.packet.cls == cls) s.fab.waiting with
    | none => s
    | some j =>
      match s.fab.waiting[j]? with
      | none => s
      | some g =>
        if flowRoom s peer cls g.packet.payload.length then
          drainFlow (injectNow (modFab s fun b => { b with waiting := dropAt b.waiting j }) g) peer cls m
        else s

/-- A RESP to a peer's request (R334). -/
def reply (s : State) (peer : Nat) (seq : BitVec 32) (status cause : Nat) (data : List Byte) : State :=
  sendPacket s peer 1 0x06 (payResp seq status cause data) .reply

end Sys2Proof.Machine
end

