-- ==== Sys2Proof/Machine/Access.lean ====
section
/-! DEFINITION. Reading and writing physical memory: forwarding from the quad's write queue (R188, R190), poison marks and soft errors
(R173, R180), and pending errors (R177). -/

namespace Sys2Proof.Machine

/-! ### Bytes as an agent of a quad sees them -/

/-- A byte with its poison mark, and after it those a store's bytes leave (R173, R188). -/
def overlay (b : Byte × Bool) (a : Nat) (bs : List MByte) (poison : Bool) : Byte × Bool :=
  bs.foldl (fun x m =>
    if m.addr == a then ((x.1 &&& ~~~m.mask) ||| (m.val &&& m.mask), poison || (x.2 && m.mask != 255#8)) else x) b

/-- The bytes of an n-byte store of a value. -/
def storeBytes (a n : Nat) (v : Nat) : List MByte :=
  (List.range n).map fun i => { addr := a + i, val := BitVec.ofNat 8 (v / 256 ^ i) }

/-- The bytes that a write is sure to leave, with their poison mark: those of a store, and of FEFULL, which no bit holds up (R162). An atomic's are
not known before it is performed, nor whether an STFE or STFF is held at its port (log entry 84). -/
def WOp.leaves (o : WOp) : Option (List MByte × Bool) :=
  match o with
  | .store bs p => some (bs, p)
  | .fe .fefull a v => some (storeBytes a 8 v.toNat, false)
  | _ => none

/-- Whether a write's bytes are known before it is performed, so that its quad sees it through forwarding (R188, R353). -/
def WOp.known (o : WOp) : Bool := o.leaves.isSome

/-- A byte and its poison mark as a write queue's known writes leave them (R188); in an inbox, which none changes, as memory has them (R156). -/
def forwarded (s : State) (q : List WEntry) (a : Nat) : Byte × Bool :=
  (if inInbox a then [] else q).foldl (fun x e => match e.op.leaves with | some (bs, p) => overlay x a bs p | none => x)
    (memByte s.mem a, s.poison.contains (a / 8 * 8))

/-- The write queue of a unit: its quad's (R204), and for a supervisor or streamer one of its own (log entry 13). -/
def queueKey (k : Nat) : Nat := if isCore k then quadOfKey k else 2048 + k

/-- The queue in which accesses of peer devices and the host wait for their homes. -/
def outsideQueue : Nat := 1500

/-- The quad-store port that serves an address: its quad's, or that of a supervisor's or streamer's local store. -/
def portKey (a : Nat) : Nat :=
  if a < 2 ^ 52 then quadOfPa a else 2048 + 128 * ((a - 2 ^ 52) / 0x400000) + 64 + (a - 2 ^ 52) / 0x80000 % 8

/-- The write queue through which a unit's accesses see the stores of its quad. -/
def queueFor (s : State) (k : Nat) : List WEntry := (quadOf s (queueKey k)).wq

/-- Whether two byte ranges share a word. -/
def sameWords (a n b m : Nat) : Bool := decide (a / 8 * 8 < b + m) && decide (b / 8 * 8 < a + n)

/-- The words that a write touches: where they start and how many bytes. -/
def WOp.span (o : WOp) : Nat × Nat :=
  match o with
  | .store bs _ => ((bs.head?.map (·.addr)).getD 0, bs.length)
  | .fe _ a _ => (a, 8)
  | .atomic r => (r.addr, r.bytes)
  | .read a n => (a, n)

/-- Whether a write touches a word of a byte range. -/
def WOp.touches (o : WOp) (a n : Nat) : Bool :=
  match o with
  | .store bs _ => bs.any fun b => sameWords b.addr 1 a n
  | _ => sameWords o.span.1 o.span.2 a n

/-- Whether a write is a plain or release store. -/
def WOp.isStore (o : WOp) : Bool := match o with | .store _ _ => true | _ => false

/-- A full/empty write. -/
def WOp.isFe (o : WOp) : Bool := match o with | .fe _ _ _ => true | _ => false

/-- Whether an operation of a port's list writes (R163). -/
def FeOp.writes (o : FeOp) : Bool := !(o == .ldfe || o == .ldff)

/-- Whether an entry is a strand's own, or one that a RED of it merged into (R204). -/
def WEntry.owned (e : WEntry) (k i uid : Nat) : Bool :=
  (e.core == k && e.slot == i && e.uid == uid && !e.outside) || e.mates.contains (k, i, uid)

/-- Whether a port holds a writing full/empty operation of a strand with a serial number below a bound (R163). -/
def feHolds (s : State) (k i uid bound : Nat) : Bool :=
  s.quads.any fun q => q.2.feWaits.any fun w => w.op.writes && decide (w.serial < bound) && w.core == k && w.slot == i && w.uid == uid

/-- Whether a full/empty write that a strand committed before a serial number is still to be performed, in its unit's queue or held at a
port (R163). -/
def feLeft (s : State) (k i uid bound : Nat) : Bool :=
  ((queueFor s k).any fun e => e.op.isFe && decide (e.serial < bound) && e.owned k i uid) || feHolds s k i uid bound

/-- The write that a fabric request carries. -/
def Pending.write (p : Pending) : Option WEntry :=
  match p with
  | .store e | .atomic e => some e
  | _ => none

/-- The writes that have left a unit and have not been performed: in its queue, parked, in the fabric, or in a streamer's run. -/
def outWrites (s : State) (k : Nat) : List WEntry :=
  queueFor s k ++ (s.parked.map (·.entry)).filter (fun e => !e.outside)
    ++ ((s.fab.granary ++ s.fab.waiting).filter fun g => !g.answered).filterMap (·.pending.write) ++ s.runs.map (·.entry)

/-- Whether a write of a kind has left a unit and has not been performed. -/
def outAny (s : State) (k : Nat) (counts : WEntry → Bool) : Bool := (outWrites s k).any counts

/-- Whether writes of a unit, by serial number, are still to be performed, on their way or held at a port. -/
def anyLeft (s : State) (k : Nat) (l : List Nat) : Bool :=
  !l.isEmpty && (outAny s k (fun e => l.contains e.serial) || s.quads.any fun q => q.2.feWaits.any fun w => w.op.writes && l.contains w.serial)

/-- Whether a release in the queue is not yet to be seen by the other strands of its quad (R191): they are agents of its scope, and writes that
it must follow have still to be made visible to the others by their performance. What it follows was settled as it issued, so that one that is seen
stays so (R188). -/
def WEntry.hidden (s : State) (e : WEntry) : Bool := e.rel && !e.outside && anyLeft s e.core e.after

/-- Whether a quad's strands see a write of another of its strands by forwarding (R188): its bytes are known, and it is no release that still
waits (R191). -/
def WEntry.seen (s : State) (e : WEntry) : Bool := e.op.known && !e.outside && !(e.hidden s)

/-- Whether a write with a serial number below a bound is on its way to its home that a strand must wait for: its own, and when `seen` holds
also the writes that its quad's queue makes visible to it (R191). -/
def onWay (s : State) (k i uid bound : Nat) (seen : Bool := true) : Bool :=
  outAny s k fun e => decide (e.serial < bound) && (e.owned k i uid || (seen && queueKey e.core == queueKey k && e.seen s))

/-- Whether a write with a serial number below a bound is still unperformed that a strand must wait for, on its way or held at a port (R163,
R191). -/
def unperformed (s : State) (k i uid bound : Nat) (seen : Bool := true) : Bool :=
  onWay s k i uid bound seen || feHolds s k i uid bound

/-- The writes that a release which a strand issues now must follow, by serial number (R191): those of its own that are still to be performed, and
those that its quad's queue makes visible to it. -/
def releaseSet (s : State) (k i uid : Nat) : List Nat :=
  ((outWrites s k).filter fun e => e.owned k i uid || (queueKey e.core == queueKey k && e.seen s)).map (·.serial)
    ++ s.quads.flatMap fun q => (q.2.feWaits.filter fun w => w.op.writes && w.core == k && w.slot == i && w.uid == uid).map (·.serial)

/-- Whether a parked atomic blocks a word (R205). -/
def wordBlocked (s : State) (a n : Nat) : Bool := s.parked.any fun p => p.entry.op.touches a n

/-- Whether a word's bit lets an operation go on (R162); a word of an inbox is always empty, and its writers never wait (R156). -/
def feReady (s : State) (op : FeOp) (addr : Nat) : Bool :=
  let full := s.full.contains addr && !(inInbox addr)
  match op with
  | .ldfe | .ldff => full
  | .stfe => !full
  | .stff => full || inInbox addr
  | .fefull | .feempty | .festate => true

/-- A full/empty write whose condition does not hold: at the port it is held, and has no effect yet (R163). -/
def joinsList (s : State) (o : WOp) : Bool :=
  match o with
  | .fe op addr _ => !(feReady s op addr)
  | _ => false

/-- Whether a write follows, in its strand's order on a word, a full/empty write that is held up (R163, R190). -/
def WEntry.afterHeld (s : State) (e : WEntry) : Bool :=
  (s.quads.any fun q => q.2.feWaits.any fun w =>
      w.op.writes && decide (w.serial < e.serial) && e.owned w.core w.slot w.uid && e.op.touches w.addr 8)
    || ((queueFor s e.core).any fun x =>
          decide (x.serial < e.serial) && joinsList s x.op && e.owned x.core x.slot x.uid && e.op.touches x.op.span.1 8)

/-- Whether the other strands of its quad pass a queued write by (log entry 84): a release that they are not to see yet, a full/empty write that
its word's bit holds up, or an atomic behind such a write. What it will leave, and when, may depend on them. -/
def WEntry.passed (s : State) (e : WEntry) : Bool := e.hidden s || joinsList s e.op || (!e.op.known && e.afterHeld s)

/-- The queued writes that a strand's reads see or wait for (R188, R189): its own, and those of its quad that it does not pass by. -/
def shownTo (s : State) (k i : Nat) : List WEntry :=
  (queueFor s k).filter fun e => e.owned k i (slotOf s k i).uid || !(e.passed s)

/-- The bytes that a strand's read sees (R188, R189). -/
def seenBytes (s : State) (k i a n : Nat) : List Byte :=
  let q := shownTo s k i
  (List.range n).map fun j => (forwarded s q (a + j)).1

/-- Whether a strand's read of n bytes meets a poisoned word that the queue's stores do not supply (R173). -/
def seenPoison (s : State) (k i a n : Nat) : Bool :=
  let q := shownTo s k i
  (List.range n).any fun j => (forwarded s q (a + j)).2

/-- Whether a load must wait (R163, R188 to R191, R205): a queued write to the same words that it sees, and whose bytes are not known before it
is performed, a held full/empty write of its own strand, or a parked atomic. -/
def loadBehind (s : State) (k i a n : Nat) : Bool :=
  wordBlocked s a n
    || ((shownTo s k i).any fun e => e.op.touches a n && !e.op.known)
    || (s.quads.any fun q => q.2.feWaits.any fun w =>
          w.core == k && w.slot == i && w.uid == (slotOf s k i).uid && w.op.writes && sameWords w.addr 8 a n)

/-- Peer bytes that have been returned for a strand's waiting instruction (R334). -/
def peerBytes (x : Slot) (a n : Nat) : Option (List Byte) :=
  (List.range n).mapM fun i => (x.peerBuf.find? fun c => c.1 == a + i).map (·.2)

/-- Whether a queued write of the unit's quad touches words that a read of peer memory would pass by (R190). -/
def peerBehind (s : State) (p n : Nat) : Bool := (shownTo s s.cur.core s.cur.slot).any fun e => e.op.touches p n

/-- A read of n bytes by the strand of the issue latch: the value and whether it was poisoned (R173, R176, R190). Peer memory is asked
for with a READ, behind what its quad has queued for the words, and the instruction waits for the RESP; `va` is the address that an error of
it names (R177). `bring` is what reads the arrays, with or without the channel's transfers. -/
def readBytes (a n : Nat) (s : State) (bring : State → Nat → Nat → Bool × State := memoryRead) (va : Word := BitVec.ofNat 64 a) : Ans (Nat × Bool) :=
  if inPeer a then
    match peerBytes (curSlot s) a n with
    | some bs => .ok (ofBytes bs, false) s
    | none =>
      .waitIn (.ahead a n) (if peerBehind s a n then s
        else sendPacket { s with serial := s.serial + 1 } (peerDev a) 0 0x01 (payRead (peerOff a) n)
          (.fill s.cur.core s.cur.slot (curSlot s).uid s.serial a va))
  else if loadBehind s s.cur.core s.cur.slot a n then .waitIn (.ahead a n) s
  else
    let (bad, s2) := bring s a n
    awaitBeats s s2 (.ok (ofBytes (seenBytes s2 s.cur.core s.cur.slot a n), bad || seenPoison s2 s.cur.core s.cur.slot a n) s2)

/-- The first poisoned word of a read; where all that was read came poisoned, its first byte. -/
def badWord (s : State) (k i a n : Nat) : Nat := ((wordsOf a n).find? fun w => seenPoison s k i w 8).getD a

/-- A read whose data the instruction never writes to a name: poison traps precisely with cause 0x0E and the address of the poisoned
word (R177), `va` being the address by which the read's first byte is named. -/
def readClean (a n : Nat) (va : Word) (s : State) : Ans Nat :=
  (readBytes a n s memoryRead va).bind fun v t =>
    if v.2 then .trapIn 0x0E (va + BitVec.ofNat 64 (badWord t t.cur.core t.cur.slot a n) - BitVec.ofNat 64 a) t else .ok v.1 t

/-- A read through a window, checked under R154 by the caller (R5), of data that no name receives (R177). -/
def readWin (w : Word) (off : Int) (n : Nat) (s : State) : Ans Nat :=
  let a := winAddr s.cur.core w off n
  readClean a n (BitVec.ofNat 64 a) s

/-- n words from a physical address, of data that no name receives. -/
def readWords (a : Nat) (va : Word) (n : Nat) (s : State) : Ans (List Word) :=
  match n with
  | 0 => .ok [] s
  | m + 1 =>
    (readClean a 8 va s).bind fun v t => (readWords (a + 8) (va + 8#64) m t).bind fun vs t =>
      .ok (BitVec.ofNat 64 v :: vs) t

/-! ### Performing writes -/

/-- A byte stored at its home (R160): the masked bits change, and inbox bytes of a quad store never do (R156). -/
def putByte (s : State) (b : MByte) : State :=
  if inInbox b.addr then s
  else { s with mem := memPut s.mem b.addr ((memByte s.mem b.addr &&& ~~~b.mask) ||| (b.val &&& b.mask)) }

/-- Whether a store's bytes cover a whole word. -/
def coversWord (bs : List MByte) (wa : Nat) : Bool :=
  (List.range 8).all fun i => bs.any fun b => b.addr == wa + i && b.mask == 255#8

/-- The words that a store's bytes touch. -/
def storeWords (bs : List MByte) : List Nat :=
  bs.foldl (fun l b => sput l (b.addr / 8 * 8)) []

/-- The marks of a word after a store (R173): a store that covers the word clears its mark and any soft error; a poisoned store sets
the mark. -/
def markWord (s : State) (bs : List MByte) (poison : Bool) (wa : Nat) : State :=
  if poison then { s with poison := sput s.poison wa }
  else if coversWord bs wa then { s with poison := sdel s.poison wa, flips := s.flips.filter fun f => f.1 != wa }
  else scrubWord s wa

/-- A store performed at a home of this device (R188). -/
def performStore (s : State) (bs : List MByte) (poison : Bool) : State :=
  bs.foldl putByte ((storeWords bs).foldl (fun t w => if inInbox w then t else markWord t bs poison w) s)

end Sys2Proof.Machine
end

