-- ==== Sys2Proof/Machine/Thresher.lean ====
section
/-! DEFINITION. The thresher (R42 to R57): map images, seats, placement, moves and compaction, and the vector-store allocator (R50). -/

namespace Sys2Proof.Machine

/-! ### Map images -/

/-- A declared scalar of an image (R40): width, signedness, mode. -/
structure Decl where
  width : Nat
  signed : Bool
  mode : FitMode
deriving DecidableEq, Repr

/-- A vector entry of an image (R40, R118): type, count, and the ids from its first to the next entry's first. -/
structure VDecl where
  ty : Nat
  count : Nat
  span : Nat
deriving DecidableEq, Repr

/-- A map image (R41). -/
structure Image where
  scalars : List Decl
  vectors : List VDecl
deriving DecidableEq, Repr

/-- A scalar entry (R40); none when R46 makes it invalid. -/
def parseScalar (p : Parcel) : Option Decl :=
  let v := p.toNat
  let m := bitsOf v 8 7
  if bitsOf v 15 9 != 0 || m == 3 then none
  else some { width := bitsOf v 5 0 + 1, signed := bitsOf v 6 6 == 1, mode := if m == 0 then .wrap else if m == 1 then .sat else .trap }

/-- A vector entry (R40, R46, R118); none when it is invalid by itself. -/
def parseVector (spill : Bool) (p : Parcel) : Option VDecl :=
  let v := p.toNat
  let n := bitsOf v 9 4 + 1
  let sp := bitsOf v 15 10
  if decide (9 < bitsOf v 3 0) || (!spill && sp != 0) then none
  else some { ty := bitsOf v 3 0, count := n, span := if spill then sp + 1 else n }

/-- Scalar entries in id order; a byte offset where one is invalid. -/
def parseScalars (ps : List Parcel) (off : Nat) : Sum Nat (List Decl) :=
  match ps with
  | [] => .inr []
  | p :: r =>
    match parseScalar p with
    | none => .inl off
    | some d => match parseScalars r (off + 2) with | .inl o => .inl o | .inr ds => .inr (d :: ds)

/-- Vector entries in id order, with the ids already taken; a byte offset where one is invalid or passes 64 ids. -/
def parseVectors (spill : Bool) (ps : List Parcel) (off taken : Nat) : Sum Nat (List VDecl) :=
  match ps with
  | [] => .inr []
  | p :: r =>
    match parseVector spill p with
    | none => .inl off
    | some d =>
      if decide (64 < taken + d.span) || decide (d.span < d.count) then .inl off
      else match parseVectors spill r (off + 2) (taken + d.span) with | .inl o => .inl o | .inr ds => .inr (d :: ds)

/-- A map image read from its parcels (R41, R46, R47): the image, or the byte offset of the first offending parcel. R46 and R47 do not say which
check of a handler image comes first when several fail: the model tests the counts, the handler's limits on them and then the entries (log
entry 75). -/
def parseImage (spill handler : Bool) (ps : List Parcel) : Sum Nat Image :=
  let n := (ps.getD 0 0#16).toNat
  let m := (ps.getD 1 0#16).toNat
  if 240 < n then .inl 0
  else if 64 < m then .inl 2
  else if handler && decide (32 < n) then .inl 0
  else if handler && m != 0 then .inl 2
  else
    match parseScalars ((ps.drop 2).take n) 4 with
    | .inl o => .inl o
    | .inr ds =>
      match parseVectors spill ((ps.drop (2 + n)).take m) (4 + 2 * n) 0 with
      | .inl o => .inl o
      | .inr vs => .inr { scalars := ds, vectors := vs }

/-! ### Seats -/

/-- An occupied run of bits of a row: (row, bit, width). -/
abbrev Occ := Nat × Nat × Nat

/-- The rows of a slot's placement domain: first row and number of rows (R42). -/
def domainOf (slot : Nat) : Nat × Nat := if slot == 14 then (0, 8) else if slot == 15 then (8, 8) else (16, 496)

/-- Whether two slots share a placement domain (R42). -/
def sameDomain (a b : Nat) : Bool := domainOf a == domainOf b

/-- Whether w bits at a bit of a row lie free. -/
def freeRun (occ : List Occ) (row bit w : Nat) : Bool :=
  decide (bit + w ≤ 128) && occ.all fun o => o.1 != row || decide (o.2.1 + o.2.2 ≤ bit) || decide (bit + w ≤ o.2.1)

/-- The lowest bit of a row at which w bits lie free: a free run starts at 0 or where an occupied run ends. -/
def fitRow (occ : List Occ) (row w : Nat) : Option Nat :=
  let starts := 0 :: (occ.filter fun o => o.1 == row).map fun o => o.2.1 + o.2.2
  (starts.filter fun b => freeRun occ row b w).foldl
    (fun best b => match best with | none => some b | some c => some (if b < c then b else c)) none

/-- The lowest (row, bit) among n rows at which w bits lie free (R48). -/
def firstFit (occ : List Occ) (w row n : Nat) : Option (Nat × Nat) :=
  match n with
  | 0 => none
  | m + 1 =>
    match fitRow occ row w with
    | some b => some (row, b)
    | none => firstFit occ w (row + 1) m

/-- The runs that a slot's names occupy. -/
def occOf (names : Tab NameEntry) : List Occ := names.map fun e => (e.2.row, e.2.bit, e.2.width)

/-- The runs occupied in a slot's domain by every slot but one. -/
def occOthers (c : Core) (slot : Nat) : List Occ :=
  (c.slots.filter fun e => e.1 != slot && sameDomain e.1 slot).flatMap fun e => occOf e.2.names

/-- A strand's names seated first-fit in ascending id (R48); the first id that finds no seat. -/
def seatNames (occ : List Occ) (dom : Nat × Nat) (names : Tab NameEntry) : Sum Nat (Tab NameEntry) :=
  match names with
  | [] => .inr []
  | (n, e) :: r =>
    match firstFit occ e.width dom.1 dom.2 with
    | none => .inl n
    | some (row, b) =>
      match seatNames ((row, b, e.width) :: occ) dom r with
      | .inl m => .inl m
      | .inr t => .inr ((n, { e with row := row, bit := b }) :: t)

/-- Every name of a domain laid out afresh, slots ascending (R51): none when some name finds no seat. -/
def layout (dom : Nat × Nat) (occ : List Occ) (slots : List (Nat × Tab NameEntry)) : Option (List (Nat × Tab NameEntry)) :=
  match slots with
  | [] => some []
  | (i, t) :: r =>
    match seatNames occ dom t with
    | .inl _ => none
    | .inr u =>
      match layout dom (occOf u ++ occ) r with
      | none => none
      | some v => some ((i, u) :: v)

/-- Names whose seat a layout changed (R51). -/
def movedIn (old new : Tab NameEntry) : Nat :=
  (new.filter fun e => match tfind old e.1 with | none => false | some o => o.row != e.2.row || o.bit != e.2.bit).length

/-- A compaction of a slot's domain with one slot's names replaced (R51): the new tables of every slot, and how many seats changed. -/
def compact (c : Core) (slot : Nat) (names : Tab NameEntry) : Option (List (Nat × Tab NameEntry) × Nat) :=
  let mates := (List.range (max 16 (slot + 1))).filter fun i => sameDomain i slot
  let tabs := mates.map fun i => (i, if i == slot then names else (tget c.slots {} i).names)
  match layout (domainOf slot) [] (tabs.filter fun e => !e.2.isEmpty) with
  | none => none
  | some new =>
    some (new, (new.map fun e => movedIn (tget c.slots {} e.1).names e.2).sum)

/-- The tables of a compaction put in place. -/
def applyLayout (s : State) (k : Nat) (new : List (Nat × Tab NameEntry)) : State :=
  new.foldl (fun t e => modSlot t k e.1 fun x => { x with names := e.2 }) s

/-- A pause of P cycles after the current cycle (R52). What a placement asks for while a pause lasts follows that pause, so that none overlaps
another. -/
def pause (s : State) (k p : Nat) : State :=
  modCore s k fun c =>
    match c.pauseTo with
    | none => { c with pauseTo := some (cycOf s k + p) }
    | some _ => { c with pauses := c.pauses ++ [p] }

/-- A pause that a placement from outside has begun on a core before the core issues in this cycle, which it takes as the pause's first (R51,
R52). -/
def promptPause (s t : State) (k : Nat) : State :=
  if (coreOf s k).pauseTo.isNone && decide ((coreOf s k).canIssue ≤ cycOf s k) then
    modCore t k fun c => { c with pauseTo := c.pauseTo.map (· - 1) }
  else t

/-- The names that an image declares, all zero (R45). -/
def freshNames (ds : List Decl) : Tab NameEntry :=
  ds.zipIdx.map fun e => (e.2, { row := 0, bit := 0, width := e.1.width, signed := e.1.signed, mode := e.1.mode })

/-- A strand's scalar names placed, its old names counted as released (R48, R60): first-fit, then by compaction with its pause; or the
first id left unplaced. -/
def placeNames (s : State) (k slot : Nat) (names : Tab NameEntry) : Sum Nat State :=
  let c := coreOf s k
  match seatNames (occOthers c slot) (domainOf slot) names with
  | .inr t => .inr (modSlot s k slot fun x => { x with names := t })
  | .inl n =>
    let c1 := { c with slots := tput c.slots slot { tget c.slots {} slot with names := [] } }
    match compact c1 slot names with
    | none => .inl n
    | some (new, m) => .inr (pause (applyLayout s k new) k (8 + 2 * m))

/-! ### Vector rows -/

/-- The rows of a quad's vector store that vector ids of its four cores hold, one strand's left out (R50). -/
def rowsTaken (s : State) (q k slot : Nat) (without : Bool) : List Nat :=
  (List.range 4).flatMap fun p =>
    let kk := keyOf (q / 16) (4 * (q % 16) + p)
    (coreOf s kk).slots.flatMap fun e =>
      if without && kk == k && e.1 == slot then [] else e.2.vecs.map fun v => v.2.row

/-- The free rows of a quad's vector store, lowest first. -/
def rowsFree (taken : List Nat) : List Nat := (List.range 256).filter fun r => !(taken.contains r)

/-- The ids that vector entries declare: (id, type, first id of the array) (R46, R118). -/
def vecIds (vs : List VDecl) (first : Nat) : List (Nat × Nat × Nat) :=
  match vs with
  | [] => []
  | v :: r => ((List.range v.count).map fun j => (first + j, v.ty, first)) ++ vecIds r (first + v.span)

/-- Vector ids seated at free rows in ascending id (R50); the first id left without a row. -/
def seatVecs (free : List Nat) (ids : List (Nat × Nat × Nat)) : Sum Nat (Tab VecEntry) :=
  match ids, free with
  | [], _ => .inr []
  | (n, _, _) :: _, [] => .inl n
  | (n, ty, f) :: r, row :: fr =>
    match seatVecs fr r with
    | .inl m => .inl m
    | .inr t => .inr ((n, { row := row, ty := ty, first := f }) :: t)

/-- A strand's map replaced whole (R60): scalars and vector ids placed, or the first id left unplaced, with nothing changed. A supervisor core or
a streamer, which has no vector store, has no free row for a vector id; the spec does not say what such an image does there (log entry 76). -/
def placeMap (s : State) (k slot : Nat) (img : Image) : Sum Nat State :=
  match placeNames s k slot (freshNames img.scalars) with
  | .inl n => .inl n
  | .inr t =>
    match img.vectors with
    | [] => .inr (modSlot t k slot fun x => { x with vecs := [] })
    | _ =>
      match seatVecs (if isCore k then rowsFree (rowsTaken s (quadOfKey k) k slot true) else []) (vecIds img.vectors 0) with
      | .inl n => .inl n
      | .inr v => .inr (modSlot t k slot fun x => { x with vecs := v })

/-! ### The image of a strand's declarations -/

/-- A scalar entry in image form (R40). -/
def declParcel (e : NameEntry) : Parcel :=
  BitVec.ofNat 16 (e.width - 1 + (if e.signed then 64 else 0)
    + (match e.mode with | .wrap => 0 | .sat => 128 | .trap => 256))

/-- The arrays of a strand's vector ids: (first id, type, count), in id order. -/
def arraysOf (v : Tab VecEntry) : List (Nat × Nat × Nat) :=
  (v.filter fun e => e.1 == e.2.first).map fun e => (e.1, e.2.ty, (v.filter fun x => x.2.first == e.1).length)

/-- Vector entries with their spans, the last span equal to its count (R118). -/
def spillVectors (as : List (Nat × Nat × Nat)) : List Parcel :=
  match as with
  | [] => []
  | [(_, ty, n)] => [BitVec.ofNat 16 (ty + (n - 1) * 16 + (n - 1) * 1024)]
  | (f, ty, n) :: (g, ty', m) :: r => BitVec.ofNat 16 (ty + (n - 1) * 16 + (g - f - 1) * 1024) :: spillVectors ((g, ty', m) :: r)

/-- The map image of a spill (R118). -/
def spillImage (x : Slot) : List Parcel :=
  let as := arraysOf x.vecs
  [BitVec.ofNat 16 x.names.length, BitVec.ofNat 16 as.length] ++ x.names.map (fun e => declParcel e.2) ++ spillVectors as

end Sys2Proof.Machine
end

