-- ==== Sys2Proof/Machine/MapClass.lean ====
section
/-! DEFINITION. The map class (R58 to R65). -/

namespace Sys2Proof.Machine

/-- Whether a sequencer run is in progress on a strand's behalf (R54). -/
def runBusy (s : State) (k i : Nat) : Bool :=
  (coreOf s k).seq.owner == some i && (coreOf s k).seq.run.isSome

/-- The conditions of R54 for all of a strand's names. -/
def namesQuiet (s : State) (k i : Nat) : Bool := !(anyOutstanding s k i) && !(runBusy s k i)

/-- Wait until no write-back to any of the strand's names is outstanding and no run is in progress for it (R54). -/
def awaitNames (s : State) : Ans Unit :=
  if namesQuiet s s.cur.core s.cur.slot then .ok () s else .waitIn .names s

/-- Wait until no write-back to a name is outstanding (R54). -/
def awaitName (n : Name) (s : State) : Ans Unit :=
  if outstanding s s.cur.core s.cur.slot n then .waitIn (.name n) s else .ok () s

/-- Names have been released on a core: the seeds that found no place there are to be tried again (R49). -/
def namesFreed (s : State) (k : Nat) : State :=
  if (coreOf s k).unseated.isEmpty then s else modCore s k fun c => { c with freed := true }

/-- Ownership of the sequencer ended and its buffer discarded, if a slot holds it (R254). A run that is still in progress, as where a slot is freed
without the wait, is cut (log entry 109). -/
def endOwnership (s : State) (k i : Nat) : State :=
  if (coreOf s k).seq.owner == some i then modCore s k fun c => { c with seq := {} } else s

/-- n parcels through a window from a byte offset, each read wrapping in the window (R60). -/
def readParcels (w : Word) (off : Int) (n : Nat) (s : State) : Ans (List Parcel) :=
  match n with
  | 0 => .ok [] s
  | m + 1 =>
    (readWin w off 2 s).bind fun p s => (readParcels w (off + 2) m s).bind fun r s => .ok (BitVec.ofNat 16 p :: r) s

/-- Parcels in an image, from its two counts; a bad count ends the image there (R46). -/
def imageLength (n m : Nat) : Nat := if 240 < n || 64 < m then 2 else 2 + n + m

/-- MAPLD's body (R60). -/
def mapldBody (b c : Name) (disp : BitVec 16) (s : State) : Ans Unit :=
  (readWindow b false s).bind fun w s => (readName c s).bind fun x s =>
    let base := x + disp.toInt
    (readParcels w base 2 s).bind fun hd s =>
      (readParcels w base (imageLength (hd.getD 0 0#16).toNat (hd.getD 1 0#16).toNat) s).readThen fun ps s =>
        match parseImage false (decide (14 ≤ s.cur.slot)) ps with
        | .inl o => .trap 0x02 (BitVec.ofNat 64 o)
        | .inr img =>
          (awaitNames s).bind fun _ s =>
            match placeMap s s.cur.core s.cur.slot img with
            | .inl n => .trap 0x06 (BitVec.ofNat 64 n)
            | .inr t => .ok () (namesFreed (endOwnership t s.cur.core s.cur.slot) s.cur.core)

/-- MAPLD. -/
def execMapld (b c : Name) (disp : BitVec 16) (s : State) : Host.Outcome State Fault Refusal := run (mapldBody b c disp) s

/-- A strand's declared names and vector ids released (R45). -/
def releaseNames (x : Slot) : Slot := { x with names := [], vecs := [] }

/-- Whether a strand has declared a name or a vector id (R44, R50). -/
def hasNames (x : Slot) : Bool := !(x.names.isEmpty && x.vecs.isEmpty)

/-- MAPREL's effect (R61): the names are released and with them the sequencer (R254); with no names declared it has none (log entry 77). -/
def releaseMap (s : State) : State :=
  if hasNames (curSlot s) then namesFreed (endOwnership (modCur s releaseNames) s.cur.core s.cur.slot) s.cur.core else s

/-- MAPREL (R61). -/
def execMaprel (s : State) : Host.Outcome State Fault Refusal :=
  run (fun s => (awaitNames s).bind fun _ s => .ok () (releaseMap s)) s

/-- A scalar name operand of the map instructions, as an id (R59). -/
def mapName (n : Name) (s : State) : Ans NameEntry :=
  if isFixed n then .trap 0x02 (n.setWidth 64)
  else
    match nameOf s s.cur.core s.cur.slot n with
    | some e => .ok e s
    | none => .trap 0x03 (n.setWidth 64)

/-- The runs of a slot's domain that every name but one occupies. -/
def occExcept (s : State) (k i : Nat) (n : Name) : List Occ :=
  occOthers (coreOf s k) i ++ occOf (tdel (slotOf s k i).names n.toNat)

/-- A name widened to w' (R51): in place, by a single move, by compaction, or cause 0x06. -/
def widen (n : Name) (e : NameEntry) (w' : Nat) (s : State) : Ans Unit :=
  let k := s.cur.core
  let i := s.cur.slot
  let occ := occExcept s k i n
  let e' := { e with width := w', bits := (BitVec.ofInt w' e.value).setWidth 64 }
  if freeRun occ e.row e.bit w' then .ok () (setName s k i n e')
  else
    match firstFit occ w' (domainOf i).1 (domainOf i).2 with
    | some (r, b) => .ok () (pause (setName s k i n { e' with row := r, bit := b }) k 6)
    | none =>
      match compact (coreOf s k) i (tput (slotOf s k i).names n.toNat e') with
      | some (new, m) => .ok () (pause (applyLayout s k new) k (8 + 2 * m))
      | none => .trap 0x06 (BitVec.ofNat 64 w')

/-- A name narrowed to w', under its mode (R57). -/
def narrow (n : Name) (e : NameEntry) (w' : Nat) (s : State) : Ans Unit :=
  match fitTo e.value w' e.signed e.mode with
  | none => .trap 0x05 (wordOf e.value)
  | some (v, sat) => .ok () (putName s s.cur.core s.cur.slot n { e with width := w' } v sat)

/-- RESIZE (R62). -/
def execResize (b : Name) (width : BitVec 7) (s : State) : Host.Outcome State Fault Refusal :=
  run (fun s => (mapName b s).bind fun _ s => (awaitName b s).bind fun _ s => (mapName b s).bind fun e s =>
    if width.toNat < e.width then narrow b e width.toNat s
    else if e.width < width.toNat then widen b e width.toNat s
    else .ok () s) s

/-- The ids of an array that a strand has placed. -/
def arrayIds (v : Tab VecEntry) (first : Nat) : List Nat := (v.filter fun e => e.2.first == first).map (·.1)

/-- RESIZEV's effect on the allocator (R63). -/
def resizeArray (first n' : Nat) (ty : Nat) (s : State) : Ans Unit :=
  let k := s.cur.core
  let i := s.cur.slot
  let v := (slotOf s k i).vecs
  let n := (arrayIds v first).length
  if n' ≤ n then
    let t := modSlot s k i fun x => { x with vecs := x.vecs.filter fun e => e.2.first != first || decide (e.1 < first + n') }
    .ok () (if n' < n then namesFreed t k else t)
  else
    let new := (List.range (n' - n)).map fun j => first + n + j
    match new.find? fun j => decide (63 < j) || (tfind v j).isSome with
    | some j => .trap 0x02 (BitVec.ofNat 64 (if 63 < j then 64 else j))
    | none =>
      match seatVecs (rowsFree (rowsTaken s (quadOfKey k) k i false)) (new.map fun j => (j, ty, first)) with
      | .inl j => .trap 0x06 (BitVec.ofNat 64 j)
      | .inr t => .ok () (modSlot s k i fun x => { x with vecs := t.foldl (fun u e => tput u e.1 e.2) x.vecs })

/-- RESIZEV (R63). -/
def execResizev (v : BitVec 6) (count : BitVec 7) (s : State) : Host.Outcome State Fault Refusal :=
  run (fun s =>
    match tfind (curSlot s).vecs v.toNat with
    | none => .trap 0x03 (v.setWidth 64)
    | some e =>
      if e.first != v.toNat then .trap 0x03 (v.setWidth 64)
      else (awaitNames s).bind fun _ s => resizeArray v.toNat count.toNat e.ty s) s

/-- A mode from its code (R40). -/
def modeOfCode (m : Nat) : FitMode := if m == 0 then .wrap else if m == 1 then .sat else .trap

/-- The code of a mode. -/
def codeOfMode (m : FitMode) : Nat := match m with | .wrap => 0 | .sat => 1 | .trap => 2

/-- SETMODE (R64). -/
def execSetmode (b : Name) (sgn : BitVec 1) (mode : BitVec 2) (s : State) : Host.Outcome State Fault Refusal :=
  run (fun s => (mapName b s).bind fun _ s => (awaitName b s).bind fun _ s => (mapName b s).bind fun e s =>
    .ok () (setName s s.cur.core s.cur.slot b { e with signed := sgn == 1#1, mode := modeOfCode mode.toNat })) s

/-- A query of a declaration (R65): one result for a declared name, another for a fixed one. -/
def query (f : NameEntry → Nat) (g : Nat → Nat) (b c : Name) : State → Ans Unit := fun s =>
  if isFixed c then writeName b (g c.toNat : Int) s
  else
    match nameOf s s.cur.core s.cur.slot c with
    | none => .trap 0x03 (c.setWidth 64)
    | some e => writeName b (f e : Int) s

/-- WIDTHOF. -/
def execWidthof (b c : Name) (s : State) : Host.Outcome State Fault Refusal := run (query (·.width) fixedWidth b c) s
/-- MODEOF. -/
def execModeof (b c : Name) (s : State) : Host.Outcome State Fault Refusal :=
  run (query (fun e => codeOfMode e.mode + (if e.signed then 4 else 0)) (fun _ => 0) b c) s
/-- SEATOF. -/
def execSeatof (b c : Name) (s : State) : Host.Outcome State Fault Refusal :=
  run (query (fun e => e.row * 128 + e.bit) (fun _ => 0xFFFF) b c) s

end Sys2Proof.Machine
end

