-- ==== Sys2Proof/Machine/Numbers.lean ====
section
/-! DEFINITION. Number formats (R229), exact values, and the one rounding rule (R230 to R232). -/

namespace Sys2Proof.Machine

/-- An exact value: NaN, an infinity, or ±(mag × 2^exp), where `sticky` says that the magnitude is larger than that by less than one
unit of 2^exp. Zero keeps a sign (R230). -/
inductive Num where
  | nan
  | inf (neg : Bool)
  | fin (neg : Bool) (mag : Nat) (exp : Int) (sticky : Bool)
deriving DecidableEq, Repr

/-- A floating format (R229): fraction bits, exponent bits, bias, largest finite value as mantissa × 2^exponent, and whether it has
infinities and NaNs. -/
structure FloatFmt where
  frac : Nat
  expo : Nat
  bias : Int
  maxMant : Nat
  maxExp : Int
  hasInf : Bool
  hasNan : Bool
deriving DecidableEq, Repr

/-- F32. -/
def fmtF32 : FloatFmt := ⟨23, 8, 127, 2 ^ 24 - 1, 104, true, true⟩
/-- BF16. -/
def fmtBF16 : FloatFmt := ⟨7, 8, 127, 2 ^ 8 - 1, 120, true, true⟩
/-- F8A: the only special is NaN, S.1111.111. -/
def fmtF8A : FloatFmt := ⟨3, 4, 7, 14, 5, false, true⟩
/-- F8B. -/
def fmtF8B : FloatFmt := ⟨2, 5, 15, 7, 13, true, true⟩
/-- F4: no specials. -/
def fmtF4 : FloatFmt := ⟨1, 2, 1, 3, 1, false, false⟩

/-- The floating format of a type code (R41); none for an integer type. -/
def floatFmt (ty : Nat) : Option FloatFmt :=
  match ty with
  | 0 => some fmtF32
  | 1 => some fmtBF16
  | 2 => some fmtF8A
  | 3 => some fmtF8B
  | 4 => some fmtF4
  | _ => none

/-- Bits of an element of a type (R229). -/
def typeBits (ty : Nat) : Nat :=
  match ty with
  | 0 => 32 | 1 => 16 | 2 => 8 | 3 => 8 | 4 => 4 | 5 => 8 | 6 => 4 | 7 => 2 | 8 => 32 | _ => 16

/-- Whether a type code is floating. -/
def isFloat (ty : Nat) : Bool := (floatFmt ty).isSome

/-- The range of an integer type (R229). -/
def intRange (ty : Nat) : Int × Int :=
  match ty with
  | 5 => (-128, 127)
  | 6 => (-8, 7)
  | 7 => (-1, 1)
  | 8 => (-(2 ^ 31), 2 ^ 31 - 1)
  | _ => (-32768, 32767)

/-- An integer as an exact value. -/
def numOfInt (x : Int) : Num := .fin (decide (x < 0)) x.natAbs 0 false

/-- Whether a floating code is NaN (R229). -/
def isNanCode (f : FloatFmt) (c : Nat) : Bool :=
  let e := c / 2 ^ f.frac % 2 ^ f.expo
  let m := c % 2 ^ f.frac
  f.hasNan && e == 2 ^ f.expo - 1 && (if f.hasInf then m != 0 else m == 2 ^ f.frac - 1)

/-- The value of a floating code (R229). -/
def decodeFloat (f : FloatFmt) (c : Nat) : Num :=
  let neg := c / 2 ^ (f.frac + f.expo) % 2 == 1
  let e := c / 2 ^ f.frac % 2 ^ f.expo
  let m := c % 2 ^ f.frac
  if isNanCode f c then .nan
  else if f.hasInf && e == 2 ^ f.expo - 1 then .inf neg
  else if e == 0 then .fin neg m (1 - f.bias - f.frac) false
  else .fin neg (2 ^ f.frac + m) ((e : Int) - f.bias - f.frac) false

/-- An element code of a type as its value (R229), with the flags that reading it raises: an illegal T2 code reads zero and raises ILC. -/
def decodeElem (ty : Nat) (c : Nat) : Num × BitVec 8 :=
  match floatFmt ty with
  | some f => (decodeFloat f c, 0#8)
  | none =>
    if ty == 7 then
      (numOfInt (if c == 1 then 1 else if c == 3 then -1 else 0), if c == 2 then flagILC else 0#8)
    else (numOfInt (BitVec.ofNat (typeBits ty) c).toInt, 0#8)

/-- Rounding modes (R231). -/
def modeRNE : Nat := 0
/-- Toward zero. -/
def modeRTZ : Nat := 1
/-- Toward +∞. -/
def modeRUP : Nat := 2
/-- Toward −∞. -/
def modeRDN : Nat := 3
/-- Nearest, ties away from zero. -/
def modeRNA : Nat := 4

/-- Whether the kept magnitude n is raised by one, given how the discarded part compares with half a unit: 0 nothing discarded, 1 below
half, 2 half, 3 above half (R231). -/
def roundsUp (mode : Nat) (neg : Bool) (n cmp : Nat) : Bool :=
  if cmp == 0 then false
  else if mode == modeRTZ then false
  else if mode == modeRUP then !neg
  else if mode == modeRDN then neg
  else if mode == modeRNA then decide (2 ≤ cmp)
  else decide (cmp = 3) || (cmp == 2 && n % 2 == 1)

/-- A magnitude mag × 2^exp in units of 2^q, rounded down, and how the discarded part compares with half a unit. -/
def quantum (mag : Nat) (exp : Int) (sticky : Bool) (q : Int) : Nat × Nat :=
  if q ≤ exp then (mag * 2 ^ (exp - q).toNat, if sticky then 1 else 0)
  else
    let sh := (q - exp).toNat
    let n := mag / 2 ^ sh
    let r := mag % 2 ^ sh
    let half := 2 ^ (sh - 1)
    (n, if r == 0 then (if sticky then 1 else 0) else if r < half then 1
        else if r == half then (if sticky then 3 else 2) else 3)

/-- The code of a canonical NaN (R230). -/
def nanCode (f : FloatFmt) : Nat :=
  if f.hasInf then (2 ^ f.expo - 1) * 2 ^ f.frac + 2 ^ (f.frac - 1) else 2 ^ (f.expo + f.frac) - 1

/-- The code of a signed zero. -/
def zeroCode (f : FloatFmt) (neg : Bool) : Nat := if neg then 2 ^ (f.frac + f.expo) else 0

/-- The code of ±∞. -/
def infCode (f : FloatFmt) (neg : Bool) : Nat := zeroCode f neg + (2 ^ f.expo - 1) * 2 ^ f.frac

/-- The code of a magnitude n × 2^q on the format's grid, at most M. -/
def gridCode (f : FloatFmt) (neg : Bool) (n : Nat) (q : Int) : Nat :=
  if n < 2 ^ f.frac then zeroCode f neg + n
  else
    let n' := if n < 2 ^ (f.frac + 1) then n else n / 2
    let q' := if n < 2 ^ (f.frac + 1) then q else q + 1
    zeroCode f neg + (q' + f.frac + f.bias).toNat * 2 ^ f.frac + (n' - 2 ^ f.frac)

/-- The code of ±M. -/
def maxCode (f : FloatFmt) (neg : Bool) : Nat := gridCode f neg f.maxMant f.maxExp

/-- Whether n × 2^q exceeds m × 2^r. -/
def exceeds (n : Nat) (q : Int) (m : Nat) (r : Int) : Bool :=
  if r ≤ q then decide (m < n * 2 ^ (q - r).toNat) else decide (m * 2 ^ (r - q).toNat < n)

/-- The result of a floating overflow (R232). -/
def overflowCode (f : FloatFmt) (mode : Nat) (neg : Bool) : Nat :=
  if !f.hasInf then maxCode f neg
  else if mode == modeRTZ || (mode == modeRUP && neg) || (mode == modeRDN && !neg) then maxCode f neg
  else infCode f neg

/-- rnd of a nonzero finite value to a floating format (R231). -/
def roundFinite (f : FloatFmt) (mode : Nat) (neg : Bool) (mag : Nat) (exp : Int) (sticky : Bool) : Nat × BitVec 8 :=
  let emin := 1 - f.bias
  let e := (Nat.log2 mag : Int) + exp
  let q := (if e < emin then emin else e) - f.frac
  let (n0, cmp) := quantum mag exp sticky q
  let n := if roundsUp mode neg n0 cmp then n0 + 1 else n0
  let inexact := cmp != 0
  if exceeds n q f.maxMant f.maxExp then (overflowCode f mode neg, flagOF ||| flagNX)
  else
    let tiny := q == emin - f.frac && decide (n < 2 ^ f.frac)
    (gridCode f neg n q, (if inexact then flagNX else 0#8) ||| (if inexact && tiny then flagUF else 0#8))

/-- rnd to a floating format (R231): the code and the flags. -/
def rndFloat (f : FloatFmt) (mode : Nat) (x : Num) : Nat × BitVec 8 :=
  match x with
  | .nan => if f.hasNan then (nanCode f, 0#8) else (0, flagNV)
  | .inf neg => if f.hasInf then (infCode f neg, 0#8) else (maxCode f neg, flagOF)
  | .fin neg mag exp sticky => if mag == 0 then (zeroCode f neg, 0#8) else roundFinite f mode neg mag exp sticky

/-- rnd to an integer range (R231): the value and the flags. -/
def rndInt (lo hi : Int) (mode : Nat) (x : Num) : Int × BitVec 8 :=
  match x with
  | .nan => (0, flagNV)
  | .inf neg => (if neg then lo else hi, flagSAT)
  | .fin neg mag exp sticky =>
    let (n0, cmp) := quantum mag exp sticky 0
    let n := if roundsUp mode neg n0 cmp then n0 + 1 else n0
    let y : Int := if neg then -(n : Int) else n
    if y < lo then (lo, flagSAT) else if hi < y then (hi, flagSAT) else (y, if cmp != 0 then flagNX else 0#8)

/-- rnd to an element type (R231): the code and the flags. -/
def rnd (ty mode : Nat) (x : Num) : Nat × BitVec 8 :=
  match floatFmt ty with
  | some f => rndFloat f mode x
  | none =>
    let r := rndInt (intRange ty).1 (intRange ty).2 mode x
    ((BitVec.ofInt (typeBits ty) r.1).toNat, r.2)

/-! ### Exact arithmetic -/

/-- A finite value as an integer count of 2^q, for q at most its exponent. -/
def scaled (neg : Bool) (mag : Nat) (exp q : Int) : Int :=
  let m : Int := mag * 2 ^ (exp - q).toNat
  if neg then -m else m

/-- The negative of a value. -/
def numNeg (x : Num) : Num :=
  match x with
  | .nan => .nan
  | .inf n => .inf (!n)
  | .fin n m e st => .fin (!n) m e st

/-- The magnitude of a value. -/
def numAbs (x : Num) : Num :=
  match x with
  | .nan => .nan
  | .inf _ => .inf false
  | .fin _ m e st => .fin false m e st

/-- The exact sum (R230): infinities of both signs are invalid; the sign of an exact zero follows the mode. -/
def numAdd (mode : Nat) (x y : Num) : Num × BitVec 8 :=
  match x, y with
  | .nan, _ => (.nan, 0#8)
  | _, .nan => (.nan, 0#8)
  | .inf a, .inf b => if a == b then (.inf a, 0#8) else (.nan, flagNV)
  | .inf a, _ => (.inf a, 0#8)
  | _, .inf b => (.inf b, 0#8)
  | .fin a m e _, .fin b n f _ =>
    let q := if e < f then e else f
    let t := scaled a m e q + scaled b n f q
    if t == 0 then (.fin (if m == 0 && n == 0 && a == b then a else mode == modeRDN) 0 q false, 0#8)
    else (.fin (decide (t < 0)) t.natAbs q false, 0#8)

/-- The exact product: zero times infinity is invalid. -/
def numMul (x y : Num) : Num × BitVec 8 :=
  match x, y with
  | .nan, _ => (.nan, 0#8)
  | _, .nan => (.nan, 0#8)
  | .inf a, .inf b => (.inf (a != b), 0#8)
  | .inf a, .fin b m _ _ => if m == 0 then (.nan, flagNV) else (.inf (a != b), 0#8)
  | .fin a m _ _, .inf b => if m == 0 then (.nan, flagNV) else (.inf (a != b), 0#8)
  | .fin a m e _, .fin b n f _ => (.fin (a != b) (m * n) (e + f) false, 0#8)

/-- x + y of two F32 codes rounded with RNE, as AMO FADD forms it (R201): no flags are kept. -/
def f32Add (x y : Nat) : Nat :=
  (rndFloat fmtF32 modeRNE (numAdd modeRNE (decodeFloat fmtF32 x) (decodeFloat fmtF32 y)).1).1

end Sys2Proof.Machine
end

