-- ==== Sys2Proof/Machine/Homes.lean ====
section
/-! DEFINITION. Writes on their way and at their homes: the write queue (R204), the order in which its entries are performed (R190,
R191), secure sectors (R176), full/empty words (R162 to R165), atomics (R200 to R203) and atomics parked on poison (R205). -/

namespace Sys2Proof.Machine

/-! ### Acquires -/

/-- Whether a strand has an acquire under way: an atomic or a load from a peer whose order makes its later accesses wait (R192). -/
def acquiring (s : State) (k i : Nat) : Bool :=
  let uid := (slotOf s k i).uid
  let is := fun (e : WEntry) => e.owned k i uid && (match e.op with | .atomic a => a.acq | _ => false)
  ((queueFor s k).any is) || (s.parked.any fun p => is p.entry)
    || ((s.fab.granary ++ s.fab.waiting).any fun g => !g.answered && (match g.pending with
        | .atomic e => is e
        | .load c j u _ _ acq _ => acq && c == k && j == i && u == uid
        | _ => false))

/-! ### Departure -/

/-- Until when MEM.STOREHOLD holds a write of a cluster's cores, fixed as it leaves commit (R184, R353). -/
def holdUntil (s : State) (k : Nat) : Nat :=
  let h := (clusterOf s (clusterOfKey k)).storehold.toNat
  if isCore k && bitsOf h 16 16 == 1 then s.uncore + bitsOf h 15 0 else 0

/-- Whether two relaxed REDs merge (R204): same address, size and op among the six, and for min and max the same signedness. A RED returns
nothing; an AMO or CAS, which has a write-back even to $zero, never merges. -/
def mergeable (a b : AtomicReq) : Bool :=
  a.addr == b.addr && a.bytes == b.bytes && a.op == b.op && decide (a.op ≤ 5) && !a.cas && !b.cas && a.dest == 0 && b.dest == 0
    && !a.rel && !b.rel && (decide (a.op < 4) || a.signed == b.signed)

/-- The smaller or the larger of two numbers. -/
def pick (wantMin : Bool) (x y : Int) : Int := if wantMin then min x y else max x y

/-- The exact value of an atomic's operand (R201, R203): val(C) or val(A), which is not cut to the word's size. -/
def AtomicReq.exact (a : AtomicReq) (y : Word) : Int := readAs 64 a.signed y.toNat

/-- Whether an operand of min lies below, or of max above, every value of an n-byte word: the result is then the operand itself, cut to the
word's size. -/
def AtomicReq.beyond (a : AtomicReq) (y : Int) : Bool :=
  if a.op == 4 then decide (y < lowest (8 * a.bytes) a.signed) else decide (highest (8 * a.bytes) a.signed < y)

/-- One operand with the effect of two REDs of min or max in sequence (R204). Past a first operand beyond the word's range the word holds
that operand cut to size, so that the pair stores one constant: an operand beyond the range that is cut to it. -/
def mergePick (a : AtomicReq) (x y : Int) : Int :=
  let m : Int := 2 ^ (8 * a.bytes)
  if a.beyond y then y
  else if a.beyond x then pick (a.op == 4) (wrapTo x (8 * a.bytes) a.signed) y + (if a.op == 4 then -m else m)
  else pick (a.op == 4) x y

/-- One operand with the effect of two REDs in sequence (R204): op 0 add, 1 and, 2 or, 3 xor, 4 min, 5 max. -/
def mergeOperand (a : AtomicReq) (y : Word) : Word :=
  if a.op == 0 then a.operand + y
  else if a.op == 1 then a.operand &&& y
  else if a.op == 2 then a.operand ||| y
  else if a.op == 3 then a.operand ^^^ y
  else wordOf (mergePick a (a.exact a.operand) (a.exact y))

/-- Whether a full/empty write of a quad to a word is still to be performed. An atomic to the word may stand behind it in its strand's order (R190),
so that no RED is merged there: the merged entry would make one strand's RED wait for another's full/empty write (log entry 115). -/
def feAtWord (s : State) (k a : Nat) : Bool :=
  ((queueFor s k).any fun e => e.op.isFe && e.op.touches a 1)
    || s.quads.any fun q => q.2.feWaits.any fun w => w.op.writes && queueKey w.core == queueKey k && sameWords w.addr 8 a 1

/-- The queue with a relaxed RED merged into the last entry that touches its word, if that is one it merges with (R204); the merged entry is
held as long as either (R353). -/
def mergeInto (q : List WEntry) (e : WEntry) (r : AtomicReq) : Option (List WEntry) :=
  match indexWhere (fun x : WEntry => x.op.touches r.addr r.bytes) q.reverse with
  | none => none
  | some j =>
    let n := q.length - 1 - j
    match q[n]? with
    | none => none
    | some x =>
      match x.op with
      | .atomic a =>
        if mergeable a r then
          some (q.set n { x with op := .atomic { a with operand := mergeOperand a r.operand }, holdTo := max x.holdTo e.holdTo,
                                 mates := (e.core, e.slot, e.uid) :: x.mates, queues := e.queues ++ x.queues })
        else none
      | _ => none

/-- The host queue whose launch a slot works for, if any (R103). -/
def workQueue (s : State) (k i : Nat) : List Nat :=
  let x := slotOf s k i
  match x.launch.bind (tfind s.launches) with
  | some l => [l.queue]
  | none => x.owner.toList

/-- A store, full/empty write or atomic leaves at commit into its unit's write queue (R204); a full queue passes the slot over. `held` says
whether MEM.STOREHOLD holds it (R353). -/
def emitWrite (o : WOp) (va : Word) (rel held : Bool) (s : State) : Ans Unit :=
  let k := s.cur.core
  let q := queueKey k
  let e : WEntry :=
    { serial := s.serial, op := o, core := k, slot := s.cur.slot, uid := (curSlot s).uid, va := va, holdTo := if held then holdUntil s k else 0,
      rel := rel, queues := workQueue s k s.cur.slot, burst := (curSlot s).burst,
      after := if rel then releaseSet s k s.cur.slot (curSlot s).uid else [] }
  let wq := (quadOf s q).wq
  let merged := match o with | .atomic r => if feAtWord s k r.addr then none else mergeInto wq e r | _ => none
  match merged with
  | some l => .ok () (modQuad s q fun x => { x with wq := l })
  | none =>
    if 32 ≤ wq.length then .hold
    else .ok () { modQuad s q (fun x => { x with wq := x.wq ++ [e] }) with serial := s.serial + 1 }

/-- An access of a peer device or the host joins the queue of its kind. -/
def emitOutside (s : State) (o : WOp) (peer : Option (Nat × BitVec 32)) : State :=
  let e : WEntry := { serial := s.serial, op := o, core := 0, slot := 0, uid := 0, va := 0#64, outside := true, peer := peer }
  { modQuad s outsideQueue (fun x => { x with wq := x.wq ++ [e] }) with serial := s.serial + 1 }

/-- Whether a strand has an entry in its core's outbound buffer: a message or COPY that no inbox has accepted (R198). -/
def unsent (s : State) (k i : Nat) : Bool := (coreOf s k).outbuf.any fun e => e.slot == i && e.uid == (slotOf s k i).uid

/-- Whether what a release or fence of a scope waits for is still to come (R163, R191, R197, R198): the strand's full/empty writes at every
scope; other writes at scopes beyond the quad's, within which the write queue itself makes them visible; and for FENCE.X, for which scope
6 stands, its messages. -/
def drainBusy (s : State) (k i scope bound : Nat) : Bool :=
  let uid := (slotOf s k i).uid
  feLeft s k i uid bound || (decide (2 < scope) && (unperformed s k i uid bound || (scope == 6 && unsent s k i)))

/-- Wait until what a release or fence waits for has been performed. The bound is kept while the strand waits, so later writes do not
lengthen the wait. -/
def awaitDrained (scope : Nat) (s : State) : Ans Unit :=
  let bound := (curSlot s).fenced.getD s.serial
  if drainBusy s s.cur.core s.cur.slot scope bound then
    .waitIn (.drained scope) (modCur s fun y => { y with fenced := some bound })
  else .ok () s

/-- Wait until every read of the strand has returned (R197). -/
def awaitLoads (s : State) : Ans Unit :=
  if readsOut s s.cur.core s.cur.slot then .waitIn .loads s else .ok () s

/-! ### Sectors -/

/-- Whether a secure sector fails its tag or its data is uncorrectable (R176). -/
def sectorFails (s : State) (pa : Nat) : Bool :=
  inSector s pa && (s.mediaBad.contains (sectorOf pa) || s.tagBad.contains (sectorOf pa))

/-- Whether a read of a range of memory meets an error (R173, R176). -/
def rangeFaulty (s : State) (a n : Nat) : Bool := (wordsOf a n).any fun w => s.poison.contains w || sectorFails s w

/-- The failing sectors that a store touches. -/
def failingSectors (s : State) (bs : List MByte) : List Nat :=
  bs.foldl (fun l b => if sectorFails s b.addr then sput l (sectorOf b.addr) else l) []

/-- Whether a store's bytes cover a sector. -/
def coversSector (bs : List MByte) (sec : Nat) : Bool :=
  (List.range 64).all fun i => coversWord bs (sec + 8 * i)

/-- A sector made good by a whole write (R176). -/
def clearSector (s : State) (sec : Nat) : State := { s with tagBad := sdel s.tagBad sec, mediaBad := sdel s.mediaBad sec }

/-- A write of less than a failing sector refused: logged, and its acknowledgement carries the error (R176). -/
def refuseSector (s : State) (e : WEntry) (sec : Nat) : State :=
  let s1 := (sectorRead s sec).2
  match e.peer with
  | some (d, q) => reply s1 d q 2 0x0E []
  | none => failWrite s1 e 0x0E

/-! ### Atomics at their home -/

/-- The home of an address, as a number (R188, R219): its channel group, port, channel, or the CXL.cache agent. -/
def homeOf (pa : Nat) : Nat :=
  if inSram pa then 4 * sramCluster pa + bitsOf pa 9 8
  else if inQuads pa then 1000 + quadOfPa pa
  else if inGddr pa then 3000 + gddrChannel pa
  else if inHost pa then 4000
  else 5000 + portKey pa

/-- The cluster whose supervisor hears of an address; for host memory cluster 0 (log entry 14). -/
def homeCluster (pa : Nat) : Nat :=
  if inDevice pa then logCluster pa else if inHost pa then 0 else clusterOfKey (portKey pa - 2048)

/-- The word that an atomic leaves (R201, R202); none for a CAS that fails. -/
def atomicNew (a : AtomicReq) (old : Nat) : Option Nat :=
  let m := 2 ^ (8 * a.bytes)
  let y := a.operand.toNat % m
  let least := fun (wantMin : Bool) => ((pick wantMin (readAs (8 * a.bytes) a.signed old) (a.exact a.operand)) % (m : Int)).toNat
  if a.cas then (if old == y then some (a.newVal.toNat % m) else none)
  else if a.op == 0 then some ((old + y) % m)
  else if a.op == 1 then some (old &&& y)
  else if a.op == 2 then some (old ||| y)
  else if a.op == 3 then some (old ^^^ y)
  else if a.op == 4 then some (least true)
  else if a.op == 5 then some (least false)
  else if a.op == 6 then some y
  else some (f32Add old y)

/-- The answer of an access that a strand or a peer waits for. -/
def answerAtomic (s : State) (e : WEntry) (a : AtomicReq) (old : Nat) : State :=
  match e.peer with
  | some (d, q) => reply s d q 0 0 (toBytes a.bytes old)
  | none => answerWb s e.core a.dest (8 * a.bytes) old none

/-- An atomic performed at a home of this device as one indivisible read and write (R200). -/
def atomicAt (s : State) (e : WEntry) (a : AtomicReq) : State :=
  let old := ofBytes (memBytes s.mem a.addr a.bytes)
  let s1 := match atomicNew a old with
    | some v => performStore s (storeBytes a.addr a.bytes v) false
    | none => s
  answerAtomic s1 e a old

/-- Whether an atomic meets a word that parks it (R205). -/
def meetsPoison (s : State) (pa : Nat) : Bool := s.poison.contains (pa / 8 * 8) || sectorFails s pa

/-- Every parked atomic whose word is good again performed, in arrival order, once (R205); one whose word its channel delivers poisoned stays
parked (R174, R356). -/
def replayParked (s : State) : State :=
  s.parked.foldl (fun t p =>
    match p.entry.op with
    | .atomic a =>
      if meetsPoison t a.addr then { t with parked := t.parked ++ [p] }
      else
        let (bad, u) := transfers t a.addr a.bytes
        if bad then { u with poison := sput u.poison (a.addr / 8 * 8), parked := u.parked ++ [p] } else atomicAt u p.entry a
    | _ => t) { s with parked := [] }

/-- Slot 15 of a cluster's supervisor core. -/
def supervisorOf (s : State) (c : Nat) : Agent := mkAgent 15 s.dev.num c 64

/-- A message to the supervisor of a cluster that hardware or the management core makes; its first word is a handler that firmware names. -/
def tellSupervisor (s : State) (c : Nat) (sender : Agent) (words : List Word) (strand : Option (Nat × Nat × Nat)) : State :=
  { s with hwMsgs := s.hwMsgs ++
      [{ msg := { core := 0, serial := 0, target := supervisorOf s c, sender := sender, launch := none, words := words }, strand := strand }] }

/-- An atomic reaches its home (R205): performed, or parked on poison, also on data that its channel delivers poisoned (R174); the answer
says whether the fault queue turned it away. -/
def atomicArrives (s : State) (e : WEntry) (a : AtomicReq) : State × Bool :=
  let (bad, s0) := transfers s a.addr a.bytes
  let s1 := scrubWord (if bad then { s0 with poison := sput s0.poison (a.addr / 8 * 8) } else s0) (a.addr / 8 * 8)
  if meetsPoison s1 a.addr then
    let s2 := (sectorRead s1 a.addr).2
    if (s.parked.filter fun p => p.home == homeOf a.addr).length < 16 then
      (tellSupervisor { s2 with parked := s2.parked ++ [⟨e, homeOf a.addr⟩] } (homeCluster a.addr) (supervisorOf s (homeCluster a.addr))
        [s.dev.fwRequest, BitVec.ofNat 64 a.addr] none, false)
    else (s1, true)
  else (atomicAt s1 e a, false)

/-! ### Full/empty words -/

/-- The full/empty bit that an operation leaves. -/
def feBit (op : FeOp) (full : Bool) : Bool :=
  match op with
  | .ldfe | .feempty => false
  | .stfe | .fefull => true
  | .ldff | .stff | .festate => full

/-- An operation performed at the port (R160, R162): the state, the value read, and whether the word was poisoned. -/
def feAct (s : State) (op : FeOp) (addr : Nat) (val : Word) : State × Nat × Bool :=
  let s1 := scrubWord s addr
  let full := s.full.contains addr
  if inInbox addr then
    (s1, if op == .festate then 0 else (memWord s1.mem addr).toNat, s1.poison.contains addr && op != .festate)
  else
    let s2 := match op with
      | .stfe | .stff | .fefull => performStore s (storeBytes addr 8 val.toNat) false
      | .festate => s
      | _ => s1
    let r := if op == .festate then (if full then 1 else 0) else (memWord s1.mem addr).toNat
    ({ s2 with full := if feBit op full then sput s2.full addr else sdel s2.full addr }, r,
      s1.poison.contains addr && (op == .ldfe || op == .ldff || op == .feempty))

/-- What a read of poisoned data gives a unit's name: a core's receives 0 and its strand a pending error; a streamer's receives the data
and a mark (R177, R222). -/
def consumed (k : Nat) (poison : Bool) (v : Nat) (addr : Word) : Nat × Option (Nat × Word) × Bool :=
  if !poison then (v, none, false)
  else if isStreamer k then (v, none, true)
  else (0, some (0x0E, addr), false)

/-- A reading operation performed at the port for a strand, which reads the word as its quad's queue shows it (R188, R189, R197). -/
def feTake (s : State) (op : FeOp) (addr k i : Nat) : State × Nat × Bool :=
  let r := feAct s op addr 0#64
  if op == .festate || !((shownTo s k i).any fun e => e.op.touches addr 8) then r
  else (r.1, ofBytes (seenBytes r.1 k i addr 8), seenPoison r.1 k i addr 8)

/-- A waiting FEOP performed: a reader gets its value and goes on (R163). -/
def feServe (s : State) (w : FeWait) : State :=
  let (s1, v, bad) := if w.op.writes then feAct s w.op w.addr w.val else feTake s w.op w.addr w.core w.slot
  match w.op with
  | .ldfe | .ldff =>
    let (u, err, mark) := consumed w.core bad v (BitVec.ofNat 64 w.addr)
    let s2 := answerWb s1 w.core w.serial 64 u err mark
    let x := slotOf s2 w.core w.slot
    if x.status == .parked (.fullEmpty w.serial) && x.uid == w.uid then finishWait s2 w.core w.slot else s2
  | _ => s1

/-- Whether a held request may take effect as far as releases go: a writing FEOP releases, so that it waits until what its strand and its
quad's queue wrote before it has been performed (R191, R193). -/
def feMayGo (s : State) (w : FeWait) : Bool :=
  match w.op with
  | .stfe | .stff | .fefull => !(anyLeft s w.core w.after)
  | _ => true

/-- The waiters on a word examined in arrival order until one's condition does not hold (R164). -/
def feWake (n : Nat) (s : State) (addr : Nat) : State :=
  match n with
  | 0 => s
  | m + 1 =>
    let q := portKey addr
    match indexWhere (fun w : FeWait => w.addr == addr) (quadOf s q).feWaits with
    | none => s
    | some j =>
      match (quadOf s q).feWaits[j]? with
      | none => s
      | some w =>
        if feReady s w.op addr && feMayGo s w then
          feWake m (feServe (modQuad s q fun x => { x with feWaits := dropAt x.feWaits j }) w) addr
        else s

/-- The waiters woken after an access, if it changed the word's bit (R164). -/
def feChanged (s t : State) (addr : Nat) : State :=
  if s.full.contains addr == t.full.contains addr then t
  else feWake ((quadOf t (portKey addr)).feWaits.length) t addr

/-- Whether a port's list has room for a request (R163): 64 from its own cores, 32 from others. -/
def feRoom (s : State) (w : FeWait) : Bool :=
  let l := (quadOf s (portKey w.addr)).feWaits.filter fun v => v.local' == w.local'
  decide (l.length < (if w.local' then 64 else 32))

/-- A FEOP that reaches its port and whose condition holds is performed there; otherwise it is held, or told to retry (R163): the
answer says whether it was told so. -/
def feArrives (s : State) (w : FeWait) : State × Bool :=
  if feReady s w.op w.addr then (feChanged s (feServe s w) w.addr, false)
  else if feRoom s w then (modQuad s (portKey w.addr) fun x => { x with feWaits := x.feWaits ++ [w] }, false)
  else (s, true)

/-! ### Performing an entry -/

/-- Whether two writes touch a common word. -/
def WOp.overlaps (o p : WOp) : Bool :=
  match p with
  | .store bs _ => bs.any fun b => o.touches b.addr 1
  | _ => o.touches p.span.1 p.span.2

/-- Whether a write repairs the word on which an atomic is parked (R205): a supervisor's store of the whole word, or for a secure sector a
streamer's write, which the channel controller gathers into one of the whole sector (R176). -/
def repairs (s : State) (e : WEntry) (p : Parked) : Bool :=
  let w := p.entry.op.span.1 / 8 * 8
  if inSector s w then isStreamer e.core && !e.outside && e.op.isStore
  else isSupervisor e.core && !e.outside && (match e.op with | .store bs _ => coversWord bs w | _ => false)

/-- Whether a parked atomic blocks an entry (R205): later accesses to its word wait behind it, but for the write that repairs the word. -/
def entryBlocked (s : State) (e : WEntry) : Bool :=
  s.parked.any fun p => p.entry.op.overlaps e.op && !(repairs s e p)

/-- Whether the interface takes an entry for a peer now (R337): while it does not, the entry stays in the write queue (R204). -/
def peerTakes (s : State) (o : WOp) : Bool :=
  let (a, n) := o.span
  if inPeer a then
    let size := match o with | .store bs _ => (payWrite 0 ((bs.take 512).map (·.val))).length | _ => 32
    takesNow s (peerDev a) size ((n + 511) / 512)
  else true

/-- Whether two entries have a strand in common (R204). -/
def WEntry.shares (x e : WEntry) : Bool :=
  (x.outside && e.outside) || ((x.core, x.slot, x.uid) :: x.mates).any fun m => e.owned m.1 m.2.1 m.2.2

/-- Whether the entry at a position of a queue may leave it now (R163, R188, R190, R191, R337): it is not held, nothing before it in the queue
that it does not pass by, and no held full/empty write of its strand, or of one whose RED it has taken in, touches its words, no parked atomic blocks it, and a release has nothing left to wait for; a
full/empty write that will be held at the port, behind those of its strand, may go there. -/
def canPerform (s : State) (q idx : Nat) : Bool :=
  match (quadOf s q).wq[idx]? with
  | none => false
  | some e =>
    decide (e.holdTo ≤ s.uncore)
      && !(((quadOf s q).wq.take idx).any fun x => x.op.overlaps e.op && (x.shares e || !(x.passed s)))
      && !(s.quads.any fun p => p.2.feWaits.any fun w =>
            e.owned w.core w.slot w.uid && w.op.writes
              && !(e.op.isFe) && e.op.touches w.addr 8)
      && !(entryBlocked s e)
      && (!e.rel || !(anyLeft s e.core e.after) || joinsList s e.op)
      && peerTakes s e.op

/-- A streamer's run of writes to a failing sector that ended before it covered the sector is refused (R176). -/
def flushRun (s : State) (r : SectorRun) : State :=
  refuseSector { s with runs := s.runs.filter fun x => x != r } r.entry r.sector

/-- The parts of a run written as one whole-sector write, and what it repairs (R176, R205). -/
def writeSector (s : State) (r : SectorRun) : State :=
  let s1 := clearSector { s with runs := s.runs.filter fun x => x.entry.serial != r.entry.serial } r.sector
  replayParked (r.parts.foldl (fun t p => performStore t p.1 p.2) s1)

/-- The first byte that a run has not covered, and the address of its last write. -/
def SectorRun.reach (r : SectorRun) : Nat × Nat :=
  match r.parts.getLast? with
  | some (b :: bs, _) => (b.addr + bs.length + 1, b.addr)
  | _ => (r.sector, r.sector)

/-- Whether a write goes on with a run (R176): one of the same burst that rises from the last write and leaves no gap. -/
def SectorRun.takes (r : SectorRun) (e : WEntry) : Bool :=
  let a := e.op.span.1
  r.entry.core == e.core && r.entry.slot == e.slot && r.entry.uid == e.uid && r.entry.burst == e.burst && !e.outside
    && r.sector == sectorOf a && decide (r.reach.2 < a) && decide (a ≤ r.reach.1)

/-- The runs that a write ends: those whose sector it touches and which it does not go on with (R176). -/
def endRuns (s : State) (e : WEntry) (bs : List MByte) : State :=
  (s.runs.filter fun r => (bs.any fun b => sectorOf b.addr == r.sector) && !(r.takes e)).foldl flushRun s

/-- A streamer's write to a failing sector (R176): it begins a run, goes on with one, or is refused. -/
def gatherWrite (s : State) (e : WEntry) (bs : List MByte) (poison : Bool) (sec : Nat) : State :=
  let whole := bs.all fun b => b.mask == 0xFF#8
  match s.runs.find? fun r => r.takes e with
  | some r =>
    if whole then
      let r1 := { r with parts := r.parts ++ [(bs, poison)] }
      if sec + 512 ≤ r1.reach.1 then writeSector s r1
      else { s with runs := s.runs.map fun x => if x.entry.serial == r.entry.serial then r1 else x }
    else refuseSector (flushRun s r) e sec
  | none => if e.op.span.1 == sec && whole then { s with runs := s.runs ++ [⟨e, sec, [(bs, poison)]⟩] } else refuseSector s e sec

/-- Whether a run can grow no more: its burst is over, and no write of the burst is still queued. -/
def runOver (s : State) (r : SectorRun) : Bool :=
  let x := slotOf s r.entry.core r.entry.slot
  let stopped := match x.status with | .stopped _ | .free => true | _ => false
  (x.uid != r.entry.uid || x.burst != r.entry.burst || stopped)
    && !((queueFor s r.entry.core).any fun e => e.uid == r.entry.uid && e.slot == r.entry.slot && e.burst == r.entry.burst)

/-- The secure sectors that a store touches in part, read before they are merged (R173, R176). -/
def readSectors (s : State) (bs : List MByte) : State :=
  (storeWords bs).foldl (fun t w => if inSector t w && !(coversSector bs (sectorOf w)) then scrubWord t w else t) s

/-- A store reaches its home (R176, R188): good parts are written; what falls short of a failing sector is refused, but for a
streamer's run, and for a whole sector from outside the device. -/
def storeArrives (s : State) (e : WEntry) (bs : List MByte) (poison : Bool) : State :=
  let s := readSectors (endRuns s e bs) bs
  match failingSectors s bs with
  | [] =>
    let s1 := performStore s bs poison
    replayParked (match e.peer with | some (d, q) => reply s1 d q 0 0 [] | none => s1)
  | secs =>
    if isStreamer e.core && !e.outside then gatherWrite s e bs poison (sectorOf e.op.span.1)
    else if e.outside && secs.all (coversSector bs) then
      let s1 := performStore (secs.foldl clearSector s) bs poison
      replayParked (match e.peer with | some (d, q) => reply s1 d q 0 0 [] | none => s1)
    else
      let good := bs.filter fun b => !(sectorFails s b.addr)
      (secs.foldl (fun t sec => refuseSector t e sec) (performStore s good poison))

/-- The bytes of a store to a peer sent in WRITE packets of at most 512 data bytes (R334). -/
def sendStore (n : Nat) (s : State) (e : WEntry) (bs : List MByte) (poison : Bool) : State :=
  match n, bs with
  | m + 1, b :: _ =>
    let part := bs.take 512
    let s1 := sendPacket s (peerDev b.addr) 0 0x02 (payWrite (peerOff b.addr) (part.map (·.val))) (.store e) poison
    sendStore m s1 e (bs.drop 512) poison
  | _, _ => s

/-- What the host reads at a byte of GDDR 7: all ones in a secure region (R303); its own earlier writes in a queue are seen. -/
def hostByte (s : State) (q : List WEntry) (a : Nat) : Byte := if inSecure s a then 255#8 else (forwarded s q a).1

/-- The words of a host read outside the secure regions read from their arrays (R173). -/
def hostReads (s : State) (a n : Nat) : State := (wordsOf a n).foldl (fun t w => if inSecure t w then t else scrubWord t w) s

/-- Whether a host read brings poisoned data (R173). -/
def hostMarked (s : State) (q : List WEntry) (a n : Nat) : Bool := (List.range n).any fun i => !(inSecure s (a + i)) && (forwarded s q (a + i)).2

/-- A read of the host performed (R303, R307), with its earlier writes that are still in a queue. -/
def hostTake (s : State) (q : List WEntry) (a n : Nat) : State :=
  let t := hostReads s a n
  modDev t fun d => { d with hostData := (List.range n).map fun i => hostByte t q (a + i), hostPoison := hostMarked t q a n }

/-- The entry at a position performed at its home, or sent to the device that holds its home; an entry that its home tells to retry
goes back and is re-sent after 64 uncore cycles (R163, R205). -/
def performAt (s : State) (q idx : Nat) : State :=
  match (quadOf s q).wq[idx]? with
  | none => s
  | some e =>
    let s1 := modQuad s q fun x => { x with wq := dropAt x.wq idx }
    let again := fun (t : State) => modQuad t q fun x => { x with wq := x.wq.set idx { e with holdTo := s.uncore + 64 } }
    match e.op with
    | .store bs p => if inPeer e.op.span.1 then sendStore (bs.length + 1) s1 e bs p else storeArrives s1 e bs p
    | .fe op a v =>
      let w : FeWait := { op := op, addr := a, val := v, core := e.core, slot := e.slot, uid := e.uid,
                          local' := queueKey e.core == portKey a, serial := e.serial, queues := e.queues, after := e.after }
      match feArrives s1 w with
      | (t, false) => t
      | (_, true) => again s
    | .atomic a =>
      if inPeer a.addr then sendPacket s1 (peerDev a.addr) 0 0x03 (payAtomic (peerOff a.addr) a) (.atomic e) a.signed
      else
        match atomicArrives s1 e a with
        | (t, false) => t
        | (t, true) => again { t with quads := s.quads }
    | .read a n =>
      match e.peer with
      | none => hostTake s1 [] a n
      | some (d, sq) =>
        let (bad, s3) := memoryRead s1 a n
        let poison := bad || (wordsOf a n).any fun w => s3.poison.contains w
        if poison then reply s3 d sq 2 0x0E (memBytes s3.mem a n) else reply s3 d sq 0 0 (memBytes s3.mem a n)

/-- The entry at a position performed if it may be, and if it is of the kind wanted; a transfer under retry holds it up (R356). -/
def performIf (want : WOp → Bool) (q idx : Nat) (s : State) : State :=
  match (quadOf s q).wq[idx]? with
  | none => s
  | some e => if want e.op && canPerform s q idx then unlessHeld s (performAt s q idx) else s

/-- Whether a held writing FEOP, the first waiter on its word, may be performed now (R164, R191). -/
def heldGoes (s : State) (q j : Nat) : Bool :=
  match (quadOf s q).feWaits[j]? with
  | none => false
  | some w =>
    w.op.writes && feReady s w.op w.addr && feMayGo s w
      && !(((quadOf s q).feWaits.take j).any fun v => v.addr == w.addr)

/-- STORE_PERFORMED: a store, full/empty write or outside read of a write queue is performed at its home (R188). Positions past the queue are
those of the port's list: a held writing FEOP is performed there (R163, R164); past these, those of the streamers' runs: one that its burst left
short of its sector is refused (R176). -/
def execStorePerformed (quad idx : Nat) (s : State) : Host.Outcome State Fault Refusal :=
  let n := (quadOf s quad).wq.length
  if idx < n then .next (performIf (fun o => match o with | .atomic _ => false | _ => true) quad idx s)
  else
    match (quadOf s quad).feWaits[idx - n]? with
    | none =>
      match s.runs[idx - n - (quadOf s quad).feWaits.length]? with
      | none => .next s
      | some r => .next (if runOver s r then flushRun s r else s)
    | some w => .next (if heldGoes s quad (idx - n) then feWake (quadOf s quad).feWaits.length s w.addr else s)

/-- ATOMIC_PERFORM: an atomic is performed at its home, or parks there (R200, R205). -/
def execAtomicPerform (quad idx : Nat) (s : State) : Host.Outcome State Fault Refusal :=
  .next (performIf (fun o => match o with | .atomic _ => true | _ => false) quad idx s)

/-- FAULT_QUEUE_RETRY: an atomic that found its home's fault queue full is sent again (R205). -/
def execFaultQueueRetry (quad idx : Nat) (s : State) : Host.Outcome State Fault Refusal :=
  .next (performIf (fun o => match o with | .atomic _ => true | _ => false) quad idx s)

/-- FEOP_RETRY: a reading FEOP that found its list full is sent again after 64 uncore cycles (R163). -/
def execFeopRetry (core slot : Nat) (s : State) : Host.Outcome State Fault Refusal :=
  let mine := fun (w : FeWait) => w.core == core && w.slot == slot && decide (w.due ≤ s.uncore)
  match s.quads.find? fun q => q.2.feRetry.any mine with
  | none => .next s
  | some (q, x) =>
    match x.feRetry.find? mine with
    | none => .next s
    | some w =>
      let s1 := modQuad s q fun y => { y with feRetry := y.feRetry.filter fun v => !(mine v) }
      match feArrives s1 w with
      | (t, false) => .next t
      | (_, true) => .next (modQuad s1 q fun y => { y with feRetry := y.feRetry ++ [{ w with due := s.uncore + 64 }] })

end Sys2Proof.Machine
end

