-- ==== Sys2Proof/Machine/Lanes.lean ====
section
/-! DEFINITION. The loads that wait for the retries of their vertical channel, each attempt and swap in its cycle (R174, R356 to R358). -/

namespace Sys2Proof.Machine

/-- The beat that a load of a streamer's strand has had brought serves the loads of its burst that follow from the same 32 bytes (R222, R356). -/
def holdBeat (s : State) (k i block : Nat) (poison : Bool) : State :=
  if isStreamer k then modSlot s k i fun x => { x with beat := some (x.burst, block, poison) } else s

/-- The data of a transfer delivered to the write-back that waits for it, or its block to the step that does. -/
def deliverBeat (s : State) (c : Nat) (b : Beat) (poison : Bool) : State :=
  if b.wb == 0 then modCluster s c fun x => { x with brought := x.brought ++ [(b.block, poison)] }
  else
    let (v, err, mark) := consumed b.core (b.poison || poison) b.val b.va
    let s1 := match (coreOf s b.core).wbs.find? fun w => w.serial == b.wb with
      | some w => holdBeat s b.core w.slot b.block poison
      | none => s
    answerWb s1 b.core b.wb b.bits v err mark

/-- The transfers of a cluster with the first of a channel replaced or removed. -/
def setBeat (s : State) (c : Nat) (b : Beat) (new : Option Beat) : State :=
  modCluster s c fun x =>
    { x with beats := match indexWhere (fun y : Beat => y == b) x.beats with
        | none => x.beats
        | some j => match new with | none => dropAt x.beats j | some n => x.beats.set j n }

/-- VBUS_RETRY_ATTEMPT: the next attempt of a transfer whose beat failed parity (R174, R356). -/
def execVbusRetryAttempt (cluster channel : Nat) (s : State) : Host.Outcome State Fault Refusal :=
  match (clusterOf s cluster).beats.find? fun b => b.chan == channel && b.swapAt.isNone && decide (b.due ≤ s.uncore) with
  | none => .next s
  | some b =>
    match attempt s s.uncore cluster b with
    | (t, .passed) => .next (deliverBeat (setBeat t cluster b none) cluster b false)
    | (t, .poisoned) => .next (deliverBeat (setBeat t cluster b none) cluster b true)
    | (t, .again b1) => .next (setBeat t cluster b (some b1))

/-- LANE_SWAP: the lane of a third charge is swapped for the lowest unused spare, or found to have none left (R174, R175, R182). The next
attempt follows two cycles later (R356). -/
def execLaneSwap (cluster channel lane : Nat) (s : State) : Host.Outcome State Fault Refusal :=
  let due := fun (b : Beat) => b.chan == channel && b.lane == some lane
    && (match b.swapAt with | some t => decide (t ≤ s.uncore) | none => false)
  match (clusterOf s cluster).beats.find? due with
  | none => .next s
  | some b =>
    .next (swapLane (setBeat s cluster b (some { b with swapAt := none, due := s.uncore + 2 })) s.uncore cluster channel lane)

/-- The beat that a strand of a streamer has already had brought within its burst for an address: whether it came poisoned (R222, R356). -/
def heldBeat (s : State) (pa : Nat) : Option Bool :=
  match (curSlot s).beat with
  | some (n, p, bad) => if n == (curSlot s).burst && p == pa / 32 * 32 then some bad else none
  | none => none

/-- A load of a strand from stacked SRAM begins its first attempt (R174): whether its data has come, then whether it came poisoned, and else the
transfer goes on under retry. A streamer's burst has one transfer for the words of each 32 bytes (R222, R356). -/
def firstBeat (s : State) (pa bits v : Nat) (poison : Bool) (va : Word) (wb : Nat) : State × Option Bool :=
  if inSram pa then
    match heldBeat s pa with
    | some bad => (s, some bad)
    | none =>
      let c := sramCluster pa
      let b : Beat := { chan := sramChannel pa, core := s.cur.core, wb := wb, bits := bits, val := v, poison := poison, va := va, block := pa / 32 * 32 }
      match attempt s s.uncore c b with
      | (t, .again b1) => (modCluster t c fun x => { x with beats := x.beats ++ [b1] }, none)
      | (t, _) => (holdBeat t s.cur.core s.cur.slot b.block false, some false)
  else (s, some false)

end Sys2Proof.Machine
end

