-- ==== Sys2Proof/Machine/Memory.lean ====
section
/-! DEFINITION. The memory class: window and global accesses (R155 to R166) and full/empty operations (R162 to R165). -/

namespace Sys2Proof.Machine

/-! ### Loads -/

/-- The value of a load on its way to a name (R67, R159, R177): a write-back that has been answered. An error that $zero receives is
recorded at once. -/
def loadTo (a : Name) (bits v : Nat) (bad : Bool) (addr : Word) (s : State) : Ans Unit :=
  (deferWrite a none none false s).bind fun serial t =>
    let k := t.cur.core
    let (u, err, mark) := consumed k bad v addr
    match serial, err with
    | 0, some (c, x) => .ok () (recordErrAt t k t.cur.slot (curSlot t).uid c x)
    | _, _ => .ok () (answerWb t k serial bits u err mark)

/-- The address that a pending error of a window access carries: the physical address of the word (R177). -/
def wordAddr (a : Nat) : Word := BitVec.ofNat 64 (a / 8 * 8)

/-- An access size of n bytes from its code (R35). -/
def sizeOf' (size : BitVec 2) : Nat := 2 ^ size.toNat

/-- LDQ's body (R158, R159). -/
def ldqBody (a b c : Name) (size : BitVec 2) (disp : BitVec 14) (s : State) : Ans Unit :=
  (readWindow b true s).bind fun w s => (readName c s).bind fun o s =>
    let n := sizeOf' size
    if winKind w == 1 then loadTo a 64 0 false 0#64 s
    else
      let p := winAddr s.cur.core w (o + disp.toInt) n
      (readBytes p n s).bind fun v s => loadTo a (8 * n) v.1 v.2 (wordAddr p) s

/-- LDQ. -/
def execLdq (a b c : Name) (size : BitVec 2) (disp : BitVec 14) (s : State) : Host.Outcome State Fault Refusal :=
  run (ldqBody a b c size disp) s

/-- Window bit of a bit access: the offset wrapped in the window (R159). -/
def winBit (w : Word) (o : Int) : Nat := (o % (8 * 2 ^ winLg w : Nat)).toNat

/-- The n bits from a window bit on, wrapping after the window's last bit: read as the one or two words that hold them (R160, R161). -/
def readBits (w : Word) (β n : Nat) (s : State) : Ans (Nat × Bool × Nat) :=
  let base := winStore s.cur.core w + winBase w
  let i := β / 64
  let j := (i + 1) % (2 ^ winLg w / 8)
  (readBytes (base + 8 * i) 8 s).bind fun lo s =>
    if β % 64 + n ≤ 64 then .ok (lo.1 / 2 ^ (β % 64) % 2 ^ n, lo.2, base + 8 * i) s
    else
      (readBytes (base + 8 * j) 8 s).bind fun hi s =>
        .ok ((lo.1 + hi.1 * 2 ^ 64) / 2 ^ (β % 64) % 2 ^ n, lo.2 || hi.2, if lo.2 then base + 8 * i else base + 8 * j) s

/-- LDB (R159). -/
def execLdb (a b c : Name) (disp : BitVec 10) (bits : BitVec 6) (s : State) : Host.Outcome State Fault Refusal :=
  run (fun s => (readWindow b false s).bind fun w s => (readName c s).bind fun o s =>
    let n := bits.toNat + 1
    (readBits w (winBit w (o + disp.toInt)) n s).bind fun v s => loadTo a n v.1 v.2.1 (BitVec.ofNat 64 v.2.2) s) s

/-! ### Stores through windows -/

/-- A store through a command window (R263): a staging word, and with word 7 the command joins the core's queue. -/
def commandStore (w : Word) (off : Int) (size : BitVec 2) (x : Int) (s : State) : Ans Unit :=
  if size != 3#2 then .trap 0x09 w
  else
    let j := winOffset w off 8 % 64 / 8
    let k := s.cur.core
    let m := (coreOf s k).mx
    if j == 7 && decide (8 ≤ m.queue.length) then .hold
    else
      let s1 := modCur s fun y => { y with stage := y.stage.set j (wordOf x) }
      if j == 7 then
        let c : MCmd := { words := (curSlot s1).stage, slot := s.cur.slot, uid := (curSlot s).uid }
        .ok () (modCore s1 k fun y => { y with mx := { y.mx with queue := y.mx.queue ++ [c] } })
      else .ok () s1

/-- Whether what a store of a streamer has read of its first field carries a poison mark, which the store writes (R222): a queue's first entry
taken, a fixed name, or a declared name. -/
def marked (s : State) (n : Name) : Bool :=
  let x := curSlot s
  isStreamer s.cur.core
    && (if isQueue n then ((x.taken.find? fun e => e.1 == queueIdx n).map (·.2.poison)).getD false
        else if isFixed n then x.marks.contains n.toNat
        else ((tfind x.names n.toNat).map (·.poison)).getD false)

/-- STQ (R158, R159, R178). -/
def execStq (a b c : Name) (size : BitVec 2) (disp : BitVec 14) (s : State) : Host.Outcome State Fault Refusal :=
  run (fun s => (raisePoint s).seq fun s => (readName a s).bind fun x s => (readWindow b true s).bind fun w s =>
    (readName c s).bind fun o s =>
      if winKind w == 1 then commandStore w (o + disp.toInt) size x s
      else
        let n := sizeOf' size
        let p := winAddr s.cur.core w (o + disp.toInt) n
        emitWrite (.store (storeBytes p n (wordOf x).toNat) (marked s a)) (wordAddr p) false true s) s

/-- The masked bytes of a store of n bits of a value at a window bit (R160). -/
def bitBytes (w : Word) (base β n v : Nat) : List MByte :=
  (List.range ((β % 8 + n + 7) / 8)).map fun t =>
    let m := (2 ^ n - 1) * 2 ^ (β % 8) / 256 ^ t % 256
    let x := v % 2 ^ n * 2 ^ (β % 8) / 256 ^ t % 256
    { addr := base + (β / 8 + t) % 2 ^ winLg w, val := BitVec.ofNat 8 x, mask := BitVec.ofNat 8 m }

/-- STB (R159, R160): a masked write. -/
def execStb (a b c : Name) (disp : BitVec 10) (bits : BitVec 6) (s : State) : Host.Outcome State Fault Refusal :=
  run (fun s => (raisePoint s).seq fun s => (readName a s).bind fun x s => (readWindow b false s).bind fun w s =>
    (readName c s).bind fun o s =>
      let n := bits.toNat + 1
      let β := winBit w (o + disp.toInt)
      let base := winStore s.cur.core w + winBase w
      emitWrite (.store (bitBytes w base β n (wordOf x).toNat) (marked s a)) (wordAddr (base + β / 8)) false true s) s

/-! ### Global accesses -/

/-- A load of peer memory: a READ leaves, and its RESP answers the write-back (R334). `acq` is the scope of an acquire. -/
def peerLoad (a : Name) (p n : Nat) (acq : Option Nat) (va : Word) (s : State) : Ans Unit :=
  if peerBehind s p n then .waitIn (.ahead p n) s
  else
    (deferWrite a none none false s).bind fun serial s =>
      .ok () (sendPacket s (peerDev p) 0 0x01 (payRead (peerOff p) n (if acq.isSome then .acquire else .load) (acq.getD 0))
        (.load s.cur.core s.cur.slot (curSlot s).uid serial n acq.isSome va))

/-- The data of a load of this device: it goes to its name, or waits for the retries of its vertical channel (R174). -/
def globalLoad (a : Name) (p n : Nat) (va : Word) (s : State) : Ans Unit :=
  (readBytes p n s arrayRead).bind fun v s =>
    (deferWrite a none none false s).bind fun serial s =>
      match firstBeat s p (8 * n) v.1 v.2 va serial with
      | (t, none) => .ok () t
      | (t, some bad) =>
        let (u, err, mark) := consumed t.cur.core (v.2 || bad) v.1 va
        .ok () (answerWb t t.cur.core serial (8 * n) u err mark)

/-- Whether the launch of the strand makes every global load act as if an ERRFENCE followed it (R178, R314). -/
def checksLoads (s : State) : Bool :=
  match (curSlot s).launch with
  | none => false
  | some l => ((tfind s.launches l).map (·.ldchk)).getD false && !(isStreamer s.cur.core)

/-- The wait that a checked load ends with (R178). -/
def afterLoad (s : State) : Ans Unit := if checksLoads s then .waitIn .loadCheck s else .ok () s

/-- A load of n bytes at a virtual address (R166, R199). -/
def loadAt (a : Name) (va : Word) (n : Nat) (acq : Option Nat) (s : State) : Ans Unit :=
  if va.toNat % n ≠ 0 then .trap 0x0B va
  else
    (translateCur va .load s).bind fun p s =>
      (if inPeer p then peerLoad a p n acq va s else globalLoad a p n va s).seq afterLoad

/-- A store of n bytes at a virtual address (R166, R199). -/
def storeAt (x : Int) (mark : Bool) (va : Word) (n : Nat) (rel : Bool) (s : State) : Ans Unit :=
  if va.toNat % n ≠ 0 then .trap 0x0B va
  else
    (translateCur va .store s).bind fun p s => emitWrite (.store (storeBytes p n (wordOf x).toNat) mark) va rel true s

/-- The virtual address of LDG and STG (R166). -/
def globalAddr (b c : Int) (n : Nat) (disp : BitVec 14) : Word := wordOf (b + c * n + disp.toInt)

/-- LDG (R166). -/
def execLdg (a b c : Name) (size : BitVec 2) (disp : BitVec 14) (s : State) : Host.Outcome State Fault Refusal :=
  run (fun s => (readName b s).bind fun x s => (readName c s).bind fun y s =>
    loadAt a (globalAddr x y (sizeOf' size) disp) (sizeOf' size) none s) s

/-- STG (R166). -/
def execStg (a b c : Name) (size : BitVec 2) (disp : BitVec 14) (s : State) : Host.Outcome State Fault Refusal :=
  run (fun s => (raisePoint s).seq fun s => (readName a s).bind fun v s => (readName b s).bind fun x s =>
    (readName c s).bind fun y s =>
      storeAt v (marked s a) (globalAddr x y (sizeOf' size) disp) (sizeOf' size) false s) s

/-! ### Full/empty operations -/

/-- The word of a FEOP (R162). -/
def feAddr (s : State) (w : Word) (o : Int) (d : BitVec 8) : Nat := winAddr s.cur.core w (o + 8 * d.toInt) 8

/-- Whether a reading FEOP, which acts at the word's port, must let a queued write to the word go first, as it is already visible to the strand
(R188 to R190). A store of another strand that stands behind a held full/empty write may wait for the FEOP: it is not waited for. -/
def feBehind (s : State) (p : Nat) : Bool :=
  let k := s.cur.core
  let i := s.cur.slot
  loadBehind s k i p 8
    || (shownTo s k i).any fun e => e.op.touches p 8 && (e.owned k i (slotOf s k i).uid || !(e.afterHeld s))

/-- A reading FEOP (R162, R163): performed at the port, or held there with its strand parked. -/
def feRead (op : FeOp) (a b c : Name) (d : BitVec 8) (s : State) : Ans Unit :=
  (readWindow b false s).bind fun w s => (readName c s).bind fun o s =>
    let p := feAddr s w o d
    if feBehind s p then .waitIn (.ahead p 8) s
    else if feReady s op p then
      let (t, v, bad) := feTake s op p s.cur.core s.cur.slot
      loadTo a 64 v bad (BitVec.ofNat 64 p) (feChanged s t p)
    else
      (deferWrite a none none false s).bind fun serial s =>
        let r : FeWait := { op := op, addr := p, core := s.cur.core, slot := s.cur.slot, uid := (curSlot s).uid,
                            local' := queueKey s.cur.core == portKey p, serial := serial }
        .waitIn (.fullEmpty serial) (match feArrives s r with
          | (t, false) => t
          | (_, true) => modQuad s (portKey p) fun q => { q with feRetry := q.feRetry ++ [{ r with due := s.uncore + 64 }] })

/-- A writing FEOP leaves at commit like a store, as a release at device scope (R163, R193). -/
def feWrite (op : FeOp) (a b c : Name) (d : BitVec 8) (s : State) : Ans Unit :=
  (raisePoint s).seq fun s => (readName a s).bind fun x s => (readWindow b false s).bind fun w s =>
    (readName c s).bind fun o s =>
      let p := feAddr s w o d
      emitWrite (.fe op p (wordOf x)) (wordAddr p) true true s

/-- LDFE. -/
def execLdfe (a b c : Name) (d : BitVec 8) (s : State) : Host.Outcome State Fault Refusal := run (feRead .ldfe a b c d) s
/-- LDFF. -/
def execLdff (a b c : Name) (d : BitVec 8) (s : State) : Host.Outcome State Fault Refusal := run (feRead .ldff a b c d) s
/-- STFE. -/
def execStfe (a b c : Name) (d : BitVec 8) (s : State) : Host.Outcome State Fault Refusal := run (feWrite .stfe a b c d) s
/-- STFF. -/
def execStff (a b c : Name) (d : BitVec 8) (s : State) : Host.Outcome State Fault Refusal := run (feWrite .stff a b c d) s
/-- FEFULL. -/
def execFefull (a b c : Name) (d : BitVec 8) (s : State) : Host.Outcome State Fault Refusal := run (feWrite .fefull a b c d) s
/-- FEEMPTY. -/
def execFeempty (a b c : Name) (d : BitVec 8) (s : State) : Host.Outcome State Fault Refusal := run (feRead .feempty a b c d) s
/-- FESTATE. -/
def execFestate (a b c : Name) (d : BitVec 8) (s : State) : Host.Outcome State Fault Refusal := run (feRead .festate a b c d) s

/-! ### Windows -/

/-- WIN (R155). -/
def execWin (a b c : Name) (kind : BitVec 2) (size : BitVec 5) (s : State) : Host.Outcome State Fault Refusal :=
  run (fun s => (readName b s).bind fun x s => (readName c s).bind fun y s =>
    let lg := size.toNat
    let q := if c == 240#8 then 0x3FF else (y % 2 ^ 10).toNat
    let base := (x % 2 ^ 19).toNat / 2 ^ lg * 2 ^ lg
    writeName a ((base + lg * 2 ^ 19 + q * 2 ^ 24 + kind.toNat * 2 ^ 34 : Nat) : Int) s) s

end Sys2Proof.Machine
end

