-- ==== Sys2Proof/Machine/Ordering.lean ====
section
/-! DEFINITION. The ordering class: fences (R197, R198), acquire and release (R199), atomics (R200 to R203), ERRFENCE (R179) and barriers
(R207 to R209). -/

namespace Sys2Proof.Machine

/-! ### Acquire loads and release stores -/

/-- LDACQ (R199): the read has returned before any later access of the strand is performed. -/
def execLdacq (a b : Name) (size : BitVec 2) (scope : BitVec 3) (disp : BitVec 11) (s : State) : Host.Outcome State Fault Refusal :=
  run (fun s => (readName b s).bind fun x s => loadAt a (wordOf (x + disp.toInt)) (sizeOf' size) (some scope.toNat) s) s

/-- Whether a release of a scope waits for performance at the homes: the scopes beyond the quad (R191, R197). -/
def wideScope (scope : BitVec 3) : Bool := decide (2 < scope.toNat)

/-- Whether a release of the strand of the issue latch is performed only after what it must make visible (R191): at the wide scopes always,
and within the quad, where forwarding makes queued writes visible, while a full/empty write of the strand is still to be performed. -/
def heldRelease (s : State) (scope : BitVec 3) : Bool :=
  wideScope scope || feLeft s s.cur.core s.cur.slot (curSlot s).uid s.serial

/-- STREL (R199). -/
def execStrel (a b : Name) (size : BitVec 2) (scope : BitVec 3) (disp : BitVec 11) (s : State) : Host.Outcome State Fault Refusal :=
  run (fun s => (raisePoint s).seq fun s => (readName a s).bind fun v s => (readName b s).bind fun x s =>
    storeAt v (marked s a) (wordOf (x + disp.toInt)) (sizeOf' size) (heldRelease s scope) s) s

/-! ### Atomics -/

/-- Whether a destination is a trap-mode name too narrow for an old value of n bytes (R200). -/
def narrowTrap (s : State) (a : Name) (n : Nat) : Bool :=
  !(isFixed a) && (match nameOf s s.cur.core s.cur.slot a with
    | some e => e.mode == .trap && decide (e.width < 8 * n)
    | none => false)

/-- An atomic leaves for its home (R200); `ret` names where the old value goes, if anywhere. -/
def sendAtomic (ret : Option Name) (va : Word) (r : AtomicReq) (order : BitVec 2) (scope : BitVec 3) (s : State) : Ans Unit :=
  if va.toNat % r.bytes ≠ 0 then .trap 0x0B va
  else
    (translateCur va .both s).bind fun p s =>
      let rel := order.toNat / 2 == 1
      let go := fun (serial : Nat) (s : State) =>
        emitWrite (.atomic { r with addr := p, dest := serial, acq := order.toNat % 2 == 1, rel := rel, scope := scope.toNat }) va
          (rel && heldRelease s scope) true s
      match ret with
      | some a => (deferWrite a none none false s).bind go
      | none => go 0 s

/-- AMO (R201). min and max read the word as C is declared. -/
def execAmo (a b c : Name) (op : BitVec 4) (size order : BitVec 2) (scope : BitVec 3) (s : State) : Host.Outcome State Fault Refusal :=
  run (fun s => (raisePoint s).seq fun s => (require (!(narrowTrap s a (sizeOf' size))) 0x02 (a.setWidth 64) s).seq fun s =>
    (signedOfName c s).bind fun g s => (readName b s).bind fun x s => (readName c s).bind fun y s =>
      sendAtomic (some a) (wordOf x)
        { cas := false, op := op.toNat, bytes := sizeOf' size, addr := 0, signed := g, operand := wordOf y } order scope s) s

/-- CAS (R202). -/
def execCas (a b c d : Name) (size order : BitVec 2) (scope : BitVec 3) (s : State) : Host.Outcome State Fault Refusal :=
  run (fun s => (raisePoint s).seq fun s => (require (!(narrowTrap s a (sizeOf' size))) 0x02 (a.setWidth 64) s).seq fun s =>
    (readName b s).bind fun x s => (readName c s).bind fun y s => (readName d s).bind fun z s =>
      sendAtomic (some a) (wordOf x)
        { cas := true, op := 0, bytes := sizeOf' size, addr := 0, signed := false, operand := wordOf y, newVal := wordOf z }
        order scope s) s

/-- RED (R203). -/
def execRed (a b : Name) (op : BitVec 4) (size order : BitVec 2) (scope : BitVec 3) (s : State) : Host.Outcome State Fault Refusal :=
  run (fun s => (raisePoint s).seq fun s => (signedOfName a s).bind fun g s => (readName a s).bind fun y s =>
    (readName b s).bind fun x s =>
      sendAtomic none (wordOf x)
        { cas := false, op := op.toNat, bytes := sizeOf' size, addr := 0, signed := g, operand := wordOf y } order scope s) s

/-! ### Fences -/

/-- FENCE (R197, R198). -/
def execFence (kind scope : BitVec 3) (s : State) : Host.Outcome State Fault Refusal :=
  run (fun s => (awaitLoads s).seq fun s =>
    if kind = 0#3 then .ok () s else if kind = 4#3 then awaitDrained 6 s else awaitDrained scope.toNat s) s

/-- Whether a store or atomic of a strand has not been acknowledged (R179). -/
def unacknowledged (s : State) (k i : Nat) : Bool := unperformed s k i (slotOf s k i).uid s.serial false

/-- ERRFENCE (R179): earlier loads returned and stores acknowledged, then the pending error is raised. -/
def execErrfence (s : State) : Host.Outcome State Fault Refusal :=
  run (fun s => (awaitLoads s).seq fun s =>
    if unacknowledged s s.cur.core s.cur.slot then .waitIn .acks s else raisePoint s) s

/-! ### Barriers -/

/-- The physical barrier of a cluster that a launch's barrier id is mapped to (R207). -/
def barrierOf (s : State) (c launch id : Nat) : Option Nat :=
  ((clusterOf s c).barriers.find? fun b => b.2.owner == some (launch, id)).map (·.1)

/-- A barrier's state. -/
def barState (s : State) (c p : Nat) : Barrier := tget (clusterOf s c).barriers {} p

/-- A barrier changed. -/
def modBarrier (s : State) (c p : Nat) (f : Barrier → Barrier) : State :=
  modCluster s c fun x => { x with barriers := tput x.barriers p (f (tget x.barriers {} p)) }

/-- The barrier wait in which the BAR at a PC has been counted. -/
def barAt (x : Slot) (pc : Word) : Option BarWait := x.barWait.find? fun w => w.pc == pc

/-- A strand without the barrier wait of the BAR at a PC. -/
def dropBar (pc : Word) (x : Slot) : Slot := { x with barWait := x.barWait.filter fun w => w.pc != pc }

/-- The waiters of a barrier's generation that are parked in it, by core and slot (R208). -/
def barWaiters (s : State) (c p : Nat) (g : BitVec 32) : List (Nat × Nat) :=
  (s.cores.filter fun e => clusterOfKey e.1 == c).flatMap fun e =>
    (e.2.slots.filter fun x => x.2.status == .parked .barrier &&
      (match barAt x.2 x.2.pc with | some w => w.bar == p && w.gen == g | none => false)).map fun x => (e.1, x.1)

/-- The generation of a barrier ended: the next N takes effect, and every waiter is released (R207, R208). -/
def endGeneration (s : State) (c p : Nat) : State :=
  let b := barState s c p
  let ws := barWaiters s c p b.g
  let s1 := modBarrier s c p fun x => { x with a := 0, g := x.g + 1#32, n := x.nNext.getD x.n, nNext := none }
  ws.foldl (fun t m => finishWait (modSlot t m.1 m.2 fun x => dropBar x.pc x) m.1 m.2) s1

/-- The BAR of the issue latch parked in a generation (R208). -/
def waitBar (p : Nat) (g : BitVec 32) (s : State) : Ans Unit :=
  .waitIn .barrier (modCur s fun x => { x with barWait := ⟨s.cur.pc, p, g, false⟩ :: x.barWait })

/-- An arrival at a barrier (R208). -/
def arrive (nowait : Bool) (c p : Nat) (s : State) : Ans Unit :=
  let b := barState s c p
  if b.a + 1 == b.n then .ok () (endGeneration s c p)
  else
    let s1 := modBarrier s c p fun x => { x with a := x.a + 1 }
    if nowait then .ok () s1 else waitBar p b.g s1

/-- The record that the barrier unit keeps for a husked waiter (R209). -/
def barRecord (s : State) (c : Nat) (a : Agent) : Option BarRecord :=
  (clusterOf s c).barRecords.find? fun r => r.agent == a

/-- A resumed husk's BAR rejoins its wait by its record, which is freed (R209). -/
def rejoin (c id : Nat) (s : State) : Ans Unit :=
  let me := selfAgent s s.cur.core s.cur.slot
  match barRecord s c me with
  | none => .trapIn 0x16 (BitVec.ofNat 64 id) (modCur s fun x => { x with barCounted := false })
  | some r =>
    let s1 := modCluster (modCur s fun x => { x with barCounted := false }) c fun x =>
      { x with barRecords := x.barRecords.filter fun y => y.agent != me }
    if r.cancelled then .trapIn 0x16 (BitVec.ofNat 64 id) s1
    else if (barState s c r.bar).g != r.gen then .ok () s1
    else waitBar r.bar r.gen s1

/-- A BAR that was counted before a late-fit trap ended its wait, re-executed (R209, R367): it completes if its generation has, traps if that was
cancelled, and otherwise waits on, without arriving again. -/
def barAgain (c id : Nat) (w : BarWait) (s : State) : Ans Unit :=
  let s1 := modCur s (dropBar s.cur.pc)
  if w.cancelled then .trapIn 0x16 (BitVec.ofNat 64 id) s1
  else if (barState s c w.bar).g != w.gen then .ok () s1
  else .waitIn .barrier s

/-- BAR's body (R208, R209). -/
def barBody (nowait : Bool) (id : Nat) (s : State) : Ans Unit :=
  let c := clusterOfKey s.cur.core
  if decide (14 ≤ s.cur.slot) || !(isCore s.cur.core) then .trap 0x02 0#64
  else
    match (curSlot s).launch.bind fun l => barrierOf s c l id with
    | none => .trap 0x12 (BitVec.ofNat 64 id)
    | some p =>
      (awaitDrained 3 s).seq fun s =>
        if (curSlot s).barCounted then rejoin c id s
        else
          match barAt (curSlot s) s.cur.pc with
          | some w => barAgain c id w s
          | none => arrive nowait c p s

/-- BAR. -/
def execBar (nowait : BitVec 1) (id : BitVec 5) (s : State) : Host.Outcome State Fault Refusal :=
  run (barBody (nowait == 1#1) id.toNat) s

end Sys2Proof.Machine
end

