-- ==== Sys2Proof/Machine/Pacing.lean ====
section
/-! DEFINITION. The step class (R124 to R149): pacing state, announces, rings, PUTS and GETS. -/

namespace Sys2Proof.Machine

/-! ### Who is who -/

/-- Cluster and logical core of the issue latch. -/
def curLogical (s : State) : Nat × Nat := (clusterOfKey s.cur.core, unitId s s.cur.core)

/-- Physical core key of a logical core (R15). -/
def physKey (s : State) (c l : Nat) : Nat := keyOf c (physOf s c l)

/-- Whether a step instruction may run here: work slots of a core (R145); not on a streamer (log entry 107). -/
def paceable (s : State) : Bool := isCore s.cur.core && decide (s.cur.slot < 14)

/-- The launch field of a MSG that carries an event, announce or count request: the spec lays out no such MSG, and the model marks it
with a launch id that no launch has (log entry 12). -/
def hardwareLaunch : Nat := 0xFFFFFFFF

/-- A message of the hardware to an agent of a peer device (R334). -/
def sendHardware (s : State) (target sender : Agent) (words : List Word) : State :=
  sendPacket s (agentDev s target) 0 0x04
    (payMsg { core := 0, serial := 0, target := target, sender := sender, launch := some hardwareLaunch, words := words }) .reply

/-- An announce of a core's finished count to another core (R128, R131, R139, R148). -/
def announceTo (s : State) (me dst : Agent) (count : BitVec 32) (restart ended : Bool) : State :=
  if agentHere s dst then post s (.announceArrival dst me count restart ended)
  else sendHardware s dst me
    [2#64, BitVec.ofNat 64 (count.toNat + (if restart then 2 ^ 32 else 0) + (if ended then 2 ^ 33 else 0))]

/-- announce(core, F) to both lists of a core (R128). -/
def announce (s : State) (c l : Nat) (restart : Bool) : State :=
  let x := logicalOf s c l
  let me := coreAgent s c l
  (x.producers ++ x.subscribers).foldl (fun t e => announceTo t me e.2.agent x.f restart x.ended) s

/-! ### GETS at the producer's port -/

/-- P of a ring's depth: the smallest power of two at least D (R136). -/
def ringP (d : Nat) : Nat := if d ≤ 1 then 1 else 2 ^ (Nat.log2 (d - 1) + 1)

/-- The slot stride of a ring (R136). -/
def ringStride (r : Ring) : Nat := 2 ^ winLg r.win / ringP r.depth

/-- Address of a word of a ring's slot for a step, seen from the producer's core (R136, R140). -/
def ringAddr (k : Nat) (r : Ring) (step : BitVec 32) (off : Nat) : Nat :=
  winAddr k r.win ((step.toNat % r.depth * ringStride r + off % (ringStride r / 8) * 8 : Nat) : Int) 8

/-- What the producer's port answers to a GETS (R141). -/
inductive GetsEnd where
  | waits
  | fails (cause : Nat) (val : Word)
  | gives (addr : Nat)
deriving DecidableEq, Repr

/-- A GETS looked at by the producer's port (R141, R147): a core that was sealed is LOST until a strand is restarted there (R148). -/
def getsLook (s : State) (g : GetsReq) : GetsEnd :=
  let c := agentCluster g.producer
  let l := agentUnit g.producer
  let k := physKey s c l
  let x := logicalOf s c l
  match tfind x.rings g.ring.toNat with
  | none => .fails 0x0D (g.producer.setWidth 64)
  | some r =>
    if (coreOf s k).sealed || x.restart.isSome then .fails 0x0D (g.producer.setWidth 64)
    else if serialDiff x.f g.step < 1 && !x.ended then .waits
    else if serialDiff x.f g.step < 1 then .fails 0x0D (g.producer.setWidth 64)
    else if (r.depth : Int) ≤ serialDiff x.s g.step then .fails 0x0C (g.step.setWidth 64)
    else .gives (ringAddr k r g.step g.off.toNat)

/-- Whether what a GETS reads lies behind a queued write of its reader's quad, or of outside where its reader is there, or a parked atomic (R188 to
R192, R205). -/
def getsBehind (s : State) (g : GetsReq) (a : Nat) : Bool :=
  match g.from' with
  | some _ => wordBlocked s a 8 || (quadOf s outsideQueue).wq.any fun e => e.op.touches a 8
  | none => loadBehind s g.core g.slot a 8

/-- A GETS completed with its word, in its reader or by a RESP (R141, R177). -/
def getsGive (s : State) (g : GetsReq) (a : Nat) : State :=
  let s1 := scrub s a 8
  match g.from' with
  | some (d, q) =>
    if s1.poison.contains (a / 8 * 8) then reply s1 d q 2 0x0E (toBytes 8 a) else reply s1 d q 0 0 (memBytes s1.mem a 8)
  | none =>
    let (v, err, mark) := consumed g.core (seenPoison s1 g.core g.slot a 8) (ofBytes (seenBytes s1 g.core g.slot a 8)) (BitVec.ofNat 64 a)
    finishWait (answerWb s1 g.core g.serial 64 v err mark) g.core g.slot

/-- A GETS turned away with an error (R141, R147). -/
def getsFail (s : State) (g : GetsReq) (cause : Nat) (val : Word) : State :=
  match g.from' with
  | some (d, q) => reply s d q 2 cause []
  | none => trapGets s g cause val

/-- Whether a GETS still has a reader that waits for it. -/
def getsLive (s : State) (g : GetsReq) : Bool :=
  g.from'.isSome || ((slotOf s g.core g.slot).uid == g.uid && (slotOf s g.core g.slot).status == .parked (.gets g.serial))

/-- The quad whose port serves a GETS (R141). -/
def getsQuad (s : State) (g : GetsReq) : Nat := quadOfKey (physKey s (agentCluster g.producer) (agentUnit g.producer))

/-- A GETS that reaches the producer's quad port (R141, R143): where the list is full it is told to retry, a peer's by its RESP; one that something
must precede is looked at again. -/
def getsArrive (s : State) (g : GetsReq) : State :=
  if getsLive s g then
    match getsLook s g with
    | .gives a =>
      if getsBehind s g a then modQuad s (getsQuad s g) fun x => { x with stepRetry := x.stepRetry ++ [(s.uncore + 1, g)] }
      else getsGive s g a
    | .fails c v => getsFail s g c v
    | .waits =>
      let q := getsQuad s g
      if (quadOf s q).stepWaits.length < 32 then modQuad s q fun x => { x with stepWaits := x.stepWaits ++ [g] }
      else
        match g.from' with
        | some (d, sq) => reply s d sq 1 0 []
        | none => modQuad s q fun x => { x with stepRetry := x.stepRetry ++ [(s.uncore + 64, g)] }
  else s

/-- Every held GETS of a quad looked at again, in arrival order, after a begin, a finish or an end of pacing (R143). -/
def getsAgain (s : State) (q : Nat) : State :=
  (quadOf s q).stepWaits.foldl getsArrive (modQuad s q fun x => { x with stepWaits := [] })

/-! ### Finishing and beginning -/

/-- Whether anything that a member of a core's paced set has issued is still to be performed: stores, atomics, messages, pushes, those of values
that are still to come among them (R128), wherever it waits, also in a RED that another strand's has taken in (R204); or a write of its quad that
was visible to the member at its STEP, for the finish of a step is a cumulative release (R191, R193). -/
def memberBusy (s : State) (k i : Nat) (m : Member) : Bool :=
  let mine := fun (e : WEntry) => !e.outside && (m.uids.contains e.uid || e.mates.any fun x => m.uids.contains x.2.2)
  (s.quads.any fun q => q.2.wq.any mine || q.2.feWaits.any fun w => m.uids.contains w.uid && w.op.writes)
    || (s.parked.any fun p => mine p.entry)
    || ((s.fab.granary ++ s.fab.waiting).any fun g => !g.answered && (match g.pending.write with | some e => mine e | none => false))
    || (s.cores.any fun c => c.2.outbuf.any fun e => m.uids.contains e.uid)
    || ((coreOf s k).queues.any fun d => d.2.vto.any fun v => v.slot == i)
    || ((pendingWbs (coreOf s k)).any fun w => w.entry.isSome && m.uids.contains w.uid)
    || onWay s k i (slotOf s k i).uid m.bound

/-- Whether a core can finish its step (R128, R146): paced, in PHASE RUN, every member arrived and nothing of theirs left to perform. -/
def canFinish (s : State) (c l : Nat) : Bool :=
  let x := logicalOf s c l
  x.paced && !x.held && !x.members.isEmpty && x.members.all (fun m => m.2.arrived)
    && x.members.all fun m => !(memberBusy s (physKey s c l) m.1 m.2)

/-- Whether a list entry satisfies its condition for a bound (R129): it is empty of demands when it carries END or LOST, or names the
core itself. -/
def satisfied (s : State) (me : Agent) (bound : BitVec 32) (n : Neighbour) : Bool :=
  n.ended || n.lost || sameUnit s n.agent me || decide (0 ≤ serialDiff n.count bound)

/-- Whether a core can begin its next step (R129, R146): no member is husked, or resumed from STEP and still to execute it again. -/
def canBegin (s : State) (c l : Nat) : Bool :=
  let x := logicalOf s c l
  let me := coreAgent s c l
  x.paced && x.held && x.members.all (fun m => !m.2.husked && !m.2.rejoins)
    && x.producers.all (fun e => satisfied s me x.f e.2)
    && x.subscribers.all fun e => satisfied s me (x.f - BitVec.ofNat 32 x.limit) e.2

/-- STEP_FINISH of the logical core that a core holds (R128). -/
def execStepFinish (core : Nat) (s : State) : Host.Outcome State Fault Refusal :=
  let c := clusterOfKey core
  let l := unitId s core
  if isCore core && canFinish s c l then
    let s1 := modLogical s c l fun x => { x with f := x.s + 1#32, held := true }
    .next (getsAgain (announce s1 c l false) (quadOfKey core))
  else .next s

/-- The strands of a core parked in STEP released (R129). -/
def releaseStep (s : State) (k : Nat) : State :=
  (List.range 14).foldl (fun t i => if (slotOf t k i).status == .parked .step then finishWait t k i else t) s

/-- STEP_BEGIN of the logical core that a core holds (R129). -/
def execStepBegin (core : Nat) (s : State) : Host.Outcome State Fault Refusal :=
  let c := clusterOfKey core
  let l := unitId s core
  if isCore core && canBegin s c l then
    let s1 := modLogical s c l fun x =>
      { x with s := x.f, held := false, members := tmap x.members fun _ m => { m with arrived := false } }
    .next (getsAgain (releaseStep s1 core) (quadOfKey core))
  else .next s

/-- STEP's body (R127). A STEP executed again after a late misfit has ended its wait arrives anew, in the step then under way (log entry 20). -/
def stepBody (s : State) : Ans Unit :=
  if !(paceable s) then .trap 0x02 0#64
  else
    (raisePoint s).seq fun s =>
      let (c, l) := curLogical s
      let x := logicalOf s c l
      match tfind x.members s.cur.slot with
      | none => .trap 0x02 0#64
      | some m =>
        let note := fun (m : Member) => modLogical s c l fun y => { y with members := tput y.members s.cur.slot { m with rejoins := false } }
        if x.held then .waitIn .step (if m.rejoins then note m else s)
        else .waitIn .step (note { m with arrived := true, bound := s.serial })

/-- STEP. -/
def execStep (s : State) : Host.Outcome State Fault Refusal := run stepBody s

/-! ### Configuration -/

/-- Whether the skew rule of R134 fails: a subscriber and a ring with L > D − 1. -/
def skewBreaks (x : Logical) : Bool := !x.subscribers.isEmpty && x.rings.any fun r => decide (r.2.depth - 1 < x.limit)

/-- A change of the configuration, refused by TRAPVAL 1 while the core is paced, by the operand's own conditions, each with its cause and TRAPVAL,
and by TRAPVAL 3 when it would break the skew rule (R134). -/
def configure (bad : Option (Nat × Word)) (f : Logical → Logical) (s : State) : Ans Unit :=
  let (c, l) := curLogical s
  let x := logicalOf s c l
  if x.paced then .trap 0x02 1#64
  else
    match bad with
    | some (c, v) => .trap c v
    | none => if skewBreaks (f x) then .trap 0x02 3#64 else .ok () (modLogical s c l f)

/-- The neighbour that a new list entry names (R135): its slot field is ignored, and it is LOST from the start when it cannot answer. -/
def newNeighbour (s : State) (t : Agent) : Neighbour :=
  let a := mkAgent 0 (agentDev s t) (agentCluster t) (agentUnit t)
  { agent := a, lost := if agentHere s t then (coreOf s (agentKey s t)).sealed else unreachable s (agentDev s t) }

/-- The count request that a new list entry sends (R130). -/
def requestCount (s : State) (t : Agent) : State :=
  let (c, l) := curLogical s
  let me := coreAgent s c l
  if agentHere s t then post s (.countRequest t me) else sendHardware s t me [3#64]

/-- DEPSET's body (R134, R135). -/
def depsetBody (b : Name) (subs : Bool) (idx : Nat) (s : State) : Ans Unit :=
  if !(paceable s) then .trap 0x02 0#64
  else
    (readName b s).bind fun v s =>
      let t := (wordOf v).setWidth 32
      let empties := t == 0xFFFFFFFF#32
      let bad : Option (Nat × Word) := if !subs && decide (8 ≤ idx) then some (0x02, 2#64)
        else if !empties && !(agentValid s t && decide (agentUnit t < 64)) then some (0x02, 5#64) else none
      let n := newNeighbour s t
      let upd := fun (l : Tab Neighbour) => if empties then tdel l idx else tput l idx n
      (configure bad (fun x => if subs then { x with subscribers := upd x.subscribers } else { x with producers := upd x.producers }) s).seq
        fun s => .ok () (if empties then s else requestCount s n.agent)

/-- DEPSET. -/
def execDepset (b : Name) (subs : BitVec 1) (idx : BitVec 4) (s : State) : Host.Outcome State Fault Refusal :=
  run (depsetBody b (subs == 1#1) idx.toNat) s

/-- SKEWSET (R134, R135). -/
def execSkewset (limit : BitVec 16) (s : State) : Host.Outcome State Fault Refusal :=
  run (fun s =>
    if !(paceable s) then .trap 0x02 0#64
    else configure (if 15 < limit.toNat then some (0x02, 2#64) else none) (fun x => { x with limit := limit.toNat }) s) s

/-- Whether a ring's window passes the table of R134 for its depth. -/
def ringWindowOk (k : Nat) (w : Word) (depth : Nat) : Bool :=
  bitsOf w.toNat 63 36 == 0 && winKind w == 0 && (winQuad w == 0x3FF || winQuad w == quadOfKey k)
    && decide (8 * ringP depth ≤ 2 ^ winLg w)

/-- What refuses a RINGSET by its own operand: the table of R134, and then the descriptor's log2 size, which the table leaves to R154 (log
entry 88). -/
def ringRefused (k ring : Nat) (w : Word) (depth : Nat) : Option (Nat × Word) :=
  if 4 ≤ ring then some (0x02, 2#64)
  else if !(ringWindowOk k w depth) then some (0x02, 4#64)
  else if winValid w false then none else some (0x09, w)

/-- RINGSET (R134 to R136). -/
def execRingset (b : Name) (ring depth : BitVec 4) (s : State) : Host.Outcome State Fault Refusal :=
  run (fun s =>
    if !(paceable s) then .trap 0x02 0#64
    else
      (readName b s).bind fun v s =>
        let w := wordOf v
        let d := depth.toNat + 1
        configure (ringRefused s.cur.core ring.toNat w d) (fun x => { x with rings := tput x.rings ring.toNat { win := w, depth := d } }) s) s

/-- A strand made a member of a core's paced set, the first of an unpaced core beginning its pacing afresh (R137). -/
def joinPaced (s : State) (c l slot : Nat) : State :=
  let x := logicalOf s c l
  let m : Member := { uids := [(slotOf s (physKey s c l) slot).uid] }
  if (tfind x.members slot).isSome then s
  else if x.paced then modLogical s c l fun y => { y with members := tput y.members slot m }
  else
    let s1 := modLogical s c l fun y =>
      { y with paced := true, s := 0#32, f := 0#32, held := false, ended := false, members := tput y.members slot m }
    if x.ended then announce s1 c l true else s1

/-- A member removed; with the last one pacing ends (R137, R139). -/
def leavePaced (s : State) (c l slot : Nat) : State :=
  let x := logicalOf s c l
  if (tfind x.members slot).isNone then s
  else
    let s1 := modLogical s c l fun y => { y with members := tdel y.members slot }
    if (logicalOf s1 c l).members.isEmpty then
      getsAgain (announce (modLogical s1 c l fun y => { y with paced := false, ended := true }) c l false)
        (quadOfKey (physKey s1 c l))
    else s1

/-- PACE (R137). -/
def execPace (s : State) : Host.Outcome State Fault Refusal :=
  run (fun s =>
    if !(paceable s) then .trap 0x02 0#64
    else let (c, l) := curLogical s; .ok () (joinPaced s c l s.cur.slot)) s

/-- UNPACE (R137, R139). -/
def execUnpace (s : State) : Host.Outcome State Fault Refusal :=
  run (fun s =>
    if !(paceable s) then .trap 0x02 0#64
    else let (c, l) := curLogical s; .ok () (leavePaced s c l s.cur.slot)) s

/-! ### PUTS and GETS -/

/-- PUTS (R140). -/
def execPuts (a : Name) (ring : BitVec 2) (off : BitVec 12) (s : State) : Host.Outcome State Fault Refusal :=
  run (fun s =>
    if !(paceable s) then .trap 0x02 0#64
    else
      (raisePoint s).seq fun s =>
        let (c, l) := curLogical s
        let x := logicalOf s c l
        match (if x.paced then tfind x.rings ring.toNat else none) with
        | none => .trap 0x02 (ring.setWidth 64)
        | some r =>
          (readName a s).bind fun v s =>
            let p := ringAddr s.cur.core r x.s off.toNat
            emitWrite (.store (storeBytes p 8 (wordOf v).toNat) false) (wordAddr p) false true s) s

/-- A GETS leaves for a peer in a STEPRD, behind what its reader's quad has queued for that device, where the ring's word may lie (R188 to R192);
until then it is looked at again. -/
def getsOut (s : State) (g : GetsReq) : State :=
  let d := agentDev s g.producer
  if (shownTo s g.core g.slot).any fun e => inPeer e.op.span.1 && peerDev e.op.span.1 == d then
    modQuad s (queueKey g.core) fun x => { x with stepRetry := x.stepRetry ++ [(s.uncore + 1, g)] }
  else sendPacket s d 0 0x05 (payStep g) (.gets g)

/-- GETS' body (R141, R145, R147). On a streamer it runs in every slot (log entry 107). -/
def getsBody (a b c : Name) (ring : BitVec 2) (off : BitVec 12) (s : State) : Ans Unit :=
  if decide (14 ≤ s.cur.slot) && isCore s.cur.core then .trap 0x02 0#64
  else
    (readName b s).bind fun p s => (readName c s).bind fun n s =>
      let t := (wordOf p).setWidth 32
      if !(agentValid s t && decide (agentUnit t < 64)) then .trap 0x0F (t.setWidth 64)
      else if !(agentHere s t) && unreachable s (agentDev s t) then .trap 0x0D (t.setWidth 64)
      else
        (deferWrite a none none false s).bind fun serial s =>
          let g : GetsReq :=
            { reader := selfAgent s s.cur.core s.cur.slot, core := s.cur.core, slot := s.cur.slot, uid := (curSlot s).uid,
              serial := serial, from' := none, producer := t, step := (wordOf n).setWidth 32, ring := ring, off := off }
          .waitIn (.gets serial) (if agentHere s t then post s (.getsArrival g) else getsOut s g)

/-- GETS. -/
def execGets (a b c : Name) (ring : BitVec 2) (off : BitVec 12) (s : State) : Host.Outcome State Fault Refusal :=
  run (getsBody a b c ring off) s

/-- GETS_ARRIVAL: a GETS reaches the producer's quad port (R141). -/
def execGetsArrival (g : GetsReq) (s : State) : Host.Outcome State Fault Refusal := .next (getsArrive s g)

/-- A GETS sent to its producer again, at this device's port or in a STEPRD to a peer (R143). -/
def getsResend (s : State) (g : GetsReq) : State :=
  if agentHere s g.producer then getsArrive s g
  else if getsLive s g then getsOut s g
  else s

/-- GETS_RETRY: a GETS that found the step wait list full is sent again after 64 uncore cycles (R143). -/
def execGetsRetry (g : GetsReq) (s : State) : Host.Outcome State Fault Refusal :=
  match s.quads.find? fun q => q.2.stepRetry.any fun e => e.2 == g && decide (e.1 ≤ s.uncore) with
  | none => .next s
  | some (q, _) => .next (getsResend (modQuad s q fun x => { x with stepRetry := x.stepRetry.filter fun e => e.2 != g }) g)

/-! ### Announces and count requests -/

/-- A list entry after an announce (R130, R139, R148). -/
def heard (s : State) (producer : Agent) (count : BitVec 32) (restart ended : Bool) (n : Neighbour) : Neighbour :=
  if !(sameUnit s n.agent producer) then n
  else if restart then { n with count := count, lost := false, ended := ended }
  else { n with count := if 0 < serialDiff count n.count then count else n.count, ended := n.ended || ended }

/-- ANNOUNCE_ARRIVAL: both lists of the core that the core map names hear of it; a core on neither list is not heard (R130, R131). -/
def execAnnounceArrival (dst producer : Agent) (count : BitVec 32) (restart ended : Bool) (s : State) :
    Host.Outcome State Fault Refusal :=
  if agentUnit dst < 64 then
    .next (modLogical s (agentCluster dst) (agentUnit dst) fun x =>
      { x with producers := tmap x.producers fun _ n => heard s producer count restart ended n
               subscribers := tmap x.subscribers fun _ n => heard s producer count restart ended n })
  else .next s

/-- COUNT_REQUEST: the named core answers by announcing its current F (R130). -/
def execCountRequest (dst subscriber : Agent) (s : State) : Host.Outcome State Fault Refusal :=
  if agentUnit dst < 64 then
    let c := agentCluster dst
    let l := agentUnit dst
    let x := logicalOf s c l
    .next (announceTo s (coreAgent s c l) subscriber x.f false x.ended)
  else .next s

end Sys2Proof.Machine
end

