-- ==== Sys2Proof/Machine/Husk.lean ====
section
/-! DEFINITION. Husks (R117 to R122): what a husk and its spill hold, writing one, checking one, and the strand that it becomes again. -/

namespace Sys2Proof.Machine

/-! ### Ending a strand's hold on its slot -/

/-- The slot without its strand (R112): when it last issued is kept, and its staging record, which only seeding clears (R263). -/
def emptySlot (x : Slot) : Slot := { lastIssue := x.lastIssue, lastYield := x.lastYield, stage := x.stage }

/-- A slot freed: its names and vector ids released, its sequencer ownership ended (R45, R112, R122). -/
def freeSlotOf (s : State) (k i : Nat) : State :=
  namesFreed (modSlot (endOwnership (withdraw s k i) k i) k i emptySlot) k

/-- Whether a strand has matrix commands that have not completed (R262, R296). -/
def matrixBusy (s : State) (k i : Nat) : Bool :=
  let m := (coreOf s k).mx
  let mine := fun (c : MCmd) => c.slot == i && c.uid == (slotOf s k i).uid
  m.queue.any mine || (match m.exec with | some e => mine e.cmd | none => false)

/-! ### What a husk holds -/

/-- The WAIT code of a strand (R119; log entry 94). -/
def waitCode (x : Slot) : Nat :=
  match x.status with
  | .parked w =>
    match w with
    | .queueRead _ _ => 1
    | .queueWrite _ _ => 2
    | .fullEmpty _ => 3
    | .gets _ => 4
    | .step => 5
    | .xwait _ => 6
    | .barrier => 8
    | .align => 9
    | _ => 10
  | .sleep => 7
  | .stopped .trapped | .stopped .sealed => 11
  | .stopped .halted | .free | .ready => 0

/-- Where a strand that is husked as it stands goes on, and the WAIT code of its husk (R95, R119): off an ALIGN it goes on at next, as one that
runs (log entry 94), and otherwise it re-executes the instruction that waited. -/
def huskAt (x : Slot) : Word × Nat :=
  match x.status with
  | .parked .align => (x.nextPc, 0)
  | _ => (x.pc, waitCode x)

/-- A list of bytes padded with zeros to a multiple of n. -/
def padTo (n : Nat) (l : List Byte) : List Byte := l ++ List.replicate ((n - l.length % n) % n) 0#8

/-- The value of a name as a spill holds it: sign-extended if signed (R118). -/
def spillValue (e : NameEntry) : Word := wordOf e.value

/-- The spill of a strand (R118). -/
def spillBytes (x : Slot) : List Byte :=
  padTo 64 ((spillImage x).flatMap fun p => toBytes 2 p.toNat)
    ++ padTo 128 (([x.w0, x.w1, x.w2, x.w3] ++ x.names.map fun e => spillValue e.2).flatMap fun w => toBytes 8 w.toNat)
    ++ x.vecs.flatMap fun e => toBytes 128 e.2.data.toNat

/-- The words of a husk record (R117). A strand without a launch has LAUNCH, MAPIDX and OWNER 0, and one of a supervisor core STEP 0 (log entry
106). -/
def huskRecord (s : State) (k i : Nat) (pc : Word) (wait : Nat) (hw counted : Bool) (spill : Word) : List Word :=
  let x := slotOf s k i
  let hflags := (if x.event then 1 else 0) + (if counted then 2 else 0) + (if hw then 4 else 0)
  let step := if isCore k then (logicalOf s (clusterOfKey k) (unitId s k)).s.toNat else 0
  [pc,
   BitVec.ofNat 64 ((selfAgent s k i).toNat * 2 ^ 32 + step),
   BitVec.ofNat 64 (x.mapIdx % 2 ^ 16 * 2 ^ 32 + x.launch.getD 0 % 2 ^ 32),
   x.lnk,
   BitVec.ofNat 64 (hflags * 2 ^ 32 + wait * 2 ^ 24 + x.owner.getD 0 % 64 * 2 ^ 16 + x.rm.toNat * 2 ^ 8 + x.flags.toNat),
   x.tvec,
   BitVec.ofNat 64 (spillBytes x).length,
   spill]

/-! ### Hardware husks -/

/-- A barrier waiter leaves its barrier, and the unit keeps its record (R209). -/
def leaveBarrier (s : State) (k i : Nat) : State :=
  match (slotOf s k i).barWait with
  | [] => s
  | w :: _ =>
    modCluster (modSlot s k i fun x => { x with barWait := [] }) (clusterOfKey k) fun c =>
      { c with barRecords := c.barRecords ++ [⟨selfAgent s k i, w.bar, w.gen, w.cancelled⟩] }

/-- The paced set as the member in a slot is husked: it keeps its membership, under a key that leaves the slot to others (R146). -/
def huskMember (t : Tab Member) (i : Nat) : Tab Member :=
  match tfind t i with
  | none => t
  | some m => tput (tdel t i) (16 * (t.foldl (fun n e => max n (e.1 / 16)) 0 + 1) + i) { m with husked := true }

/-- A strand taken by hardware (R122, R146, R165, R209, R259, R296): it leaves what it waits for, its paced membership stays behind as
husked, and its slot is FREE. The husk's record words, with its SPILL address, and its spill are the answer's other parts. -/
def takeHusk (s : State) (k i : Nat) (pc : Word) (wait : Nat) (spill : Word) : State × List Word × List Byte :=
  let x := slotOf s k i
  let counted := !x.barWait.isEmpty || x.barCounted
  let r := huskRecord s k i pc wait true counted spill
  let b := spillBytes x
  let c := clusterOfKey k
  let l := unitId s k
  let s1 := leaveBarrier s k i
  let s2 := modLogical s1 c l fun y => { y with members := huskMember y.members i }
  let s3 := match x.launch with
    | some n => modLaunch s2 n fun y => { y with husks := y.husks + 1 }
    | none => s2
  (freeSlotOf s3 k i, r, b)

/-- Bytes sent to a peer's memory in WRITE packets of at most 512 data bytes (R334). -/
def sendBytes (n : Nat) (s : State) (pa : Nat) (bs : List Byte) : State :=
  match n with
  | 0 => s
  | m + 1 =>
    if bs.isEmpty then s
    else sendBytes m (sendPacket s (peerDev pa) 0 0x02 (payWrite (peerOff pa) (bs.take 512)) .reply) (pa + 512) (bs.drop 512)

/-- Bytes of hardware written to physical memory, behind an atomic that is parked on one of their words (R205) and the accesses that wait behind it. -/
def writePhys (s : State) (pa : Nat) (bs : List Byte) : State :=
  let l : List MByte := bs.zipIdx.map fun e => { addr := pa + e.2, val := e.1 }
  if inPeer pa then sendBytes bs.length s pa bs
  else if wordBlocked s pa bs.length || (quadOf s outsideQueue).wq.any fun e => e.op.touches pa bs.length then emitOutside s (.store l false) none
  else performStore s l false

/-- A write of hardware on behalf of a strand put into its quad's write queue. -/
def queuePhys (s : State) (k i uid pa : Nat) (bs : List Byte) (rel : Bool) : State :=
  let e : WEntry := { serial := s.serial, op := .store (bs.zipIdx.map fun e => { addr := pa + e.2, val := e.1 }) false, core := k, slot := i, uid := uid,
                      va := BitVec.ofNat 64 pa, rel := rel, after := if rel then releaseSet s k i uid else [] }
  { modQuad s (queueKey k) (fun x => { x with wq := x.wq ++ [e] }) with serial := s.serial + 1 }

/-- A hardware husk of a strand written at physical addresses (R122): the spill, and then the record, which as a release at device scope follows
the strand's writes, those that a port holds among them (R165, R191, R193). -/
def writeHusk (s : State) (k i uid ra spill : Nat) (words : List Word) (bytes : List Byte) : State :=
  queuePhys (queuePhys s k i uid spill bytes false) k i uid ra (words.flatMap fun w => toBytes 8 w.toNat) true

/-- Live work strands of a core. -/
def workStrands (s : State) (k : Nat) : Nat := ((coreOf s k).slots.filter fun e => decide (e.1 < 14) && e.2.status != .free).length

/-- Whether a migration request is pending for a core (R296). -/
def migrationDue (s : State) (k : Nat) : Bool :=
  let c := clusterOf s (clusterOfKey k)
  isCore k && c.migPend && c.migCore == unitId s k

/-- The queue that is pre-empting a strand, if its owner is in that state (R297, R326). -/
def preemptingQueue (s : State) (k i : Nat) : Option Nat :=
  if isCore k && decide (i < 14) then
    match (slotOf s k i).owner with
    | some q => if (queueOf s q).state == 2 then some q else none
    | none => none
  else none

/-- Whether hardware is to husk a strand at its next husking point. -/
def huskDue (s : State) (k i : Nat) : Bool :=
  (migrationDue s k && decide (i < 14)) || (preemptingQueue s k i).isSome

/-- The write-back that a strand's own wait keeps open: it goes when the strand is withdrawn (R165). -/
def ownWait (x : Slot) : Nat :=
  match x.status with
  | .parked (.fullEmpty n) | .parked (.gets n) => n
  | _ => 0

/-- Whether the values on their way to a strand's names have arrived, but for the one it waits for (R54). -/
def valuesIn (s : State) (k i : Nat) : Bool :=
  let c := coreOf s k
  let x := slotOf s k i
  !((pendingWbs c).any fun w => w.slot == i && w.uid == x.uid && w.serial != ownWait x)
    && !(c.queues.any fun d => d.2.vfrom.any fun v => v.slot == i)

/-- Whether a strand's values, run and matrix commands let hardware husk it (R54, R259, R262, R296), and its writes on their way, with room in its
write queue for the husk. A full/empty write that a port holds stays there whatever becomes of the strand (R165) and does not keep it from being
husked; the husk's record follows it (R193, log entry 86). -/
def huskable (s : State) (k i : Nat) : Bool :=
  let x := slotOf s k i
  valuesIn s k i && !(runBusy s k i) && !(matrixBusy s k i) && !(onWay s k i x.uid (x.fenced.getD s.serial)) && decide ((queueFor s k).length ≤ 30)

/-- A strand husked for the migration or pre-emption that wants it (R122, R296, R297, R361): a migration writes the husk in its area and
tells the supervisor; a pre-emption keeps it for the save area. -/
def huskFor (s : State) (k i : Nat) (pc : Word) (wait : Nat) : State :=
  let c := clusterOfKey k
  if migrationDue s k then
    let h := (clusterOf s c).migArea
    let ra := h + 64 * i
    let spill := h + 1024 + 11264 * i
    let uid := (slotOf s k i).uid
    let me := selfAgent s k i
    let (s1, words, bytes) := takeHusk s k i pc wait (BitVec.ofNat 64 spill)
    let s2 := writeHusk s1 k i uid (localPa s ra) (localPa s spill) words bytes
    tellSupervisor s2 c me [s.dev.fwMigrate, me.setWidth 64, BitVec.ofNat 64 ra, BitVec.ofNat 64 (workStrands s2 k)] (some (k, i, uid))
  else
    match preemptingQueue s k i with
    | none => s
    | some q =>
      let l := releaseSet s k i (slotOf s k i).uid
      let (s1, words, bytes) := takeHusk s k i pc wait 0#64
      modQueue s1 q fun y =>
        { y with husked := y.husked ++ [(words.flatMap fun w => toBytes 8 w.toNat, bytes)], follows := y.follows ++ l }

/-! ### HUSK.SAVE -/

/-- Physical addresses of consecutive 64-byte blocks of virtual memory; a block that does not translate traps with its address (R170). -/
def translateBlocks (va : Word) (n : Nat) (need : Need) (s : State) : Ans (List Nat) :=
  match n with
  | 0 => .ok [] s
  | m + 1 =>
    (translateCur va need s).bind fun p s => (translateBlocks (va + 64#64) m need s).bind fun r s => .ok (p :: r) s

/-- Blocks joined to runs that are contiguous in physical memory: (address, bytes). -/
def joinRuns (l : List (Nat × List Byte)) : List (Nat × List Byte) :=
  l.foldr (fun e acc => match acc with
    | (a, bs) :: r => if e.1 + e.2.length == a then (e.1, e.2 ++ bs) :: r else e :: acc
    | [] => [e]) []

/-- Bytes cut into blocks of 64. -/
def cut64 (n : Nat) (bs : List Byte) : List (List Byte) :=
  match n with
  | 0 => []
  | m + 1 => bs.take 64 :: cut64 m (bs.drop 64)

/-- Runs of bytes stored in order (R120), held like every store of a core by MEM.STOREHOLD (R184; R353 does not list them: log entry 87). -/
def emitRuns (l : List (Nat × List Byte)) (va : Word) (rel : Bool) (s : State) : Ans Unit :=
  match l with
  | [] => .ok () s
  | (a, bs) :: r =>
    (emitWrite (.store (bs.zipIdx.map fun e => { addr := a + e.2, val := e.1 }) false) va rel true s).seq (emitRuns r va rel)

/-- Where a husk instruction's record lies (R120, R121): its physical address, and the address that an error names. -/
def huskPlace (global : Bool) (b c : Name) (disp : BitVec 16) (need : Need) (s : State) : Ans (Nat × Word) :=
  if global then
    (readName b s).bind fun x s => (readName c s).bind fun y s =>
      let va := wordOf (x + y + disp.toInt)
      let va := BitVec.ofNat 64 (va.toNat / 64 * 64)
      if isSupervisor s.cur.core && need == .load then .ok (localPa s va.toNat, va) s
      else (translateCur va need s).bind fun p s => .ok (p, va) s
  else
    (readWindow b false s).bind fun w s => (readName c s).bind fun y s =>
      let p := winAddr s.cur.core w (y + disp.toInt) 64
      .ok (p, BitVec.ofNat 64 p) s

/-- HUSK.SAVE and HUSK.SAVEG (R120). A poisoned word 7 traps 0x0E (log entry 108). -/
def huskSave (global : Bool) (b c : Name) (disp : BitVec 16) (s : State) : Ans Unit :=
  if decide (14 ≤ s.cur.slot) then .trap 0x02 0#64
  else
    (raisePoint s).seq fun s => (awaitNames s).seq fun s =>
      (huskPlace global b c disp .store s).bind fun ra s =>
        (readClean (ra.1 + 56) 8 (ra.2 + 56#64) s).readThen fun sp s =>
          let spv := BitVec.ofNat 64 sp
          if sp % 64 ≠ 0 then .trap 0x02 spv
          else
            let bytes := spillBytes (curSlot s)
            let n := (bytes.length + 63) / 64
            (translateBlocks spv n .store s).bind fun ps s =>
              (emitRuns (joinRuns (ps.zip (cut64 n bytes))) spv false s).seq fun s =>
                let words := huskRecord s s.cur.core s.cur.slot (curNext s) 0 false false spv
                emitRuns [(ra.1, words.flatMap fun w => toBytes 8 w.toNat)] ra.2 true s

/-- HUSK.SAVE. -/
def execHuskSave (b c : Name) (disp : BitVec 16) (s : State) : Host.Outcome State Fault Refusal := run (huskSave false b c disp) s
/-- HUSK.SAVEG. -/
def execHuskSaveg (b c : Name) (disp : BitVec 16) (s : State) : Host.Outcome State Fault Refusal := run (huskSave true b c disp) s

/-! ### HUSK.RUN -/

/-- The first word of a record that R121's checks on the record refuse. -/
def badHuskWord (ws : List Word) : Option Nat :=
  let w := fun n => (ws.getD n 0#64).toNat
  let w4 := w 4
  if bitsOf (w 2) 63 48 != 0 then some 16
  else if bitsOf w4 63 40 != 0 || bitsOf w4 39 35 != 0 || bitsOf w4 23 22 != 0 || bitsOf w4 15 11 != 0
      || decide (12 ≤ bitsOf w4 31 24) || decide (5 ≤ bitsOf w4 10 8) then some 32
  else if bitsOf (w 6) 63 32 != 0 then some 48
  else if bitsOf (w 7) 5 0 != 0 then some 56
  else none

/-- How a spill is read: physically, or under a launch's tree (R121). -/
structure SpillAt where
  base : Word
  phys : Bool
  launch : Option Nat
deriving DecidableEq, Repr

/-- n bytes of a spill from an offset. -/
def spillRead (sp : SpillAt) (off n : Nat) (s : State) : Ans Nat :=
  let va := sp.base + BitVec.ofNat 64 off
  if sp.phys then readClean (localPa s va.toNat) n va s
  else (translateFor sp.launch va .load s).bind fun p t => readClean p n va t

/-- n units of `size` bytes of a spill. -/
def spillReads (sp : SpillAt) (off size n : Nat) (s : State) : Ans (List Nat) :=
  match n with
  | 0 => .ok [] s
  | m + 1 =>
    (spillRead sp off size s).bind fun v s => (spillReads sp (off + size) size m s).bind fun r s => .ok (v :: r) s

/-- A rounded-up length. -/
def roundUp (n m : Nat) : Nat := (n + m - 1) / m * m

/-- What a checked husk holds. -/
structure HuskData where
  words : List Word
  img : Image
  wins : List Word
  vals : List Int
  rows : List (BitVec 1024)
deriving DecidableEq, Repr

/-- Whether a husk was taken in STEP: its WAIT code is 5 (R119, R146). -/
def HuskData.inStep (d : HuskData) : Bool := bitsOf (d.words.getD 4 0#64).toNat 31 24 == 5

/-- The values of a spill under its declarations; the byte offset of the first that does not fit (R121). -/
def spillValues (ds : List Decl) (vs : List Nat) (off : Nat) : Sum Nat (List Int) :=
  match ds, vs with
  | d :: dr, v :: vr =>
    let x := readAs 64 d.signed v
    if fits x d.width d.signed then
      match spillValues dr vr (off + 8) with
      | .inl o => .inl o
      | .inr r => .inr (x :: r)
    else .inl off
  | _, _ => .inr []

/-- The spill read and checked (R121): the image, then everything that the image says the spill holds, before a value or SPILLBYTES is checked
(log entry 92). -/
def readSpill (words : List Word) (sp : SpillAt) (s : State) : Ans HuskData :=
  (spillReads sp 0 2 2 s).bind fun hd s =>
    let n := hd.getD 0 0
    let m := hd.getD 1 0
    (spillReads sp 0 2 (imageLength n m) s).readThen fun ps s =>
      match parseImage true false (ps.map (BitVec.ofNat 16)) with
      | .inl o => .trap 0x02 (BitVec.ofNat 64 (64 + o))
      | .inr img =>
        let rows := (img.vectors.map (·.count)).sum
        let i := roundUp (4 + 2 * (n + m)) 64
        let v := roundUp (8 * (4 + n)) 128
        (spillReads sp i 8 (4 + n) s).bind fun vs s => (spillReads sp (i + v) 8 (16 * rows) s).readThen fun rs s =>
          match spillValues img.scalars (vs.drop 4) (i + 32) with
          | .inl o => .trap 0x02 (BitVec.ofNat 64 (64 + o))
          | .inr xs =>
            if (words.getD 6 0#64).toNat % 2 ^ 32 != i + v + 128 * rows then .trap 0x02 48#64
            else
              let row := fun r => rowOfWords (((rs.drop (16 * r)).take 16).map (BitVec.ofNat 64))
              .ok { words := words, img := img, wins := (vs.take 4).map (BitVec.ofNat 64), vals := xs,
                    rows := (List.range rows).map row } s

/-- A strand's names and vector ids filled with a husk's values. -/
def fillHusk (x : Slot) (d : HuskData) : Slot :=
  { x with names := (x.names.zip d.vals).map fun e => (e.1.1, e.1.2.store e.2)
           vecs := (x.vecs.zip d.rows).map fun e => (e.1.1, { e.1.2 with data := e.2 }) }

/-- A slot given the rest of what a husk carries; the trap registers are cleared (R121). Its FLAGS are not counted in CLUS.FLAGUNION (log entry 40).
`came` is the PC of the HUSK.RUN that transfers control to
the husk's PC, which a trap of cause 0x01 there reports (R25, R100). -/
def wearHusk (x : Slot) (d : HuskData) (came : Word) : Slot :=
  let w := fun n => d.words.getD n 0#64
  let w4 := (w 4).toNat
  { fillHusk x.settled d with
    w0 := d.wins.getD 0 0#64, w1 := d.wins.getD 1 0#64, w2 := d.wins.getD 2 0#64, w3 := d.wins.getD 3 0#64
    lnk := w 3, tvec := w 5, rm := BitVec.ofNat 3 (bitsOf w4 10 8), flags := BitVec.ofNat 8 (bitsOf w4 7 0)
    owner := some (bitsOf w4 21 16), event := bitsOf w4 32 32 == 1, barCounted := bitsOf w4 33 33 == 1
    cause := 0#8, active := false, resume := false, trapVal := 0#64, trapPc := 0#64
    mapIdx := bitsOf (w 2).toNat 47 32, pc := w 0, from' := came, atLine := none, barWait := [], marks := [] }

/-- The step state of a core restarted after its sealing (R148): S and F from the husk's STEP field, PHASE RUN, and paced as it was. -/
def restartSteps (s : State) (c l : Nat) (step : BitVec 32) : State :=
  modLogical s c l fun y =>
    match y.restart with
    | none => y
    | some p => { y with restart := none, paced := y.paced || p, ended := y.ended && !p, held := false, s := step, f := step }

/-- The husked membership that a resumed strand takes over (R146): one that left the slot it had, else the first. -/
def huskedOf (t : Tab Member) (old : Nat) : Option (Nat × Member) :=
  (t.find? fun e => e.2.husked && e.1 % 16 == old).orElse fun _ => t.find? fun e => e.2.husked

/-- A resumed strand's place in the paced set (R146, R148): on a core restarted after sealing S and F are restored first and announced last; it
takes over a husked membership, its own slot's first, or else joins a paced core. One that had arrived and was husked in STEP is waited for until it
executes that STEP again. -/
def resumePaced (s : State) (c l slot old : Nat) (step : BitVec 32) (inStep : Bool) : State :=
  let s1 := restartSteps s c l step
  let x := logicalOf s1 c l
  let uid := (slotOf s1 (physKey s1 c l) slot).uid
  let s2 := match huskedOf x.members old with
    | some (j, m) =>
      modLogical s1 c l fun y => { y with members := tput (tdel y.members j) slot { m with husked := false, rejoins := inStep && m.arrived, uids := uid :: m.uids } }
    | none => if x.paced then joinPaced s1 c l slot else s1
  if (logicalOf s c l).restart.isSome then announce s2 c l true else s2

/-- HUSK.RUN in a work slot: the issuing strand becomes the husked strand (R121). -/
def becomeHusk (d : HuskData) (s : State) : Ans Unit :=
  let k := s.cur.core
  let i := s.cur.slot
  (awaitNames s).seq fun s =>
    match placeMap s k i d.img with
    | .inl n => .trap 0x06 (BitVec.ofNat 64 n)
    | .inr t =>
      let t1 := modSlot (namesFreed (endOwnership t k i) k) k i fun x => wearHusk x d s.cur.pc
      let w1 := (d.words.getD 1 0#64).toNat
      .ok () (if isCore k then
        resumePaced t1 (clusterOfKey k) (unitId t1 k) i (bitsOf w1 58 55) (BitVec.ofNat 32 (bitsOf w1 31 0)) d.inStep else t1)

/-- The slot that a husk takes on a core: the one that AGENT names if that is FREE, else the lowest FREE one among 0 to 13 (R121). A record that
names a handler slot, which no husk is taken from, is read as it stands (log entry 113). -/
def huskSlotOn (s : State) (k want : Nat) : Option Nat :=
  let free := fun j => (slotOf s k j).status == .free
  if free want then some want else (List.range 14).find? free

/-- The transfers that a husked strand of a launch had issued follow it to its new slot (R223). -/
def takeXfers (s : State) (c l launch old slot uid : Nat) : State :=
  let live := fun (e : Xfer) => (slotOf s (physKey s c l) e.slot).uid == e.uid && (slotOf s (physKey s c l) e.slot).status != .free
  modLogical s c l fun x =>
    { x with xfers := x.xfers.map fun e => if e.2.slot == old && e.2.launch == some launch && !e.2.gone && !(live e.2) then (e.1, { e.2 with slot := slot, uid := uid }) else e }

/-! ### The handler map in force (R108) -/

/-- Logical cores that a launch names: cluster and core (R322). -/
def launchCores (x : Launch) : List (Nat × Nat) :=
  ((List.range 64).filter fun c => x.cmask.getLsbD c).flatMap fun c =>
    ((List.range 64).filter fun k => x.kmask.getLsbD k).map fun k => (c, k)

/-- Strands of a launch started on a logical core (R104). -/
def startedOn (x : Launch) (c k : Nat) : Nat := tget x.started 0 (128 * c + k)

/-- Whether a launch is placed on a logical core. -/
def placedOn (x : Launch) (c l : Nat) : Bool := (tfind x.started (128 * c + l)).isSome

/-- Whether a launch has strands left to start on a logical core (R104). -/
def unstartedOn (x : Launch) (c l : Nat) : Bool := (launchCores x).contains (c, l) && decide (startedOn x c l < x.quota)

/-- Whether some launch is placed on a core and has not yet started all its strands there. -/
def startsPending (s : State) (k : Nat) : Bool :=
  let c := clusterOfKey k
  let l := unitId s k
  s.launches.any fun e => e.2.ending.isNone && placedOn e.2 c l && unstartedOn e.2 c l

/-- Whether a launch has a transfer in flight, on whichever core it was issued, or a completion queued or running (R224). -/
def transfersLeft (s : State) (l : Nat) : Bool :=
  (s.clusters.any fun c => c.2.logicals.any fun y =>
      (y.2.xfers.any fun e => e.2.launch == some l && e.2.result.isNone) || y.2.comps.any fun e => e.launch == some l)
    || s.cores.any fun e => e.2.slots.any fun x => x.1 == 14 && live x.2 && x.2.launch == some l

/-- The handler map in force on a core (R108): it leaves force when the core has no live work strand, no launch placed there has strands
to start, and no launch placed there has a transfer in flight or a completion queued or running. -/
def mapInForce (s : State) (k : Nat) : Option (List Parcel) :=
  let c := clusterOfKey k
  let l := unitId s k
  let y := logicalOf s c l
  let busy := decide (0 < workStrands s k) || startsPending s k || (y.xfers.any fun e => e.2.result.isNone) || !y.comps.isEmpty
    || live (slotOf s k 14) || s.launches.any fun e => placedOn e.2 c l && transfersLeft s e.1
  if busy then (coreOf s k).hmap else none

/-- The names that a handler map declares in a handler slot, all zero (R47, R108); none without a map. -/
def mapNames (h : Option (List Parcel)) (i : Nat) : Tab NameEntry :=
  match h with
  | none => []
  | some ps =>
    match parseImage false true ps with
    | .inl _ => []
    | .inr img => match seatNames [] (domainOf i) (freshNames img.scalars) with | .inl _ => [] | .inr t => t

/-- An idle handler slot given a map's names. -/
def seatMap (h : Option (List Parcel)) (i : Nat) (x : Slot) : Slot := if live x then x else { x with names := mapNames h i, vecs := [] }

/-- A handler map put in the place of a core's, or none: idle handler slots get its names, all zero (R47, R108). -/
def forceMap (s : State) (k : Nat) (h : Option (List Parcel)) : State :=
  modCore (modSlot (modSlot s k 14 (seatMap h 14)) k 15 (seatMap h 15)) k fun c => { c with hmap := h }

/-- A handler map that has left force is gone, and the names of idle handler slots with it (R108, R212). -/
def dropMap (s : State) (k : Nat) : State := if (mapInForce s k).isSome then s else forceMap s k none

/-- The maps that have left force gone from every core, before a new transfer keeps its launch's maps in force (R108, R224). -/
def dropMaps (s : State) : State := (s.cores.filter fun e => isCore e.1 && e.2.hmap.isSome).foldl (fun t e => dropMap t e.1) s

/-! ### The strand that a husk becomes -/

/-- HUSK.RUN on a supervisor core: the husk starts on the logical core that AGENT names (R121, R362). The spec gives no TRAPVAL where AGENT lies
outside the cluster, nor cause and TRAPVAL where the names find no place: the model reports AGENT, and 0x06 with the first id that finds
none (log entry 79). A handler map that has left force with the core's last strand does not come back with this one (R108). No instruction of the strand transferred control to the husk's PC: a trap of cause 0x01 there reports 0 (log entry 74). -/
def startHusk (d : HuskData) (s : State) : Ans Unit :=
  let w1 := (d.words.getD 1 0#64).toNat
  let a := BitVec.ofNat 32 (w1 / 2 ^ 32)
  if !(agentValid s a && agentHere s a && decide (agentUnit a < 64) && agentCluster a == clusterOfKey s.cur.core) then
    .trap 0x09 (a.setWidth 64)
  else
    let k := agentKey s a
    (awaitDrained 4 s).seq fun s =>
      match huskSlotOn s k (agentSlot a) with
      | none => .waitIn (.slotFree k) s
      | some i =>
        let s := dropMap s k
        match placeMap s k i d.img with
        | .inl n => .trap 0x06 (BitVec.ofNat 64 n)
        | .inr t =>
          let l := bitsOf (d.words.getD 2 0#64).toNat 31 0
          let t1 := modSlot t k i fun x => atRest t k { wearHusk { x with uid := t.serial } d 0#64 with launch := some l, status := .ready }
          let t2 := modLaunch { t1 with serial := t1.serial + 1 } l fun y => { y with husks := y.husks - 1, saved := false }
          let t3 := takeXfers t2 (clusterOfKey k) (agentUnit a) l (agentSlot a) i t.serial
          .ok () (promptPause s (resumePaced t3 (clusterOfKey k) (agentUnit a) i (agentSlot a) (BitVec.ofNat 32 (bitsOf w1 31 0)) d.inStep) k)

/-- The checks on LAUNCH and SPHYS (R121): the launch whose tree the spill is read under, or a trap. -/
def huskLaunch (words : List Word) (s : State) : Ans SpillAt :=
  let l := bitsOf (words.getD 2 0#64).toNat 31 0
  let phys := bitsOf (words.getD 4 0#64).toNat 34 34 == 1
  let sp := words.getD 7 0#64
  if isSupervisor s.cur.core then
    match tfind s.launches l with
    | none => .trap 0x09 (BitVec.ofNat 64 l)
    | some x => if x.ending.isSome then .trap 0x09 (BitVec.ofNat 64 l) else .ok { base := sp, phys := phys, launch := some l } s
  else if (curSlot s).launch.getD 0 % 2 ^ 32 != l then .trap 0x09 (BitVec.ofNat 64 l)
  else if phys then .trap 0x09 sp
  else .ok { base := sp, phys := false, launch := (curSlot s).launch } s

/-- A launch that is to end, with the record it will post; the first reason stays (R323). -/
def markEnding (s : State) (l event grade cause : Nat) (agent : Agent) (value : Word) : State :=
  modLaunch s l fun x => if x.ending.isSome then x else { x with ending := some (event, grade, cause, agent, value) }

/-- The agent id of a record that names no strand (R323). -/
def noAgent : Agent := 0xFFFFFFFF#32

/-- Whether a HUSK.RUNG at a physical address is the restart of the migration routine: one of the fourteen records of the area that firmware gave
the cluster for a migration (R361, R364). -/
def migrationRestart (s : State) (global : Bool) (a : Nat) : Bool :=
  let h := localPa s (clusterOf s (clusterOfKey s.cur.core)).migArea
  global && isSupervisor s.cur.core && h != 0 && a % 64 == h % 64 && decide (h ≤ a) && decide (a < h + 64 * 14)

/-- What the migration routine learns of a restart that traps: the launch of the record, the cause and the TRAPVAL (R364). -/
def noteFailure (s : State) (l cause : Nat) (val : Word) : State :=
  modCluster s (clusterOfKey s.cur.core) fun c => { c with failures := c.failures ++ [(l, cause, val)] }

/-- A restart of the migration routine that fails a check of R121, a spill read that faults among them, or finds no place: the instruction traps and
changes nothing of the launch (R121). The routine, which does not retry it, has the failure noted and will end the launch in a step of its own
(R364; log entry 93). -/
def failRestart (l : Nat) (s : State) (a : Ans Unit) : Ans Unit :=
  match a with
  | .trap c v => .trapRead c v (noteFailure s l c v)
  | .trapIn c v t => .trapIn c v (noteFailure t l c v)
  | .trapRead c v t => .trapRead c v (noteFailure t l c v)
  | x => x

/-- The record's checks and the strand that it becomes (R121). -/
def huskFrom (words : List Word) (s : State) : Ans Unit :=
  match badHuskWord words with
  | some o => .trap 0x02 (BitVec.ofNat 64 o)
  | none =>
    (huskLaunch words s).bind fun sp s => (readSpill words sp s).readThen fun d s =>
      if isSupervisor s.cur.core then startHusk d s else becomeHusk d s

/-- HUSK.RUN and HUSK.RUNG (R121). -/
def huskRun (global : Bool) (b c : Name) (disp : BitVec 16) (s : State) : Ans Unit :=
  if decide (14 ≤ s.cur.slot) then .trap 0x02 0#64
  else
    (huskPlace global b c disp .load s).bind fun ra s => (readWords ra.1 ra.2 8 s).readThen fun words s =>
      if migrationRestart s global ra.1 then failRestart (bitsOf (words.getD 2 0#64).toNat 31 0) s (huskFrom words s) else huskFrom words s

/-- How a HUSK.RUN ends: in a work slot the strand stands at the husk's PC; a supervisor goes on. -/
def endHuskRun (body : State → Ans Unit) (s : State) : Host.Outcome State Fault Refusal :=
  if isSupervisor s.cur.core then run body s else runEnd body s

/-- HUSK.RUN. -/
def execHuskRun (b c : Name) (disp : BitVec 16) (s : State) : Host.Outcome State Fault Refusal :=
  endHuskRun (huskRun false b c disp) s
/-- HUSK.RUNG. -/
def execHuskRung (b c : Name) (disp : BitVec 16) (s : State) : Host.Outcome State Fault Refusal :=
  endHuskRun (huskRun true b c disp) s

end Sys2Proof.Machine
end

