-- ==== Sys2Proof/Machine/Strand.lean ====
section
/-! DEFINITION. The strand class (R101 to R116, R122): YIELD, EXIT, HRET, WFE, FORK, events, migration points. -/

namespace Sys2Proof.Machine

/-- NOP (R33). -/
def execNop (s : State) : Host.Outcome State Fault Refusal := run (.ok ()) s

/-- YIELD (R102, R111): the issue latch has noted that this issue was YIELD; nothing else changes. -/
def execYield (s : State) : Host.Outcome State Fault Refusal := run (.ok ()) s

/-! ### EXIT and HRET -/

/-- Whether an incomplete VTOQ of a slot has words to push (R112, R116, R253). -/
def pushing (s : State) (k i : Nat) : Bool := (coreOf s k).queues.any fun d => d.2.vto.any fun v => v.slot == i

/-- Whether EXIT can go on (R112). -/
def exitReady (s : State) (k i : Nat) : Bool := namesQuiet s k i && !(pushing s k i)

/-- Failed transfers of a strand that exits freed, and those in flight left without a strand (R224). -/
def dropFailed (s : State) (k i : Nat) : State :=
  let mine := fun (e : Xfer) => e.slot == i && e.uid == (slotOf s k i).uid && !e.gone
  modLogical s (clusterOfKey k) (unitId s k) fun x =>
    { x with xfers := (x.xfers.filter fun e => !(mine e.2 && e.2.result.isSome)).map fun e =>
        if mine e.2 then (e.1, { e.2 with gone := true }) else e }

/-- The inbox entry that a slot handles freed (R211, R221, R285). -/
def freeInbox (s : State) (k i : Nat) : State :=
  match (slotOf s k i).handling with
  | none => s
  | some e => modCore s k fun c => { c with inbox := c.inbox.filter fun x => x.entry != e }

/-- A strand ended (R112): as EXIT ends it once it need not wait. -/
def endStrand (s : State) (k i : Nat) : State := freeSlotOf (freeInbox (dropFailed s k i) k i) k i

/-- A paced strand's EXIT acts as UNPACE first (R137). -/
def unpaceStrand (s : State) (k i : Nat) : State :=
  if isCore k then leavePaced s (clusterOfKey k) (unitId s k) i else s

/-- EXIT (R112). -/
def execExit (s : State) : Host.Outcome State Fault Refusal :=
  runEnd (fun s =>
    if decide (14 ≤ s.cur.slot) then .trap 0x02 0#64
    else
      (raisePoint s).seq fun s =>
        let s1 := unpaceStrand s s.cur.core s.cur.slot
        if exitReady s1 s.cur.core s.cur.slot then .ok () (endStrand s1 s.cur.core s.cur.slot) else .waitIn .exit s1) s

/-- The slot of a handler that has ended its run: idle, its names and their values kept (R101, R107, R116), and all else that the slot holds (log
entry 98). -/
def idleHandler (x : Slot) : Slot := { x with status := .free, handling := none, launch := none }

/-- HRET (R116). The failed transfers of the run are freed as EXIT frees a strand's, so that none outlives the strand that holds it (R224). -/
def execHret (s : State) : Host.Outcome State Fault Refusal :=
  runEnd (fun s =>
    if decide (s.cur.slot < 14) then .trap 0x02 0#64
    else
      (raisePoint s).seq fun s =>
        if pushing s s.cur.core s.cur.slot then .waitIn .hret s
        else .ok () (modCur (freeInbox (dropFailed s s.cur.core s.cur.slot) s.cur.core s.cur.slot) idleHandler)) s

/-! ### Events -/

/-- WFE (R115): the latch is cleared, or the strand sleeps until it is set. -/
def execWfe (s : State) : Host.Outcome State Fault Refusal :=
  runEnd (fun s =>
    if decide (14 ≤ s.cur.slot) then .trap 0x02 0#64
    else if (curSlot s).event then .ok () (goTo (modCur s fun x => { x with event := false }) (curNext s))
    else .ok () (modCur s fun x => { x with status := .sleep, nextPc := nextPc s.cur.pc s.cur.h, fenced := some s.serial })) s

/-- EVSEND (R114). -/
def execEvsend (a : Name) (s : State) : Host.Outcome State Fault Refusal :=
  run (fun s => (raisePoint s).seq fun s => (readName a s).bind fun v s =>
    let t := (wordOf v).setWidth 32
    if !(agentValid s t) || (!(agentHere s t) && unreachable s (agentDev s t)) then .trap 0x0F (wordOf v)
    else if agentHere s t then .ok () (post s (.eventArrival t))
    else .ok () (sendHardware s t (selfAgent s s.cur.core s.cur.slot) [1#64])) s

/-- EVENT_ARRIVAL: the latch of the slot is set; a sleeping strand wakes and takes it; a FREE slot loses it (R114, R115). -/
def execEventArrival (target : Agent) (s : State) : Host.Outcome State Fault Refusal :=
  let k := agentKey s target
  let i := agentSlot target
  match (slotOf s k i).status with
  | .free => .next s
  | .sleep => .next (finishWait s k i)
  | _ => .next (modSlot s k i fun x => { x with event := true })

/-! ### FORK -/

/-- Strands of a launch on a core's work slots (R104). -/
def strandsOn (s : State) (k : Nat) (launch : Option Nat) : Nat :=
  ((coreOf s k).slots.filter fun e => decide (e.1 < 14) && e.2.status != .free && e.2.launch == launch).length

/-- Whether a launch's quota lets another of its strands onto a core; strands of no launch have none (R104, R113). -/
def quotaLeft (s : State) (k : Nat) (launch : Option Nat) : Bool :=
  match launch with
  | none => true
  | some l => decide (strandsOn s k launch < ((tfind s.launches l).map (·.quota)).getD 14)

/-- The lowest FREE work slot of a core. -/
def freeWork (s : State) (k : Nat) : Option Nat := (List.range 14).find? fun j => (slotOf s k j).status == .free

/-- The child's slot, in a FREE slot, before its names and vector ids are placed (R113). -/
def childSlot (s : State) (target : Word) (y : Slot) : Slot :=
  let x := curSlot s
  { emptySlot y with
    status := .ready, uid := s.serial, pc := target, from' := s.cur.pc, w0 := x.w0, w1 := x.w1, w2 := x.w2, w3 := x.w3, rm := x.rm,
    tvec := x.tvec, owner := x.owner, launch := x.launch, mapIdx := x.mapIdx }

/-- The child's declarations: the parent's, every name zero but name 0 (R113). -/
def childNames (x : Slot) (v : Int) : Tab NameEntry :=
  x.names.map fun e =>
    let z := { e.2 with bits := 0#64, poison := false }
    (e.1, if e.1 == 0 then (match fitTo v z.width z.signed z.mode with | some (u, _) => z.store u | none => z) else z)

/-- The child placed in a slot, or none when a name or vector id finds no place (R113). -/
def placeChild (s : State) (i : Nat) (v : Int) (target : Word) : Option State :=
  let k := s.cur.core
  let x := curSlot s
  let s1 := setSlot { s with serial := s.serial + 1 } k i (childSlot s target (slotOf s k i))
  match placeNames s1 k i (childNames x v) with
  | .inl _ => none
  | .inr t =>
    let free := if isCore k then rowsFree (rowsTaken t (quadOfKey k) k i false) else []
    match seatVecs free (x.vecs.map fun e => (e.1, e.2.ty, e.2.first)) with
    | .inl _ => none
    | .inr vs => some (modSlot t k i fun y => { y with vecs := vs })

/-- FORK's body (R113): a release at core scope (R193). -/
def forkBody (a b : Name) (t : Target) (s : State) : Ans Unit :=
  if decide (14 ≤ s.cur.slot) then .trap 0x02 0#64
  else
    let k := s.cur.core
    let n0 := tfind (curSlot s).names 0
    (require (n0.isSome || b == 240#8) 0x03 0#64 s).seq fun s => (readName b s).bind fun v s =>
      let fails := match n0 with | some e => (fitTo v e.width e.signed e.mode).isNone | none => false
      (require (!fails) 0x04 (wordOf v) s).seq fun s => (awaitDrained 1 s).seq fun s =>
        match (if quotaLeft s k (curSlot s).launch then freeWork s k else none) with
        | none => writeName a 0xFFFFFFFF s
        | some i =>
          match placeChild s i v (branchTarget s.cur.pc t) with
          | none => writeName a 0xFFFFFFFE s
          | some s1 => writeName a ((selfAgent s1 k i).toNat : Int) s1

/-- FORK. -/
def execFork (a b : Name) (t : Target) (s : State) : Host.Outcome State Fault Refusal := run (forkBody a b t) s

/-! ### MIGPT -/

/-- MIGPT (R122, R297): the strand is husked if a migration or pre-emption of its wants it, once its values, run and commands are in;
in a handler slot nothing happens (R109). It counts as issued in every slot (R363). -/
def execMigpt (s : State) : Host.Outcome State Fault Refusal :=
  runEnd (fun s =>
    let k := s.cur.core
    let i := s.cur.slot
    let counted := fun (t : State) => modCore t k fun c => { c with migpts := c.migpts + 1 }
    if decide (14 ≤ i) then .ok () (goTo (counted s) (curNext s))
    else
      (raisePoint s).seq fun s =>
        if !(huskDue s k i) then .ok () (goTo (counted s) (curNext s))
        else if huskable s k i then .ok () (huskFor (counted s) k i (curNext s) 0)
        else .waitIn .husk s) s

end Sys2Proof.Machine
end

