-- ==== Sys2Proof/Machine/Message.lean ====
section
/-! DEFINITION. The message class (R211 to R227): SEND, COPY, XWAIT, inboxes, handler starts, streamer requests and completions. -/

namespace Sys2Proof.Machine

/-! ### The outbound buffer (R215) -/

/-- Whether a slot finds an entry of its core's outbound buffer: six are shared, and slots 14 and 15 have one more each. -/
def outRoom (s : State) (k i : Nat) : Bool :=
  let l := (coreOf s k).outbuf
  let n := fun (j : Nat) => (l.filter fun e => e.slot == j).length
  let shared := l.length - min 1 (n 14) - min 1 (n 15)
  decide (shared < 6) || (i == 14 && n 14 == 0) || (i == 15 && n 15 == 0)

/-- A message put in the outbound buffer of the issuing strand's core; without an entry the slot is passed over. -/
def putOut (target : Agent) (launch : Option Nat) (words : List Word) (s : State) : Ans Unit :=
  let k := s.cur.core
  let i := s.cur.slot
  if outRoom s k i then
    let m : Message := { core := k, serial := s.serial, target := target, sender := selfAgent s k i, launch := launch, words := words }
    .ok () (modCore { s with serial := s.serial + 1 } k fun c =>
      { c with outbuf := c.outbuf ++ [{ msg := m, slot := i, uid := (curSlot s).uid }] })
  else .hold

/-- Whether an earlier entry of a buffer goes to the same target core (R215). -/
def earlierTo (s : State) (l : List OutEntry) (m : Message) : Bool :=
  (l.takeWhile fun e => e.msg.serial != m.serial).any fun e => sameUnit s e.msg.target m.target

/-! ### SEND (R213, R214) -/

/-- The payload words of a SEND: n words through a window, wrapping in it. -/
def payload (w : Word) (i n : Nat) (s : State) : Ans (List Word) :=
  match n with
  | 0 => .ok [] s
  | m + 1 =>
    (readWin w (8 * i) 8 s).bind fun v s => (payload w (i + 1) m s).bind fun vs s => .ok (BitVec.ofNat 64 v :: vs) s

/-- The payload of a SEND as its first issue read it (R214). -/
def snapshot (w : Word) (n : Nat) (s : State) : Ans (List Word) :=
  match (curSlot s).snap with
  | [] => payload w 0 n s
  | l => .ok l s

/-- The release of a SEND, waiting with its snapshot kept (R191, R214). -/
def releaseSend (rel : Bool) (scope : Nat) (ws : List Word) (s : State) : Ans Unit :=
  if rel then
    match awaitDrained scope s with
    | .waitIn w t => .waitIn w (modCur t fun x => { x with snap := ws })
    | a => a
  else .ok () s

/-- The launch that a message belongs to: none for a supervisor core or a streamer (R212). -/
def sendLaunch (s : State) : Option Nat := if isCore s.cur.core then (curSlot s).launch else none

/-- SEND's body. -/
def sendBody (scope : BitVec 3) (rel : BitVec 1) (b c : Name) (n : BitVec 7) (s : State) : Ans Unit :=
  (raisePoint s).seq fun s => (readName b s).bind fun v s => (readWindow c false s).bind fun w s =>
    let t := (wordOf v).setWidth 32
    let tv := t.setWidth 64
    if !(agentValid s t) || (!(agentHere s t) && unreachable s (agentDev s t)) then .trap 0x0F tv
    else if isCore s.cur.core && decide (64 ≤ agentUnit t) then .trap 0x09 tv
    else
      (snapshot w n.toNat s).bind fun ws s => (releaseSend (rel == 1#1) scope.toNat ws s).seq fun s => putOut t (sendLaunch s) ws s

/-- SEND. -/
def execSend (scope : BitVec 3) (rel : BitVec 1) (b c : Name) (n : BitVec 7) (s : State) : Host.Outcome State Fault Refusal :=
  run (sendBody scope rel b c n) s

/-! ### Inboxes (R211, R215, R216, R220) -/

/-- Whether a core admits a message of a work strand (R216). -/
def admissible (s : State) (k : Nat) (m : Message) : Bool :=
  match m.launch with
  | none => false
  | some l =>
    decide (0 < strandsOn s k (some l)) && (match tfind s.launches l with
      | some x => x.hmap.isSome && (coreOf s k).hmap == x.hmap
      | none => false)

/-- The lowest free inbox entry of a unit from an entry on, out of n. -/
def freeEntry (s : State) (k first n : Nat) : Option Nat :=
  ((List.range n).map fun j => first + j).find? fun e => !((coreOf s k).inbox.any fun x => x.entry == e)

/-- A message's words written to an inbox entry by its port: 64 words, the rest zero, without marks (R211). -/
def writeEntry (s : State) (k e : Nat) (ws : List Word) : State :=
  let a := inboxAddr k e
  let ws := (ws ++ List.replicate 64 0#64).take 64
  let inside := fun (w : Nat) => decide (a ≤ w) && decide (w < a + 512)
  { s with mem := memPutWords s.mem a ws, poison := s.poison.filter fun w => !(inside w), flips := s.flips.filter fun f => !(inside f.1) }

/-- A message accepted in an inbox entry. -/
def acceptAt (s : State) (k e : Nat) (m : Message) : State :=
  let x : InboxEntry := { entry := e, target := m.target, sender := m.sender, launch := m.launch, handler := m.words.headD 0#64 }
  modCore (writeEntry s k e m.words) k fun c => { c with inbox := c.inbox ++ [x] }

/-- A message accepted in the lowest free of a unit's 16 ordinary entries, or told to retry: status 0 or 1 (R215). -/
def acceptIn (s : State) (k : Nat) (m : Message) : State × Nat × Nat :=
  match freeEntry s k 0 16 with
  | none => (s, 1, 0)
  | some e => (acceptAt s k e m, 0, 0)

/-- The record of a stale arrival that a copy routine sends reaches the supervisor's completion error log (R225, R331): its four words, the
eight latest kept. A message that is told to retry is logged when it is accepted. -/
def logCompletion (s : State) (k : Nat) (m : Message) : State :=
  if isSupervisor k && decide (65 ≤ agentUnit m.sender) && m.words.headD 0#64 == s.dev.fwLog && (freeEntry s k 0 16).isSome then
    modDev s fun d =>
      { d with errLog := (d.errLog ++ [m.words.take 4]).drop (d.errLog.length - 7), errCount := min (d.errCount + 1) (2 ^ 32 - 1) }
  else s

/-- A message at the inbox port of its target: the state, the answer's status (0 accept, 1 retry, 2 error) and its cause (R214 to R216,
R220, R223, R227). -/
def deliver (s : State) (m : Message) : State × Nat × Nat :=
  let k := agentKey s m.target
  let w := fun n => m.words.getD n 0#64
  let special := decide (64 ≤ agentUnit m.sender)
  if isStreamer k then
    if special && w 0 == 0#64 then (post s (.resumePacket k (agentSlot m.target) (w 0) (w 1) (w 2) (w 3)), 0, 0)
    else acceptIn s k m
  else if special && agentSlot m.target == 14 then
    (post s (.completionArrival m.target (w 0) ((w 1).setWidth 32) (w 2)), 0, 0)
  else if (coreOf s k).sealed then (s, 2, 0x0F)
  else if !special && isCore k && !(admissible s k m) then (s, 2, 0x09)
  else acceptIn (logCompletion s k m) k m

/-- A message of hardware or the management core (R147, R361, R363): it leaves when its strand's writes have been performed, one for a peer
across the fabric; the acceptance of the last husk's message clears PEND. -/
def arriveHw (s : State) (h : HwMsg) : State :=
  if !(agentHere s h.msg.target) then
    sendHardware { s with hwMsgs := s.hwMsgs.filter (· != h) } h.msg.target h.msg.sender h.msg.words
  else
  let clear := fun (t : State) =>
    if h.strand.isSome && h.msg.words.getD 3 0#64 == 0#64 then
      modCluster t (agentCluster h.msg.target) fun c => { c with migPend := false }
    else t
  match deliver s h.msg with
  | (t, 0, _) => clear { t with hwMsgs := t.hwMsgs.filter (· != h) }
  | (t, 1, _) => { t with hwMsgs := t.hwMsgs.map fun x => if x == h then { x with due := s.uncore + 64 } else x }
  | (t, _, _) => { t with hwMsgs := t.hwMsgs.filter (· != h) }

/-- Whether a message of hardware may leave: its time has come, and its strand's writes and messages have been performed. -/
def hwReady (s : State) (h : HwMsg) : Bool :=
  decide (h.due ≤ s.uncore) && (match h.strand with
    | none => true
    | some (k, i, uid) => !(unperformed s k i uid s.serial) && !((coreOf s k).outbuf.any fun e => e.slot == i && e.uid == uid))

/-- MESSAGE_ARRIVAL: a message reaches its target's inbox port, here or across the fabric (R215), which takes it when it has room (R337). -/
def execMessageArrival (m : Message) (s : State) : Host.Outcome State Fault Refusal :=
  if m.serial = 0 then
    match s.hwMsgs.find? fun h => h.msg == m && hwReady s h with
    | none => .next s
    | some h => .next (arriveHw s h)
  else
    let l := (coreOf s m.core).outbuf
    match l.find? fun e => e.msg == m with
    | none => .next s
    | some e =>
      if e.retrying || e.sent || earlierTo s l m then .next s
      else if agentHere s m.target then
        let (t, status, cause) := deliver s m
        .next (answerMsg t m.core m.serial status cause)
      else if !(takesNow s (agentDev s m.target) (payMsg m).length 1) then .next s
      else
        let s1 := modCore s m.core fun c =>
          { c with outbuf := c.outbuf.map fun x => if x.msg.serial == m.serial then { x with sent := true } else x }
        .next (sendPacket s1 (agentDev s m.target) 0 0x04 (payMsg m) (.msg m.core m.serial))

/-- MESSAGE_RETRY: entries of a core's buffer that were told to retry 64 uncore cycles ago are sent again (R215). -/
def execMessageRetry (core : Nat) (s : State) : Host.Outcome State Fault Refusal :=
  .next (modCore s core fun c =>
    { c with outbuf := c.outbuf.map fun e => if e.retrying && decide (e.due ≤ s.uncore) then { e with retrying := false } else e })

/-- TRAP_MESSAGE: the oldest trap message of a cluster takes a reserved entry of the supervisor's inbox, if one is free (R285). -/
def execTrapMessage (cluster : Nat) (s : State) : Host.Outcome State Fault Refusal :=
  let k := keyOf cluster 64
  match (clusterOf s cluster).trapWaits with
  | [] => .next s
  | (src, i, ws) :: r =>
    match freeEntry s k 16 64 with
    | none => .next s
    | some e =>
      let m : Message := { core := 0, serial := 0, target := mkAgent 15 s.dev.num cluster 64, sender := selfAgent s src i, launch := none,
                           words := ws }
      .next (acceptAt (modCluster s cluster fun c => { c with trapWaits := r }) k e m)

/-! ### Handler starts (R107, R212, R223) -/

/-- A handler slot started at an address. Its STRAND registers, $lnk, $w0 to $w3 and event latch hold what the last run left, and so does a misfit
that an earlier run's value has brought, which the run's first instruction reports (log entries 71 and 98). The PC it "came from" is what a trap of cause 0x01 at that address reports (R25, R212). -/
def startHandler (x : Slot) (uid : Nat) (handler from' : Word) (launch : Option Nat) (msg : Word) : Slot :=
  { x with status := .ready, uid := uid, pc := handler, from' := from', launch := launch, msg := msg, snap := [], fenced := none, peerBuf := [], atLine := none }

/-- The oldest inbox entry that no handler runs. -/
def nextInbox (c : Core) : Option InboxEntry := c.inbox.find? fun e => !e.running

/-- HANDLER_START: an idle handler slot takes its next input (R107): slot 15 a message, slot 14 a completion. A handler that starts while no map
is in force has no declared names (R212). What a trap of cause 0x01 at the address of a completion's handler reports the spec does not say: the
model reports 0 (log entry 72). -/
def execHandlerStart (core slot : Nat) (s : State) : Host.Outcome State Fault Refusal :=
  let s := dropMap s core
  let x := slotOf s core slot
  let c := coreOf s core
  if x.status != .free || c.sealed || c.halted || isStreamer core then .next s
  else if slot = 15 then
    match nextInbox c with
    | none => .next s
    | some e =>
      let launch := if agentUnit e.sender < 64 && e.entry < 16 then e.launch else none
      let y := startHandler x s.serial e.handler (e.sender.setWidth 64) launch (inboxWindow core e.entry)
      let s1 := modCore { s with serial := s.serial + 1 } core fun d =>
        { d with inbox := d.inbox.map fun z => if z.entry == e.entry then { z with running := true } else z }
      .next (setSlot s1 core 15 { y with handling := some e.entry, sender := e.sender })
  else if slot = 14 then
    let cl := clusterOfKey core
    let l := unitId s core
    match (logicalOf s cl l).comps with
    | [] => .next s
    | e :: r =>
      let s1 := modLogical { s with serial := s.serial + 1 } cl l fun y => { y with comps := r }
      let y := startHandler x s.serial e.handler 0#64 e.launch e.status
      .next (setSlot s1 core 14 { y with xid := e.xid, handling := none })
  else .next s

/-! ### COPY (R217 to R219) -/

/-- The first word of a layout record that R217 refuses, as its byte offset. -/
def badLayout (ws : List Nat) : Option Nat :=
  let w := fun n => ws.getD n 0
  let rows := bitsOf (w 2) 63 32
  let rowBytes := bitsOf (w 2) 31 0
  if w 0 % 8 != 0 then some 0
  else if w 1 % 8 != 0 then some 8
  else if rows == 0 || decide (1048576 < rows) || rowBytes % 8 != 0 || rowBytes == 0 || decide (16777216 < rowBytes) then some 16
  else if bitsOf (w 3) 31 0 % 8 != 0 || bitsOf (w 3) 63 32 % 8 != 0 then some 24
  else if w 4 % 2 != 0 then some 32
  else if w 5 % 8 != 0 then some 40
  else if bitsOf (w 6) 63 32 != 0 then some 48
  else if bitsOf (w 7) 31 0 != 0 then some 56
  else none

/-- The first transfer id from a candidate on that is not 0 and not in the table, of at most n (R218). -/
def freeXid (t : Tab Xfer) (n : Nat) (x : BitVec 32) : BitVec 32 :=
  match n with
  | 0 => x
  | m + 1 => if x == 0#32 || (tfind t x.toNat).isSome then freeXid t m (x + 1#32) else x

/-- The cluster and unit of the streamer beside an address of this or a peer device (R219); none for host memory and holes. -/
def streamerOf (pa : Nat) : Option (Nat × Nat) :=
  if inSram pa then some (sramCluster pa, 65 + bitsOf pa 9 8)
  else if inQuads pa then some (quadOfPa pa / 16, 65 + quadOfPa pa % 4)
  else if inGddr pa then some (channelCluster (gddrChannel pa), 69)
  else none

/-- The streamer that a copy's source and transfer id choose (R219), with the TLBs as routing leaves them. -/
def routeCopy (src : Word) (x : BitVec 32) (s : State) : Agent × State :=
  let own := mkAgent 0 s.dev.num (clusterOfKey s.cur.core) (65 + x.toNat % 4)
  match translate s s.cur.core (curSlot s).launch src.toNat .load with
  | .inl _ => (own, unlessHeld s (searched s s.cur.core (curSlot s).launch src.toNat))
  | .inr (pa, t) =>
    let t := unlessHeld s t
    if inPeer pa then
      match streamerOf (peerOff pa) with
      | some (c, u) => (mkAgent 0 (peerDev pa) c u, t)
      | none => (own, t)
    else
      match streamerOf pa with
      | some (c, u) => (mkAgent 0 s.dev.num c u, t)
      | none => (own, t)

/-- An agent id with its slot field set to 14: a completion target (R220). -/
def completionTarget (a : Agent) : Nat := a.toNat % 2 ^ 23 + 14 * 2 ^ 23

/-- Whether a cluster holds no other launch than one (R354): none with a strand there, and none placed there. -/
def aloneIn (s : State) (c : Nat) (launch : Option Nat) : Bool :=
  (s.cores.all fun e => clusterOfKey e.1 != c || !(isCore e.1) || e.2.slots.all fun x => decide (14 ≤ x.1) || !(live x.2) || x.2.launch == launch)
    && s.launches.all fun e => launch == some e.1 || e.2.started.all fun j => j.1 / 128 != c

/-- Whether an address of the issuing strand's tree lies in a quad store of its cluster. -/
def inOwnCluster (a : Word) (need : Need) (s : State) : Bool :=
  match translate s s.cur.core (curSlot s).launch a.toNat need with
  | .inl _ => false
  | .inr (pa, _) => inQuads pa && quadOfPa pa / 16 == clusterOfKey s.cur.core

/-- Uncore cycles after which a bounded COPY's steps come before anything else, early enough for the 4,096 of R354 (log entry 81). -/
def hurryAfter : Nat := 512

/-- When a COPY's steps come before anything else, if its source reads are bounded (R354): one row of at most 512 bytes between quad stores of the
issuing cluster, which holds no other launch. -/
def hurryOf (ws : List Nat) (u : Agent) (s : State) : Option (Nat × Nat) :=
  if bitsOf (ws.getD 2 0) 63 32 == 1 && decide (bitsOf (ws.getD 2 0) 31 0 ≤ 512) && aloneIn s (clusterOfKey s.cur.core) (curSlot s).launch
      && inOwnCluster (BitVec.ofNat 64 (ws.getD 0 0)) .load s && inOwnCluster (BitVec.ofNat 64 (ws.getD 1 0)) .store s then
    some (agentKey s u, s.uncore + hurryAfter)
  else none

/-- Places of the transfer table and of the slot-14 queue that a logical core's copies hold (R223, R224): each transfer in the table has one of the
32 entries, and each one in flight or with a queued completion has one of the queue's 32 (log entry 91). -/
def copyRoom (x : Logical) : Bool :=
  decide (x.xfers.length < 32) && decide ((x.xfers.filter fun e => e.2.result.isNone).length + x.comps.length < 32)

/-- The 64-bit words of a number, the lowest first. -/
def elems64 (n v : Nat) : List Nat := (List.range n).map fun i => v / 2 ^ (64 * i) % 2 ^ 64

/-- The layout record of a COPY as its first issue read it (R218). -/
def recordOf (w : Word) (off : Int) (s : State) : Ans (List Nat) :=
  match (curSlot s).snap with
  | [] => (readWin w off 64 s).bind fun v s => .ok (elems64 8 v) s
  | l => .ok (l.map (·.toNat)) s

/-- A copy whose record is good, once a table entry is free: it takes its transfer id, and its request leaves (R218). -/
def copyFrom (a : Name) (ws : List Nat) (s : State) : Ans Unit :=
  let k := s.cur.core
  let cl := clusterOfKey k
  let l := unitId s k
  if !(copyRoom (logicalOf s cl l)) then .holdIn (modCur s fun y => { y with snap := ws.map (BitVec.ofNat 64) })
  else
    let x := freeXid (logicalOf s cl l).xfers 34 (logicalOf s cl l).nextXid
    (writeName a (x.toNat : Int) s).seq fun s =>
      let (u, s) := routeCopy (BitVec.ofNat 64 (ws.getD 0 0)) x s
      let e : Xfer := { slot := s.cur.slot, uid := (curSlot s).uid, launch := (curSlot s).launch, hurry := hurryOf ws u s }
      let s1 := modLogical (dropMaps s) cl l fun y => { y with xfers := tput y.xfers x.toNat e, nextXid := x + 1#32 }
      let last := completionTarget (selfAgent s k s.cur.slot) + x.toNat * 2 ^ 32
      putOut u (curSlot s).launch ((ws ++ [last]).map (BitVec.ofNat 64)) s1

/-- COPY's body: the window is checked, the record read whole and checked, and only then is a table entry waited for (R218). -/
def copyBody (a b c : Name) (disp : BitVec 16) (s : State) : Ans Unit :=
  (raisePoint s).seq fun s => (readWindow b false s).bind fun w s => (readName c s).bind fun o s =>
    (recordOf w (o + disp.toInt) s).readThen fun ws s =>
      match badLayout ws with
      | some o => .trap 0x02 (BitVec.ofNat 64 o)
      | none => copyFrom a ws s

/-- COPY. -/
def execCopy (a b c : Name) (disp : BitVec 16) (s : State) : Host.Outcome State Fault Refusal := run (copyBody a b c disp) s

/-! ### Streamers (R220, R221, R227) -/

/-- The widths of the standard routine's names; each is unsigned and wraps (R222). -/
def routineWidths : List Nat := [64, 64, 32, 32, 32, 32, 32, 64, 64, 64, 64, 32, 32, 8, 64, 32]

/-- The map of the standard routine. -/
def routineMap : Image := { scalars := routineWidths.map fun w => { width := w, signed := false, mode := .wrap }, vectors := [] }

/-- A 64-byte window on a streamer's local store from a byte. -/
def localWindow (base : Nat) : Word := BitVec.ofNat 64 (0x3FF * 2 ^ 24 + 6 * 2 ^ 19 + base)

/-- COPY_REQUEST: a request in a streamer's inbox starts the copy routine in the lowest FREE slot (R221). Firmware has placed the
completion-log handler and the supervisor's id in the first two words of the slot's window. -/
def execCopyRequest (core entry : Nat) (s : State) : Host.Outcome State Fault Refusal :=
  match (coreOf s core).inbox.find? fun e => e.entry == entry && !e.running with
  | none => .next s
  | some e =>
    match (if isStreamer core then freeWork s core else none) with
    | none => .next s
    | some i =>
      match placeMap s core i routineMap with
      | .inl _ => .next s
      | .inr t =>
        let old := slotOf t core i
        let x : Slot :=
          { status := .ready, uid := s.serial, pc := s.dev.fwCopy, names := old.names, msg := inboxWindow core entry,
            w0 := localWindow (1024 * i), w1 := localWindow (1024 * i + 64), launch := e.launch, sender := e.sender, handling := some entry,
            lastIssue := old.lastIssue, lastYield := old.lastYield }
        let sup := mkAgent 15 s.dev.num (clusterOfKey core) 64
        let m := memPutWords t.mem (localBase core + 1024 * i) [s.dev.fwLog, sup.setWidth 64]
        .next (modCore (setSlot { t with mem := m, serial := s.serial + 1 } core i x) core fun c =>
          { c with inbox := c.inbox.map fun z => if z.entry == entry then { z with running := true } else z })

/-- RESUME_PACKET: the supervisor's verdict on a stopped streamer strand (R227). A trap of cause 0x01 at the abort PC reports
TRAPPC, a choice of the model (log entry 73). -/
def execResumePacket (core slot : Nat) (zero verdict pc value : Word) (s : State) : Host.Outcome State Fault Refusal :=
  let x := slotOf s core slot
  if x.status != .stopped .trapped || zero != 0#64 || !(verdict == 0#64 || verdict == 1#64) then .next s
  else if verdict == 0#64 then .next (setSlot s core slot (atRest s core { x with status := .ready, pc := x.trapPc }))
  else .next (setSlot s core slot (atRest s core { x with status := .ready, lnk := value, pc := pc, from' := x.trapPc }))

/-! ### Completions (R223, R224) and XWAIT (R226) -/

/-- COMPLETION_ARRIVAL: a completion reaches the core that holds its logical core. -/
def execCompletionArrival (target : Agent) (handler : Word) (xid : BitVec 32) (status : Word) (s : State) :
    Host.Outcome State Fault Refusal :=
  let c := agentCluster target
  let l := agentUnit target
  let cause := status.toNat % 256
  match tfind (logicalOf s c l).xfers xid.toNat with
  | none => .next s
  | some e =>
    let keep := cause != 0 && !e.gone
    let s1 := modLogical s c l fun y =>
      { y with xfers := if keep then tput y.xfers xid.toNat { e with result := some cause } else tdel y.xfers xid.toNat }
    if (coreOf s (agentKey s target)).sealed || handler == 0#64 then .next s1
    else .next (modLogical s1 c l fun y => { y with comps := y.comps ++ [⟨xid, handler, status, e.launch⟩] })

/-- XWAIT. -/
def execXwait (a : Name) (s : State) : Host.Outcome State Fault Refusal :=
  run (fun s0 =>
    (readName a s0).bind fun v s =>
      let x := (wordOf v).setWidth 32
      let c := clusterOfKey s.cur.core
      let l := unitId s s.cur.core
      match tfind (logicalOf s c l).xfers x.toNat with
      | none => .ok () s
      | some e =>
        match e.result with
        | none => .waitIn (.xwait x) s
        | some cause => .trapIn cause (x.setWidth 64) (modLogical s0 c l fun y => { y with xfers := tdel y.xfers x.toNat })) s

end Sys2Proof.Machine
end

