-- ==== Sys2Proof/Machine/Launches.lean ====
section
/-! DEFINITION. Launches seen as a whole: completion records and their ring (R323), whether a launch has anything left (R112, R224), and
ending one (R323). -/

namespace Sys2Proof.Machine

/-! ### Memory that the front end reads and writes -/

/-- Where a host physical address stands in memory: in the host aperture, or above it where the aperture does not reach (R151). -/
def hostPa (a : Nat) : Nat := if a < 2 ^ 51 then 0x8000000000000 + a else 2 ^ 53 + a

/-- Whether a base register names GDDR 7 (R309). -/
def baseLocal (w : Word) : Bool := bitsOf w.toNat 63 63 == 1

/-- Address of a byte at an offset from a base register in the form of QBASE (R309); none past the end of GDDR 7. -/
def basePlace (w : Word) (off : Nat) : Option Nat :=
  let a := bitsOf w.toNat 51 12 * 4096 + off
  if baseLocal w then (if a < 0x2400000000 then some (0x1000000000 + a) else none) else some (hostPa a)

/-- Bytes read at a base register; bytes past GDDR 7 read 0. -/
def baseRead (s : State) (w : Word) (off n : Nat) : List Byte :=
  match basePlace w off with
  | some a => memBytes s.mem a n
  | none => List.replicate n 0#8

/-- Bytes at a base register read from their array (R173); bytes that come poisoned are taken as they stand (log entry 95). -/
def baseReads (s : State) (w : Word) (off n : Nat) : State :=
  match basePlace w off with
  | some a => (memoryRead s a n).2
  | none => s

/-- Bytes written at a base register. -/
def baseWrite (s : State) (w : Word) (off : Nat) (bs : List Byte) : State :=
  match basePlace w off with
  | some a => writePhys s a bs
  | none => s

/-! ### Records (R323) -/

/-- Bytes 0 to 30 of a completion record. -/
def recordBytes (tag ticket : BitVec 32) (event grade cause : Nat) (agent : Agent) (value : Word) : List Byte :=
  toBytes 4 tag.toNat ++ toBytes 4 ticket.toNat ++ toBytes 1 event ++ toBytes 1 grade ++ toBytes 1 cause ++ toBytes 1 0
    ++ toBytes 4 agent.toNat ++ toBytes 8 value.toNat ++ toBytes 7 0

/-- Whether a completion ring is full. -/
def ringFull (x : Queue) : Bool := (x.cqtail - x.cqhead).toNat == 2 ^ x.qsize

/-- A record written to its ring, the byte with PHASE last, and MSI-X vector q raised. -/
def writeRecord (s : State) (q : Nat) (rec : List Byte) : State :=
  let x := queueOf s q
  let i := x.cqtail.toNat
  let phase : Byte := if i / 2 ^ x.qsize % 2 == 0 then 1#8 else 0#8
  let s1 := baseWrite s x.cqbase (32 * (i % 2 ^ x.qsize)) (rec ++ [phase])
  let s2 := modQueue s1 q fun y => { y with cqtail := y.cqtail + 1#32 }
  modDev s2 fun d => { d with msix := q :: d.msix }

/-- A record posted to a queue: written, or kept until its ring has room. -/
def postRecord (s : State) (q : Nat) (rec : List Byte) : State :=
  let x := queueOf s q
  if x.records.isEmpty && !(ringFull x) then writeRecord s q rec
  else modQueue s q fun y => { y with records := y.records ++ [rec] }

/-- Records that wait written while the ring has room. -/
def flushRecords (n : Nat) (s : State) (q : Nat) : State :=
  match n with
  | 0 => s
  | m + 1 =>
    match (queueOf s q).records with
    | [] => s
    | r :: rs =>
      if ringFull (queueOf s q) then s
      else flushRecords m (writeRecord (modQueue s q fun x => { x with records := rs }) q r) q

/-! ### What a launch has -/

/-- The launches of a queue that are entered, live or saved, oldest first. -/
def launchesOf (s : State) (q : Nat) : List (Nat × Launch) := s.launches.filter fun e => e.2.queue == q && !e.2.posted

/-- The live strands of a launch in work slots of cores: core keys and slots. -/
def strandsOf (s : State) (l : Nat) : List (Nat × Nat) :=
  (s.cores.filter fun e => isCore e.1).flatMap fun e =>
    (e.2.slots.filter fun x => decide (x.1 < 14) && live x.2 && x.2.launch == some l).map fun x => (e.1, x.1)

/-- Whether a launch has a transfer in flight, a completion queued, or a handler or copy routine running for it (R224). -/
def launchInFlight (s : State) (l : Nat) : Bool :=
  (s.clusters.any fun c => c.2.logicals.any fun y =>
      (y.2.xfers.any fun e => e.2.launch == some l && e.2.result.isNone) || y.2.comps.any fun e => e.launch == some l)
    || (s.cores.any fun e =>
      (e.2.slots.any fun x => live x.2 && x.2.launch == some l && (decide (14 ≤ x.1) || isStreamer e.1))
        || (isStreamer e.1 && e.2.inbox.any fun m => m.launch == some l)
        || e.2.outbuf.any fun m => m.msg.launch == some l && decide (64 ≤ agentUnit m.msg.target))

/-- Whether every strand of a launch has been started (R104). -/
def allStarted (x : Launch) : Bool := (launchCores x).all fun e => startedOn x e.1 e.2 == x.quota

/-- The cluster's logical cores with no live work strand and no transfer in flight (R294, R295, R363). -/
def coreIdle (s : State) (c l : Nat) : Bool :=
  workStrands s (physKey s c l) == 0 && !((logicalOf s c l).xfers.any fun e => e.2.result.isNone)

/-! ### Ending a launch -/

/-- The transfers of a launch whose strands are gone, husked ones among them: failed ones are freed, and those in flight have no strand (R224). -/
def dropXfers (s : State) (l : Nat) : State :=
  let mine := fun (e : Xfer) => e.launch == some l && decide (e.slot < 14)
  { s with clusters := tmap s.clusters fun _ c =>
      { c with logicals := tmap c.logicals fun _ x =>
          { x with xfers := (x.xfers.filter fun e => !(mine e.2 && e.2.result.isSome)).map fun e => if mine e.2 then (e.1, { e.2 with gone := true }) else e } } }

/-- A launch's strands ended as SLOTCTL action 1 ends them (R291, R323), and its husks with them (R224). -/
def freeStrands (s : State) (l : Nat) : State :=
  dropXfers ((strandsOf s l).foldl (fun t m => endStrand (unpaceStrand t m.1 m.2) m.1 m.2) s) l

/-- The barriers of a launch returned to the pools of its clusters (R207). -/
def returnBarriers (s : State) (l : Nat) : State :=
  { s with clusters := tmap s.clusters fun _ c =>
      { c with barriers := tmap c.barriers fun _ b =>
          match b.owner with
          | some (o, _) => if o == l then { b with owner := none } else b
          | none => b } }

/-- A launch ended: its strands are freed and its barriers returned (R207, R291, R323), and it posts its record once what it has in flight has
landed (R224). -/
def endLaunch (s : State) (l event grade cause : Nat) (agent : Agent) (value : Word) : State :=
  returnBarriers (freeStrands (markEnding s l event grade cause agent value) l) l

/-- The step that a mailbox command takes; none for a code that the table does not list. -/
def mboxStep (cmd q : Nat) : Option Instr :=
  match cmd with
  | 0x01 => some (.setweight q)
  | 0x02 => some (.setsec q)
  | 0x03 => some (.preempt q)
  | 0x04 => some (.resumeq q)
  | 0x05 => some (.resetq q)
  | 0x06 => some .drain
  | 0x07 => some .seal
  | 0x08 => some .fwstage
  | 0x09 => some .fwactivate
  | 0x0A => some .attest
  | 0x0B => some .setmigt
  | 0x0C => some .secregion
  | _ => none

/-- The step of the mailbox command that runs, if one does (R325). -/
def mailStep (s : State) : List Instr :=
  if s.mbox.state == 1 then (mboxStep (bitsOf s.mbox.cmd.toNat 7 0) (bitsOf s.mbox.cmd.toNat 15 8)).toList else []

/-- A device-fatal fault (R306, R324): every strand, queued command, copy, parked atomic and fabric packet is discarded, and the launches,
those of saved queues too (log entry 50), wait for recovery's records. Quad stores, memory, the regulators and what checkers have sealed stay, and
the management core takes up again the mailbox command that runs (R325). -/
def fatalFault (s : State) : State :=
  let keep := fun (c : Core) => ({ req := c.req, duty := c.duty, sealed := c.checkerSealed, checkerSealed := c.checkerSealed, canIssue := c.canIssue } : Core)
  { s with
    cores := tmap s.cores fun _ c => keep c
    quads := tmap s.quads fun _ q => { q with wq := [], feWaits := [], feRetry := [], stepWaits := [], stepRetry := [] }
    clusters := tmap s.clusters fun _ c =>
      { c with logicals := [], barriers := [], barRecords := [], gathers := [], trapWaits := [], beats := [], brought := [], migPend := false, slotctl := 0, slotctlOp := none, lineWaits := [], lostLines := [], staleLines := [], failures := [] }
    dev := { s.dev with fatal := true, lostLaunches := s.dev.lostLaunches ++ (s.launches.filter fun e => !e.2.posted).map (·.2) }
    launches := [], parked := [], runs := [], hwMsgs := [], agenda := mailStep s
    queues := tmap s.queues fun _ x => { x with asked := none, answer := none, codeAsked := none }
    fab := { s.fab with granary := [], waiting := [] } }

end Sys2Proof.Machine
end

