-- ==== Sys2Proof/Machine/Packets.lean ====
section
/-! DEFINITION. Packets (R313 to R318): the checks of each, code objects and their seals (R319 to R321), and the launch that a LAUNCH
packet stands for. -/

namespace Sys2Proof.Machine

/-! ### Fields of a packet -/

/-- A byte of a packet. -/
def pktByte (p : List Byte) (o : Nat) : Nat := (p.getD o 0#8).toNat
/-- An n-byte field of a packet. -/
def pktField (p : List Byte) (o n : Nat) : Nat := ofBytes ((p.drop o).take n)
/-- KIND. -/
def pktKind (p : List Byte) : Nat := pktByte p 0
/-- TAG. -/
def pktTag (p : List Byte) : BitVec 32 := BitVec.ofNat 32 (pktField p 4 4)
/-- The first nonzero byte of a packet from an offset up to another. -/
def nonzeroIn (p : List Byte) (a b : Nat) : Option Nat := ((List.range (b - a)).map fun i => a + i).find? fun o => pktByte p o != 0
/-- Whether a LAUNCH packet says that a LAUNCH-EXT follows (R314). -/
def wantsExt (p : List Byte) : Bool := pktKind p == 2 && pktByte p 1 / 2 % 2 == 1

/-! ### Reading through ROOT (R318, R320) -/

/-- n bytes of a list of cells, none unless all are there. -/
def heldBytes (b : List Host.Cell) (a n : Nat) : Option (List Byte) :=
  (List.range n).mapM fun i => (b.find? fun c => c.1 == a + i).map (·.2)

/-- Bytes that one READ of a peer's memory brings. -/
def codeChunk : Nat := 512

/-- Whether a range holds a byte of a chunk that could not be read. -/
def badRange (bad : List Nat) (a n : Nat) : Bool := bad.any fun c => decide (c < a + n) && decide (a < c + codeChunk)

/-- The page of an address under a tree (R168, R169), none when the walk fails or a word that it reads is poisoned; RD, W and X are not looked at
(R318). -/
def walkRoot (s : State) (root va : Nat) : Option Page :=
  match walk s.mem s.dev.num (va % 2 ^ 64) root allLevels false with
  | none => none
  | some p => if (walkWords s.mem s.dev.num (va % 2 ^ 64) root allLevels false).any fun w => rangeFaulty s w 8 then none else some p

/-- Where an address of a page lies and how many of n bytes from it the page holds. -/
def Page.piece (p : Page) (s : State) (va n : Nat) : Nat × Nat :=
  (localPa s (p.phys (va % 2 ^ 64)), min n (2 ^ p.log2 - va % 2 ^ p.log2))

/-- n bytes of virtual memory under a tree, any permission; none when a walk fails, when bytes of this device or the host meet an error (R173,
R176), or when bytes of a peer's memory are not among those that the queue has read. -/
def rootBytes (fuel : Nat) (s : State) (q root va n : Nat) : Option (List Byte) :=
  match fuel with
  | 0 => some []
  | f + 1 =>
    if n == 0 then some []
    else
      match walkRoot s root va with
      | none => none
      | some p =>
        let (pa, k) := p.piece s va n
        let here :=
          if isHole pa || badRange (queueOf s q).codeBad pa k then none
          else if inPeer pa then heldBytes (queueOf s q).codeBuf pa k
          else if rangeFaulty s pa k then none
          else some (memBytes s.mem pa k)
        match here, rootBytes f s q root (va + k) (n - k) with
        | some b, some r => some (b ++ r)
        | _, _ => none

/-- The first chunk of a peer's memory in a physical range that is not among bytes held and has not failed. -/
def lackingChunk (buf : List Host.Cell) (bad : List Nat) (a n : Nat) : Option Nat :=
  let lacks := fun (i : Nat) => !(buf.any fun c => c.1 == a + i) && !(bad.contains ((a + i) / codeChunk * codeChunk))
  ((List.range n).find? lacks).map fun i => (a + i) / codeChunk * codeChunk

/-- The first chunk of a peer's memory in a range of virtual memory that a queue has neither read nor failed to read. -/
def missingChunk (fuel : Nat) (s : State) (q root va n : Nat) : Option Nat :=
  match fuel with
  | 0 => none
  | f + 1 =>
    if n == 0 then none
    else
      match walkRoot s root va with
      | none => none
      | some p =>
        let (pa, k) := p.piece s va n
        match (if inPeer pa && !(isHole pa) then lackingChunk (queueOf s q).codeBuf (queueOf s q).codeBad pa k else none) with
        | some c => some c
        | none => missingChunk f s q root (va + k) (n - k)

/-- n bytes of a code object from an offset. -/
def objBytes (s : State) (q root code off n : Nat) : Option (List Byte) := rootBytes (n / 4096 + 2) s q root (code + off) n

/-- Whether a range is mapped execute-only throughout (R28). -/
def mappedExec (fuel : Nat) (s : State) (root va n : Nat) : Bool :=
  match fuel with
  | 0 => true
  | f + 1 =>
    if n == 0 then true
    else
      match walkRoot s root va with
      | none => false
      | some p => p.ex && !p.rd && !p.wr && mappedExec f s root (va + (2 ^ p.log2 - va % 2 ^ p.log2)) (n - (2 ^ p.log2 - va % 2 ^ p.log2))

/-- n bytes of physical memory read from their arrays chunk by chunk (R173, R174): the state, and the chunks that came poisoned as a whole. -/
def readChunks (x : State × List Nat) (a n : Nat) : State × List Nat :=
  (List.range ((a % codeChunk + n + codeChunk - 1) / codeChunk)).foldl (fun y i =>
    let c := a / codeChunk * codeChunk + codeChunk * i
    let r := memoryRead y.1 (max a c) (min (a + n) (c + codeChunk) - max a c)
    (r.2, if r.1 then c :: y.2 else y.2)) x

/-- The reads of a range of virtual memory under a tree: the walks, and with `data` the bytes that lie in this device or the host. -/
def readRange (fuel : Nat) (data : Bool) (x : State × List Nat) (root va n : Nat) : State × List Nat :=
  match fuel with
  | 0 => x
  | f + 1 =>
    if n == 0 then x
    else
      let (bad, s) := walkReads x.1 (walkWords x.1.mem x.1.dev.num (va % 2 ^ 64) root allLevels false)
      match walkRoot s root va with
      | none => (s, x.2)
      | some p =>
        let (pa, k) := p.piece s va n
        let lost := if bad then pa / codeChunk * codeChunk :: x.2 else x.2
        readRange f data (if data && !(isHole pa) && !(inPeer pa) then readChunks (s, lost) pa k else (s, lost)) root (va + k) (n - k)

/-! ### Code objects -/

/-- The header of a code object (R320), as numbers. -/
structure Header where
  fmt : Nat
  oflags : Nat
  nentry : Nat
  nmap : Nat
  nprof : Nat
  nnote : Nat
  noteoff : Nat
  codeoff : Nat
  codesize : Nat
  entoff : Nat
  mapoff : Nat
  profoff : Nat
  sealoff : Nat
deriving DecidableEq, Repr

/-- A header from its 64 bytes. -/
def headerOf (b : List Byte) : Header :=
  { fmt := pktField b 0 2, oflags := pktField b 2 2, nentry := pktField b 4 2, nmap := pktField b 6 2, nprof := pktField b 8 2,
    nnote := pktField b 10 2, noteoff := pktField b 12 4, codeoff := pktField b 16 8, codesize := pktField b 24 8,
    entoff := pktField b 32 8, mapoff := pktField b 40 8, profoff := pktField b 48 8, sealoff := pktField b 56 8 }

/-- The offset of the first header field that R320 does not allow. -/
def badHeader (h : Header) : Option Nat :=
  if h.fmt != 1 then some 0
  else if 1 < h.oflags then some 2
  else if h.nentry == 0 || decide (4096 < h.nentry) then some 4
  else if h.nmap == 0 || decide (4096 < h.nmap) then some 6
  else if h.nprof == 0 || decide (4 < h.nprof) then some 8
  else if h.noteoff % 8 != 0 then some 12
  else if h.codeoff % 64 != 0 then some 16
  else if h.codesize % 64 != 0 then some 24
  else none

/-- Numbers of n bytes each from bytes. -/
def fieldsOfBytes (count n : Nat) (b : List Byte) : List Nat := (List.range count).map fun i => pktField b (n * i) n

/-- What validation reads of a code object. -/
structure CodeObject where
  head : Header
  entries : List Nat
  maps : List Nat
  profiles : List Nat
deriving DecidableEq, Repr

/-- The offset in the object of the first table record that R320 or R40 does not allow. -/
def badTables (o : CodeObject) : Option Nat :=
  match indexWhere (fun w => bitsOf w 63 48 != 0) o.entries with
  | some i => some (o.head.entoff + 8 * i + 6)
  | none =>
    match indexWhere (fun w => bitsOf w 63 48 != 0) o.maps with
    | some i => some (o.head.mapoff + 8 * i + 6)
    | none =>
      let bad := fun (i : Nat) =>
        let r := o.profiles.getD i 0
        r / 2 ^ 12 != 0 || decide (3 < r % 16) || (o.profiles.take i).any fun x => x % 16 == r % 16
      match (List.range o.profiles.length).find? bad with
      | some i => some (o.head.profoff + 2 * i)
      | none => none

/-- A code object read by some way of reading n bytes from an offset: the object, or the offset at which it is malformed or cannot be read
(R318, R320). -/
def readObject (rd : Nat → Nat → Option (List Byte)) : Sum Nat CodeObject :=
  match rd 0 64 with
  | none => .inl 0
  | some b =>
    let h := headerOf b
    match badHeader h with
    | some o => .inl o
    | none =>
      match rd h.entoff (8 * h.nentry) with
      | none => .inl h.entoff
      | some es =>
        match rd h.mapoff (8 * h.nmap) with
        | none => .inl h.mapoff
        | some ms =>
          match rd h.profoff (2 * h.nprof) with
          | none => .inl h.profoff
          | some ps =>
            let o : CodeObject :=
              { head := h, entries := fieldsOfBytes h.nentry 8 es, maps := fieldsOfBytes h.nmap 8 ms, profiles := fieldsOfBytes h.nprof 2 ps }
            match badTables o with
            | some x => .inl x
            | none => .inr o

/-- The parcels of the map of an index: its image offset and the parcels that the table says it has. -/
def mapParcels (rd : Nat → Nat → Option (List Byte)) (o : CodeObject) (i : Nat) : Option (Nat × List Parcel) :=
  let w := o.maps.getD i 0
  (rd (bitsOf w 31 0) (bitsOf w 47 32)).map fun b =>
    (bitsOf w 31 0, (fieldsOfBytes (b.length / 2) 2 b).map (BitVec.ofNat 16))

/-- The seal of an object (R321): 32 bytes of tag over everything before it, the revision that sealed, zeros. -/
def sealHolds (rd : Nat → Nat → Option (List Byte)) (o : CodeObject) : Bool :=
  match rd 0 o.head.sealoff, rd o.head.sealoff 64 with
  | some body, some tag => tag.take 32 == (Config.kmac256 body).take 32 && (tag.drop 34).all (· == 0#8)
  | _, _ => false

/-- Reason 0x04 for a translated object: the offset at which its seal fails (R318, R321). -/
def badSeal (rd : Nat → Nat → Option (List Byte)) (o : CodeObject) : Option Nat :=
  if o.head.oflags % 2 == 0 then none
  else if o.head.sealoff == 0 then some 56
  else if sealHolds rd o then none
  else some o.head.sealoff

/-- The highest version of a class that the device supports (R289). -/
def classVersion (s : State) (c : Nat) : Nat := bitsOf s.dev.profile.toNat (8 * c + 7) (8 * c)

/-- The first profile record newer than the device's (R318). -/
def badProfile (s : State) (o : CodeObject) : Option Nat :=
  (indexWhere (fun r => decide (classVersion s (r % 16) < bitsOf r 11 4)) o.profiles).map fun i => o.head.profoff + 2 * i

/-- Whether an entry index names a usable entry (R318, R320): the offset of what fails. -/
def badEntry (o : CodeObject) (i field : Nat) : Option Nat :=
  if o.entries.length ≤ i then some field
  else
    let e := o.entries.getD i 0
    if e % 2 == 1 || decide (o.head.codesize ≤ bitsOf e 31 0) || decide (o.maps.length ≤ bitsOf e 47 32) then some (o.head.entoff + 8 * i)
    else none

/-- The offset of what validation must read beyond the tables and cannot (R318, reason 0x03): a translated object's seal and what it covers,
and the images of the entries that the packet names. -/
def unreadable (rd : Nat → Nat → Option (List Byte)) (o : CodeObject) (idx : List Nat) : Option Nat :=
  let h := o.head
  if h.oflags % 2 == 1 && h.sealoff != 0 && ((rd 0 h.sealoff).isNone || (rd h.sealoff 64).isNone) then some h.sealoff
  else
    (idx.find? fun i => (badEntry o i 0).isNone && (mapParcels rd o (bitsOf (o.entries.getD i 0) 47 32)).isNone).map fun i =>
      bitsOf (o.maps.getD (bitsOf (o.entries.getD i 0) 47 32) 0) 31 0

/-- A map image that validation accepts, or the offset in the object at which it is invalid (R46, R47, R318). -/
def checkMap (handler : Bool) (off : Nat) (ps : List Parcel) : Sum Nat Image :=
  match parseImage false handler ps with
  | .inl x => .inl (off + x)
  | .inr img =>
    let need := 2 + (ps.getD 0 0#16).toNat + (ps.getD 1 0#16).toNat
    if ps.length < need then .inl (off + 2 * ps.length)
    else if handler then
      match seatNames [] (0, 8) (freshNames img.scalars) with
      | .inl n => .inl (off + 4 + 2 * n)
      | .inr _ => .inr img
    else .inr img

/-- The first seed that its name's trap mode cannot hold (R106, R318). -/
def badSeed (img : Image) (seeds : List Word) : Option Nat :=
  (List.range seeds.length).find? fun k =>
    match img.scalars[k]? with
    | some d => (fitTo (readAs 64 d.signed (seeds.getD k 0#64).toNat) d.width d.signed d.mode).isNone
    | none => false

/-! ### Validation of one packet (R318) -/

/-- A reason with its VALUE. -/
abbrev Refused := Nat × Nat

/-- The first of a list of tests that fails, with a reason and a value. -/
def firstBad (l : List (Bool × Nat × Nat)) : Option Refused := (l.find? (·.1)).map (·.2)

/-- A byte that must be zero and is not. -/
def zeroBad (o : Option Nat) : Option Refused := o.map fun x => (0x01, x)

/-- A SIGNAL's or WAIT's address (R316). -/
def badAddress (p : List Byte) : Option Refused :=
  let a := pktField p 8 8
  if a % 8 != 0 || isHole a then some (0x01, 8) else none

/-- The checks of a LAUNCH-EXT (R315). -/
def checkExt (p : List Byte) (prev : Option (List Byte)) : Option Refused :=
  let n := pktByte p 16
  let c := fun (j : Nat) => pktField p (32 + 2 * j) 2
  (zeroBad (nonzeroIn p 1 4)).orElse fun _ =>
    (if pktByte p 8 % 64 != 0 then some (0x01, 8) else none).orElse fun _ =>
      (zeroBad (nonzeroIn p 17 32)).orElse fun _ =>
        (((List.range 32).find? fun j => c j / 2 ^ 10 != 0 || (decide (n ≤ j) && c j != 0)).map fun j => (0x01, 32 + 2 * j)).orElse fun _ =>
          (zeroBad (nonzeroIn p 96 128)).orElse fun _ =>
            firstBad ([(match prev with | some q => !(wantsExt q && pktTag q == pktTag p) | none => true, 0x02, 0), (decide (32 < n), 0x0A, 16)]
              ++ (List.range (min n 32)).map fun j => (c j == 0 || decide (896 < c j), 0x0A, 32 + 2 * j))

/-- The launch that a packet stands for, before its LAUNCH-EXT (R314, R320). -/
def buildLaunch (q : Nat) (ticket : BitVec 32) (p : List Byte) (o : CodeObject) (map : List Parcel) (hmap : Option (List Parcel)) : Launch :=
  let code := pktField p 8 8
  let pcOf := fun (i : Nat) => BitVec.ofNat 64 (code + o.head.codeoff + bitsOf (o.entries.getD i 0) 31 0)
  let tv := pktField p 26 2
  { queue := q, ticket := ticket, tag := pktTag p, packet := p, ext := [], sec := pktByte p 1 % 2 == 1, ldchk := pktByte p 1 / 4 % 2 == 1,
    test := pktByte p 1 / 8 % 2 == 1, quota := pktByte p 3, root := pktField p 16 8, entry := pcOf (pktField p 24 2),
    tvec := if tv == 0xFFFF then 0#64 else pcOf tv, mapIdx := bitsOf (o.entries.getD (pktField p 24 2) 0) 47 32, map := map, hmap := hmap,
    cmask := BitVec.ofNat 64 (pktField p 32 8), kmask := BitVec.ofNat 64 (pktField p 40 8),
    wins := (fieldsOfBytes 4 8 (p.drop 48)).map (BitVec.ofNat 64), seeds := ((fieldsOfBytes 6 8 (p.drop 80)).map (BitVec.ofNat 64)).take (pktByte p 2),
    ckpt := 0#64, bars := [] }

/-- The checks of a LAUNCH after its object has been read, in the order of R318's table, and the launch. -/
def checkObject (s : State) (q : Nat) (ticket : BitVec 32) (p : List Byte) (rd : Nat → Nat → Option (List Byte)) (o : CodeObject) :
    Sum Refused Launch :=
  let hm := pktField p 28 2
  let nseed := pktByte p 2
  let seeds := (fieldsOfBytes 6 8 (p.drop 80)).map (BitVec.ofNat 64)
  let mapOf := fun (i : Nat) => mapParcels rd o (bitsOf (o.entries.getD i 0) 47 32)
  if !(mappedExec (2 ^ 53) s (pktField p 16 8) (pktField p 8 8 + o.head.codeoff) o.head.codesize) then .inl (0x03, 16)
  else match unreadable rd o (pktField p 24 2 :: (if hm == 0xFFFF then [] else [hm])) with
  | some x => .inl (0x03, x)
  | none =>
    match badSeal rd o with
    | some x => .inl (0x04, x)
    | none =>
      match badProfile s o with
      | some x => .inl (0x05, x)
      | none =>
        match (badEntry o (pktField p 24 2) 24).orElse (fun _ => if pktField p 26 2 == 0xFFFF then none else badEntry o (pktField p 26 2) 26)
          |>.orElse (fun _ => if hm == 0xFFFF then none else badEntry o hm 28) with
        | some x => .inl (0x06, x)
        | none =>
          match mapOf (pktField p 24 2) with
          | none => .inl (0x03, 0)
          | some (off, ps) =>
            match checkMap false off ps with
            | .inl x => .inl (0x06, x)
            | .inr img =>
              match (if hm == 0xFFFF then .inr none else
                  match mapOf hm with
                  | none => .inl (0x03, 0)
                  | some (hoff, hps) =>
                    match checkMap true hoff hps with
                    | .inl x => .inl (0x06, x)
                    | .inr _ => .inr (some hps) : Sum Refused (Option (List Parcel))) with
              | .inl x => .inl x
              | .inr hmap =>
                match firstBad ([(decide (img.scalars.length < nseed), 0x07, 2)]
                    ++ (match badSeed img (seeds.take nseed) with | some k => [(true, 0x07, 80 + 8 * k)] | none => [])
                    ++ (List.range 4).map (fun k =>
                        let w := BitVec.ofNat 64 (pktField p (48 + 8 * k) 8)
                        (w != 0#64 && !(winValid w true), 0x08, 48 + 8 * k))
                    ++ [(pktField p 32 8 == 0, 0x09, 32), (pktField p 40 8 == 0, 0x09, 40), (pktByte p 3 == 0 || decide (14 < pktByte p 3), 0x09, 3),
                        (decide (6 < nseed), 0x09, 2), (pktByte p 1 % 2 == 1 && !(queueOf s q).secok, 0x0B, 1), (s.dev.drain != 0, 0x0C, 0)]) with
                | some x => .inl x
                | none => .inr (buildLaunch q ticket p o ps hmap)

/-- The checks of a LAUNCH (R314, R318): ROOT's zero bits first, then the table's order. -/
def checkLaunch (s : State) (q : Nat) (ticket : BitVec 32) (p : List Byte) (next : Option (List Byte)) : Sum Refused Launch :=
  let root := pktField p 16 8
  match firstBad [(root % 4096 != 0 || decide (2 ^ 52 ≤ root), 0x0B, 16), (decide (16 ≤ pktByte p 1), 0x01, 1), (pktByte p 8 % 64 != 0, 0x01, 8),
      (pktByte p 30 != 0, 0x01, 30), (pktByte p 31 != 0, 0x01, 31),
      (wantsExt p && (match next with | some e => !(pktKind e == 7 && pktTag e == pktTag p) | none => true), 0x02, 1)] with
  | some x => .inl x
  | none =>
    let rd := objBytes s q root (pktField p 8 8)
    match readObject rd with
    | .inl x => .inl (0x03, x)
    | .inr o => checkObject s q ticket p rd o

/-- The checks of one packet of a sheaf: the reason and value of a refusal, or the launch that it adds, if any (R313, R318). -/
def checkPacket (s : State) (q : Nat) (m : BitVec 32 × List Byte) (prev next : Option (List Byte)) (inSheaf : Bool) :
    Sum Refused (Option Launch) :=
  let p := m.2
  let ans := fun (r : Option Refused) => match r with | some x => Sum.inl x | none => Sum.inr none
  match pktKind p with
  | 1 => ans ((zeroBad (nonzeroIn p 1 4)).orElse fun _ => zeroBad (nonzeroIn p 8 128))
  | 2 =>
    match checkLaunch s q m.1 p next with
    | .inl x => .inl x
    | .inr l => .inr (some l)
  | 3 =>
    let n := pktField p 8 2
    ans ((zeroBad (nonzeroIn p 1 4)).orElse fun _ => (zeroBad (nonzeroIn p 10 128)).orElse fun _ =>
      if n == 0 || decide (256 < n) then some (0x02, 8) else none)
  | 4 => ans ((zeroBad (nonzeroIn p 1 4)).orElse fun _ => (zeroBad (nonzeroIn p 8 128)).orElse fun _ => if inSheaf then none else some (0x02, 0))
  | 5 =>
    ans ((if 1 < pktByte p 1 then some (0x01, 1) else none).orElse fun _ => (zeroBad (nonzeroIn p 2 4)).orElse fun _ =>
      (badAddress p).orElse fun _ => zeroBad (nonzeroIn p 24 128))
  | 6 => ans ((zeroBad (nonzeroIn p 1 4)).orElse fun _ => (badAddress p).orElse fun _ => zeroBad (nonzeroIn p 24 128))
  | 7 => ans (checkExt p prev)
  | _ => .inl (0x01, 0)

/-! ### Sheaves (R317, R318) -/

/-- Every packet of a refused sheaf gets its record: the failing one its reason, the others 0x0D (R318). -/
def refuseSheaf (s : State) (q : Nat) (ms : List (BitVec 32 × List Byte)) (i reason value : Nat) : State :=
  let grade := if reason == 0x0C then 0 else 3
  ms.zipIdx.foldl (fun t e =>
    let hit := e.2 == i
    postRecord t q (recordBytes (pktTag e.1.2) e.1.1 1 grade (if hit then reason else 0x0D) noAgent (BitVec.ofNat 64 (if hit then value else 0)))) s

/-- The members of a sheaf checked in ticket order (R318): the place, reason and value of the first failure, or the launches. -/
def checkMembers (s : State) (q : Nat) (ms : List (BitVec 32 × List Byte)) (inSheaf : Bool) (i n : Nat) : Sum (Nat × Refused) (List Launch) :=
  match n with
  | 0 => .inr []
  | k + 1 =>
    match ms[i]? with
    | none => .inr []
    | some m =>
      let prev := if i == 0 then none else (ms[i - 1]?).map (·.2)
      match checkPacket s q m prev ((ms[i + 1]?).map (·.2)) inSheaf with
      | .inl x => .inl (i, x)
      | .inr l =>
        match checkMembers s q ms inSheaf (i + 1) k with
        | .inl x => .inl x
        | .inr r => .inr (l.toList ++ r)

/-- A whole sheaf judged: its members act in order, or it is refused whole. -/
def judge (s : State) (q : Nat) (ms : List (BitVec 32 × List Byte)) (inSheaf : Bool) : State :=
  let done := fun (t : State) => modQueue t q fun x => { x with sheaf := none, checking := none, codeBuf := [], codeBad := [] }
  match checkMembers s q ms inSheaf 0 ms.length with
  | .inl (i, r, v) => refuseSheaf (done (modQueue s q fun x => { x with held := [], passed := false, built := [] })) q ms i r v
  | .inr ls => done (modQueue s q fun x => { x with held := ms, passed := true, built := ls })

/-- The ranges of a LAUNCH's code object that validation reads, as far as what it has read tells: the header, the tables, the seal and what it
covers, and the images of the packet's entries. -/
def objectRanges (rd : Nat → Nat → Option (List Byte)) (p : List Byte) : List (Nat × Nat) :=
  match rd 0 64 with
  | none => [(0, 64)]
  | some b =>
    let h := headerOf b
    if (badHeader h).isSome then []
    else
      [(h.entoff, 8 * h.nentry), (h.mapoff, 8 * h.nmap), (h.profoff, 2 * h.nprof)]
        ++ (if h.oflags % 2 == 1 && h.sealoff != 0 then [(0, h.sealoff + 64)] else [])
        ++ (match readObject rd with
            | .inl _ => []
            | .inr o => ([pktField p 24 2, pktField p 28 2].filter fun i => (badEntry o i 0).isNone).map fun i =>
                let w := o.maps.getD (bitsOf (o.entries.getD i 0) 47 32) 0
                (bitsOf w 31 0, bitsOf w 47 32))

/-- Whether a packet has validation read through a tree: a LAUNCH whose ROOT has its zero bits (R318). -/
def readsRoot (p : List Byte) : Bool :=
  pktKind p == 2 && pktField p 16 8 % 4096 == 0 && decide (pktField p 16 8 < 2 ^ 52)

/-- The chunk of a peer's memory that the validation of a packet needs next. -/
def neededChunk (s : State) (q : Nat) (p : List Byte) : Option Nat :=
  let root := pktField p 16 8
  let code := pktField p 8 8
  if readsRoot p then
    (objectRanges (objBytes s q root code) p).findSome? fun r => missingChunk (r.2 / 4096 + 2) s q root (code + r.1) r.2
  else none

/-- What the validation of a packet reads of this device's and the host's memory, with its walks (R173, R183, R318): the chunks that came
poisoned as a whole count as unread. -/
def objectReads (q : Nat) (s : State) (p : List Byte) : State :=
  let root := pktField p 16 8
  let code := pktField p 8 8
  if readsRoot p then
    let rd := objBytes s q root code
    let head := (rd 0 64).map headerOf
    let x := ((0, 64) :: objectRanges rd p).foldl (fun x r => readRange (r.2 / 4096 + 2) true x root (code + r.1) r.2) (s, [])
    let y := match head with
      | some h => readRange (h.codesize / 4096 + 2) false x root (code + h.codeoff) h.codesize
      | none => x
    modQueue y.1 q fun z => { z with codeBad := y.2 ++ z.codeBad }
  else s

/-- A READ of a chunk of a peer's memory for a queue (R334); a device outside the domain has none. -/
def askChunk (s : State) (q a : Nat) : State :=
  let s1 := modQueue { s with serial := s.serial + 1 } q fun y => { y with codeAsked := some s.serial }
  if s.dev.size ≤ peerDev a then codeArrives s1 q s.serial a none
  else sendPacket s1 (peerDev a) 0 0x01 (payRead (peerOff a) codeChunk) (.code q s.serial a)

/-- The validation of what a queue holds goes on: what a peer's memory holds of a code object is read first, chunk by chunk (R318, R334). -/
def goOnChecking (s : State) (q : Nat) : State :=
  let x := queueOf s q
  match x.checking with
  | none => s
  | some inSheaf =>
    if x.codeAsked.isSome then s
    else
      match x.held.findSome? fun m => neededChunk s q m.2 with
      | none =>
        let t := (x.held.map (·.2)).foldl (objectReads q) s
        if (stalledOn s t).isSome then heldBack s t else judge t q x.held inSheaf
      | some a => askChunk s q a

/-- A whole sheaf validated (R317, R318). -/
def validate (s : State) (q : Nat) (ms : List (BitVec 32 × List Byte)) (inSheaf : Bool) : State :=
  goOnChecking (modQueue s q fun x => { x with held := ms, sheaf := none, checking := some inSheaf }) q

/-- A packet consumed outside any sheaf: it opens one, waits for its LAUNCH-EXT, or is a sheaf of one (R315, R317). -/
def takeAlone (s : State) (q : Nat) (m : BitVec 32 × List Byte) : State :=
  let n := pktField m.2 8 2
  if pktKind m.2 == 3 && n != 0 && decide (n ≤ 256) then modQueue s q fun x => { x with held := [m], sheaf := some (n, pktTag m.2) }
  else if wantsExt m.2 then modQueue s q fun x => { x with held := [m] }
  else validate s q [m] false

/-- Whether a packet breaks the form of the open sheaf, and the VALUE of its refusal (R318). -/
def framingFault (held : List (BitVec 32 × List Byte)) (n : Nat) (tag : BitVec 32) (p : List Byte) : Option Nat :=
  let k := held.length - 1
  let last := (held.reverse.head?.map (·.2)).getD []
  if pktKind p == 3 then some 0
  else if pktKind p == 4 then (if k != n then some 0 else if pktTag p != tag then some 4 else none)
  else if k == n then some 0
  else if pktKind p == 7 then (if !(decide (0 < k) && wantsExt last) then some 0 else if pktTag p != pktTag last then some 4 else none)
  else none

/-- A consumed packet joins what the front end holds (R315, R317, R318); a LAUNCH that stands alone without its LAUNCH-EXT is refused for the first
reason that it gives before anything is read. -/
def takePacket (s : State) (q : Nat) (m : BitVec 32 × List Byte) : State :=
  let x := queueOf s q
  let drop := fun (t : State) => modQueue t q fun y => { y with held := [], sheaf := none }
  match x.sheaf with
  | some (n, tag) =>
    let ms := x.held ++ [m]
    match framingFault x.held n tag m.2 with
    | some v => refuseSheaf (drop s) q ms (ms.length - 1) 0x02 v
    | none => if pktKind m.2 == 4 then validate s q ms true else modQueue s q fun y => { y with held := ms }
  | none =>
    match x.held with
    | [] => takeAlone s q m
    | h :: _ =>
      if pktKind m.2 == 7 && pktTag m.2 == pktTag h.2 then validate s q [h, m] false
      else
        let r := match checkLaunch s q h.1 h.2 none with
          | .inl r => r
          | .inr _ => (0x02, 1)
        takeAlone (refuseSheaf (drop s) q [h] 0 r.1 r.2) q m

end Sys2Proof.Machine
end

