-- ==== Sys2Proof/Machine/Fabric.lean ====
section
/-! DEFINITION. The fabric interface as a receiver (R333 to R338), replays (R339), links and ports (R332, R335), versioned routing (R340,
R341), unreachable devices (R342) and the forming of a domain (R332, R336). -/

namespace Sys2Proof.Machine

/-! ### Flows -/

/-- A standalone acknowledgement leaves (R334): it carries no sequence number of its flow. -/
def sendAck (s : State) (peer cls : Nat) : State :=
  emitPacket s { kind := 0x07, cls := cls, src := s.dev.num, dst := peer, av := true, ver := s.fab.cur, seq := 0#32, ack := 0#32, payload := [] }

/-- Whether a granary entry is done with: acknowledged, and answered if it asked for an answer. -/
def grainDone (s : State) (g : Grain) : Bool := !(unacked s g) && (g.answered || g.pending == .reply)

/-- Requests that wait injected, as far as there is room (R337). -/
def drainAll (s : State) : State :=
  s.fab.waiting.foldl (fun t g => drainFlow t g.packet.dst g.packet.cls 1) s

/-- What is done with leaves the granary, and what waited for its room enters. -/
def purge (s : State) : State := drainAll (modFab s fun b => { b with granary := b.granary.filter fun g => !(grainDone s g) })

/-- UNA advanced to an acknowledgement that lies between it and NEXT (R336). -/
def advanceUna (s : State) (peer cls : Nat) (a : BitVec 32) : State :=
  let f := flowOf s peer cls
  if 0 < serialDiff a f.una && 0 ≤ serialDiff f.next a then purge (modFlow s peer cls fun x => { x with una := a, since := s.uncore }) else s

/-- The acknowledgement that a packet carries taken (R333, R336). -/
def takeAck (s : State) (p : Packet) : State := if p.av then advanceUna s p.src p.cls p.ack else s

/-- Every packet of a flow from UNA on sent again, in order, stamped anew (R339). -/
def replayFlow (s : State) (peer cls : Nat) : State :=
  let l := s.fab.granary.filter fun g => g.packet.dst == peer && g.packet.cls == cls && unacked s g
  if l.isEmpty then s
  else
    l.foldl (fun t g => emitPacket t g.packet) (modFab (modFlow s peer cls fun x => { x with since := s.uncore }) fun b => { b with replays := b.replays + 1 })

/-- Uncore cycles of the 40 µs after which a flow is replayed (R339). -/
def replayCycles : Nat := 90000

/-- Whether a flow has packets unacknowledged, and for 40 µs no acknowledgement has advanced it (R339). -/
def replayDue (s : State) (f : Flow) : Bool := f.una != f.next && !f.closed && decide (f.since + replayCycles ≤ s.uncore)

/-- Uncore cycles of the 1 µs for which an acknowledgement waits for a packet that carries it (R334). -/
def ackCycles : Nat := 2250

/-- Whether an acknowledgement is owed, and no packet of the reverse flow has carried it for 1 µs (R334). -/
def ackDue (s : State) (f : Flow) : Bool := f.owed && !f.closed && decide (f.owedAt + ackCycles ≤ s.uncore)

/-- Every flow replayed (R339, R341). -/
def replayAll (s : State) : State := s.fab.flows.foldl (fun t e => replayFlow t (e.1 / 2) (e.1 % 2)) s

/-! ### Unreachable devices (R342) -/

/-- A device that cannot be reached: what its flows held completes with cause 0x0F, the flows close, and LOST is set (R147, R342). -/
def dropDevice (s : State) (d : Nat) : State :=
  let mine := fun (g : Grain) => g.packet.dst == d
  let gs := (s.fab.granary ++ s.fab.waiting).filter fun g => mine g && !g.answered
  let s1 := modFab s fun b => { b with granary := b.granary.filter fun g => !(mine g), waiting := b.waiting.filter fun g => !(mine g) }
  let close := fun (f : Flow) => { f with closed := true }
  let s2 := modFlow (modFlow s1 d 0 close) d 1 close
  markLost (gs.foldl (fun t g => failPending t g.pending) s2) fun a => agentDev s a == d

/-- A device that rejoins: its flows begin again at sequence 0 (R342). -/
def joinDevice (s : State) (d : Nat) : State := modFlow (modFlow s d 0 fun _ => {}) d 1 fun _ => {}

/-! ### Versions (R340, R341) -/

/-- A pending table made current: devices that it cuts off are dropped, those that it brings back begin anew, and every flow is replayed. -/
def activate (s : State) (v : BitVec 16) (t : List (Nat × Nat)) : State :=
  let s1 := modFab s fun b => { b with cur := v, table := t, pendTable := none }
  let gone := (List.range s.dev.size).filter fun d => !(unreachable s d) && unreachable s1 d
  let back := (List.range s.dev.size).filter fun d => unreachable s d && !(unreachable s1 d)
  replayAll (back.foldl joinDevice (gone.foldl dropDevice s1))

/-- What a packet's stamp makes of it (R340): the state to go on in, or nothing when it is discarded. -/
def checkVersion (s : State) (p : Packet) : Option State :=
  if 2 ≤ p.cls || p.ver == s.fab.cur then some s
  else if serialDiff p.ver s.fab.cur < 0 then none
  else
    match s.fab.pendTable with
    | some (v, t) => if v == p.ver then some (activate s v t) else none
    | none => none

/-! ### Receiving -/

/-- A malformed packet discarded and counted at the port it came by (R334). -/
def discard (s : State) (p : Packet) : State := if p.port < 48 then modPort s p.port fun x => { x with errs := x.errs + 1 } else s

/-- A packet for another device goes on through the port that the table names (R340). -/
def forward (s : State) (p : Packet) : State := if portTo s p.dst < 48 then outPacket s p else s

/-- A packet of a kind and class received: checked, forwarded, or applied under its sequence number (R334, R336, R340). -/
def receive (kind cls : Nat) (act : State → Packet → State) (p : Packet) (s : State) : State :=
  if badPacket p || p.kind != kind || p.cls != cls then discard s p
  else
    match checkVersion s p with
    | none => s
    | some t =>
      if p.dst != t.dev.num then forward t p
      else
        let f := flowOf t p.src p.cls
        if f.closed || unreachable t p.src then t
        else
          let u := takeAck t p
          let d := serialDiff p.seq f.exp
          if d = 0 then
            act (modFlow u p.src p.cls fun x => { x with exp := x.exp + 1#32, owed := true, owedAt := if x.owed then x.owedAt else s.uncore }) p
          else if d < 0 then sendAck u p.src p.cls
          else u

/-! ### Requests (R334, R368) -/

/-- Whether a peer may not reach an address: a hole, or stacked SRAM of a secure region (R151, R370); the cause it is told. -/
def peerRefused (s : State) (a : Nat) : Option Nat :=
  if !(inDevice a) then some 0x09 else if inSram a && inSecure s a then some 0x0A else none

/-- A peer's access joins the outside accesses, or is refused. -/
def outsideAccess (s : State) (p : Packet) (a n : Nat) (o : WOp) : State :=
  match (peerRefused s a).orElse fun _ => if n == 0 then none else peerRefused s (a + n - 1) with
  | some c => reply s p.src p.seq 2 c []
  | none => emitOutside s o (some (p.src, p.seq))

/-- READ applied. -/
def applyRead (s : State) (p : Packet) : State :=
  let a := pktField p.payload 0 8
  let n := pktField p.payload 8 2
  outsideAccess s p a n (.read a n)

/-- The data bytes of a WRITE that its mask enables. -/
def writeBytes (b : List Byte) : List MByte :=
  let a := pktField b 0 8
  let n := (b.length - 8) * 8 / 9
  let m := (n + 7) / 8
  ((List.range n).filter fun i => pktByte b (8 + i / 8) / 2 ^ (i % 8) % 2 == 1).map fun i => { addr := a + i, val := b.getD (8 + m + i) 0#8 }

/-- WRITE applied. -/
def applyWrite (s : State) (p : Packet) : State :=
  let bs := writeBytes p.payload
  match bs.head?, bs.reverse.head? with
  | some x, some y => outsideAccess s p x.addr (y.addr - x.addr + 1) (.store bs p.mark)
  | _, _ => reply s p.src p.seq 0 0 []

/-- The atomic that an ATOMIC packet carries (R35, R368): a CAS's size field sets the uppermost bit, which no op number does. -/
def atomicOf (b : List Byte) (signed : Bool) : AtomicReq :=
  let t := pktField b 8 2
  let cas := bitsOf t 15 15 == 1
  let size := if cas then bitsOf t 15 14 else bitsOf t 11 10
  let order := if cas then bitsOf t 13 12 else bitsOf t 9 8
  { cas := cas, op := if cas then 0 else bitsOf t 15 12, bytes := if size == 3 then 8 else 4, addr := pktField b 0 8, signed := signed,
    operand := BitVec.ofNat 64 (pktField b 16 8), newVal := BitVec.ofNat 64 (pktField b 24 8), acq := order % 2 == 1, rel := 2 ≤ order,
    scope := if cas then bitsOf t 11 9 else bitsOf t 7 5 }

/-- ATOMIC applied. -/
def applyAtomic (s : State) (p : Packet) : State :=
  let a := atomicOf p.payload p.mark
  outsideAccess s p a.addr a.bytes (.atomic a)

/-- The message that a MSG packet carries. -/
def messageOf (b : List Byte) : Message :=
  let l := pktField b 8 4
  { core := 0, serial := 0, target := BitVec.ofNat 32 (pktField b 0 4), sender := BitVec.ofNat 32 (pktField b 4 4),
    launch := if l == 0 then none else some l, words := (fieldsOfBytes (pktField b 12 2) 8 (b.drop 16)).map (BitVec.ofNat 64) }

/-- What hardware of a peer sends in a MSG (log entry 12): an event, an announce, a count request, or the notice that a core is sealed (R147). -/
def applyHardware (s : State) (m : Message) : State :=
  let w := (m.words.getD 1 0#64).toNat
  if m.words.headD 0#64 == 1#64 then post s (.eventArrival m.target)
  else if m.words.headD 0#64 == 2#64 then
    post s (.announceArrival m.target m.sender (BitVec.ofNat 32 w) (bitsOf w 32 32 == 1) (bitsOf w 33 33 == 1))
  else if m.words.headD 0#64 == 3#64 then post s (.countRequest m.target m.sender)
  else if m.words.headD 0#64 == 4#64 then markLost s fun n => sameUnit s n m.sender
  else s

/-- MSG applied: handed to its inbox port, whose answer is the RESP (R215). -/
def applyMsg (s : State) (p : Packet) : State :=
  let m := messageOf p.payload
  if m.launch == some hardwareLaunch then applyHardware s m
  else if !(agentValid s m.target) || !(agentHere s m.target) then reply s p.src p.seq 2 0x0F []
  else
    let (t, status, cause) := deliver s m
    reply t p.src p.seq status cause []

/-- STEPRD applied: a GETS reaches its producer's quad (R141). -/
def applyStep (s : State) (p : Packet) : State :=
  let b := p.payload
  let f := pktField b 8 2
  let t := BitVec.ofNat 32 (pktField b 0 4)
  if !(agentValid s t && agentHere s t && decide (agentUnit t < 64)) then reply s p.src p.seq 2 0x0D []
  else
    post s (.getsArrival { reader := 0#32, core := 0, slot := 0, uid := 0, serial := 0, from' := some (p.src, p.seq), producer := t,
                           step := BitVec.ofNat 32 (pktField b 4 4), ring := BitVec.ofNat 2 (f / 2 ^ 12), off := BitVec.ofNat 12 f })

/-! ### Answers -/

/-- Bytes returned for an instruction or a fetch that waits for them, or the trap that their error is. -/
def fillArrives (s : State) (k i uid addr : Nat) (va : Word) (status cause : Nat) (data : List Byte) : State :=
  let x := slotOf s k i
  let waits := match x.status with | .ready | .parked (.ahead _ _) => true | _ => false
  if x.uid != uid || !waits then s
  else if status == 2 then takeTrapAt s k i x.pc cause va
  else modSlot s k i fun y => { y with peerBuf := y.peerBuf ++ data.zipIdx.map fun e => (addr + e.2, e.1) }

/-- The value of an answered GETS (R141, R147, R177), or its retry after 64 uncore cycles (R143). -/
def getsAnswer (s : State) (g : GetsReq) (status cause : Nat) (data : List Byte) : State :=
  if !(getsLive s g) then s
  else if status == 1 then modQuad s (queueKey g.core) fun x => { x with stepRetry := x.stepRetry ++ [(s.uncore + 64, g)] }
  else if status == 0 then finishWait (answerWb s g.core g.serial 64 (ofBytes data) none) g.core g.slot
  else if cause == 0x0E then
    let (v, err, mark) := consumed g.core true (ofBytes data) (BitVec.ofNat 64 (ofBytes data))
    finishWait (answerWb s g.core g.serial 64 v err mark) g.core g.slot
  else trapGets s g cause (if cause == 0x0C then g.step.setWidth 64 else g.producer.setWidth 64)

/-- What an answer completes (R215, R334, R342). -/
def completePending (s : State) (x : Pending) (status cause : Nat) (data : List Byte) : State :=
  match x with
  | .load k _ _ serial n _ va =>
    if status == 0 then answerWb s k serial (8 * n) (ofBytes data) none
    else if isStreamer k && cause == 0x0E then answerWb s k serial (8 * n) (ofBytes data) none true
    else answerWb s k serial (8 * n) 0 (some (cause, va))
  | .line c pa n => lineAnswered s c n fun t =>
    if status == 0 then lineArrives t c { pa := pa, parcels := lineParcels (memPuts [] 0 data) 0 } else lineFails t c pa cause
  | .fill k i uid _ addr va => fillArrives s k i uid addr va status cause data
  | .store e => if status == 0 then s else failWrite s e cause
  | .atomic e =>
    match e.op with
    | .atomic a =>
      if status == 0 then answerWb s e.core a.dest (8 * a.bytes) (ofBytes data) none
      else if a.dest = 0 then failWrite s e cause
      else answerWb s e.core a.dest (8 * a.bytes) 0 (some (cause, e.va))
    | _ => s
  | .msg k serial => answerMsg s k serial status cause
  | .gets g => getsAnswer s g status cause data
  | .front q n => frontArrives s q n (if status == 0 then some (BitVec.ofNat 64 (ofBytes data)) else none)
  | .code q n a => codeArrives s q n a (if status == 0 then some data else none)
  | .mbox i a => mboxArrives s i a (if status == 0 then some data else none)
  | .reply => s

/-- RESP applied: matched to its request by the request's SEQ (R368). -/
def applyResp (s : State) (p : Packet) : State :=
  let b := p.payload
  let seq := BitVec.ofNat 32 (pktField b 0 4)
  let hit := fun (g : Grain) => g.packet.dst == p.src && g.packet.cls == 0 && g.packet.seq == seq && !g.answered
  match s.fab.granary.find? hit with
  | none => s
  | some g =>
    let s1 := modFab s fun f => { f with granary := f.granary.map fun x => if hit x then { x with answered := true } else x }
    purge (completePending s1 g.pending (pktByte b 4) (pktByte b 5) ((b.drop 16).take (pktField b 8 2)))

/-- READ. -/
def execRead (p : Packet) (s : State) : Host.Outcome State Fault Refusal := .next (receive 0x01 0 applyRead p s)
/-- WRITE. -/
def execWrite (p : Packet) (s : State) : Host.Outcome State Fault Refusal := .next (receive 0x02 0 applyWrite p s)
/-- ATOMIC. -/
def execAtomic (p : Packet) (s : State) : Host.Outcome State Fault Refusal := .next (receive 0x03 0 applyAtomic p s)
/-- MSG. -/
def execMsg (p : Packet) (s : State) : Host.Outcome State Fault Refusal := .next (receive 0x04 0 applyMsg p s)
/-- STEPRD. -/
def execSteprd (p : Packet) (s : State) : Host.Outcome State Fault Refusal := .next (receive 0x05 0 applyStep p s)
/-- RESP. -/
def execResp (p : Packet) (s : State) : Host.Outcome State Fault Refusal := .next (receive 0x06 1 applyResp p s)

/-- ACK: a standalone acknowledgement; it has no sequence number of its own. -/
def execAck (p : Packet) (s : State) : Host.Outcome State Fault Refusal :=
  if badPacket p || p.kind != 0x07 then .next (discard s p)
  else
    match checkVersion s p with
    | none => .next s
    | some t => .next (if p.dst != t.dev.num then forward t p else if (flowOf t p.src p.cls).closed then t else takeAck t p)

/-- STANDALONE_ACK: sent once no packet of the reverse flow has carried the acknowledgement within 1 µs (R334). -/
def execStandaloneAck (peer cls : Nat) (s : State) : Host.Outcome State Fault Refusal :=
  .next (if ackDue s (flowOf s peer cls) then sendAck s peer cls else s)

/-- REPLAY_TIMEOUT: a flow that no acknowledgement has moved for 40 µs is replayed (R339). -/
def execReplayTimeout (peer cls : Nat) (s : State) : Host.Outcome State Fault Refusal :=
  .next (if replayDue s (flowOf s peer cls) then replayFlow s peer cls else s)

/-! ### Links and ports (R332, R335, R343) -/

/-- A port's state with given good lanes: up on four, degraded on the lowest two of two or three, else down (R332). -/
def trained (x : Port) (good : BitVec 4) : Port :=
  let l := (List.range 4).filter fun i => good.getLsbD i
  if l.length == 4 then { x with state := 2, lanes := 15#4 }
  else if 2 ≤ l.length then { x with state := 3, lanes := BitVec.ofNat 4 ((l.take 2).map (2 ^ ·)).sum }
  else { x with state := 4, lanes := 0#4 }

/-- A port goes down: what its buffers hold is dropped, and the manager is told (R335, R341). -/
def portDown (s : State) (p : Nat) : State :=
  post (modPort s p fun x => { x with state := 4, lanes := 0#4, replayBuf := [], queue := [], inBuf := [], resends := 0, asked := none }) (.fabricManagerTold s.dev.num p false)

/-- LINK_DEAD. -/
def execLinkDead (port : Nat) (s : State) : Host.Outcome State Fault Refusal := .next (if portUp s port then portDown s port else s)

/-- LANE_FAILURE: the port goes on with the lanes that are good, or goes down (R332). -/
def execLaneFailure (port : Nat) (good : BitVec 4) (s : State) : Host.Outcome State Fault Refusal :=
  if !(portUp s port) then .next s
  else
    let s1 := modPort s port fun x => trained x good
    if portUp s1 port then .next s1 else .next (portDown s port)

/-- PORT_UP: training ends with some lanes good, and the manager is told of a port that carries traffic again (R332, R341, R343). -/
def execPortUp (port peer peerPort : Nat) (good : BitVec 4) (s : State) : Host.Outcome State Fault Refusal :=
  if 48 ≤ port then .next s
  else
    let s1 := modPort s port fun x => trained { x with peerDev := peer, peerPort := peerPort, lsnNext := 0#12, lsnUna := 0#12, lsnExp := 0#12, replayBuf := [], queue := [], inBuf := [], resends := 0, asked := none } good
    .next (if portUp s1 port then post s1 (.fabricManagerTold s.dev.num port true) else s1)

/-! ### The fabric manager (R341) -/

/-- The cables that both ends keep up. -/
def goodLinks (f : Fabric) : List (Nat × Nat × Nat × Nat) :=
  f.links.filter fun l => !(f.down.contains (l.1, l.2.1)) && !(f.down.contains (l.2.2.1, l.2.2.2))

/-- Devices by their distance in hops from some, in at most n more rounds. -/
def hopsFrom (links : List (Nat × Nat × Nat × Nat)) (n dist : Nat) (front seen : List Nat) : List (Nat × Nat) :=
  match n with
  | 0 => []
  | m + 1 =>
    if front.isEmpty then []
    else
      let next := (links.filter fun l => front.contains l.1 && !(seen.contains l.2.2.1)).foldl (fun a l => sput a l.2.2.1) []
      front.map (fun d => (d, dist)) ++ hopsFrom links m (dist + 1) next (seen ++ next)

/-- The distances of every device that reaches one. -/
def distances (links : List (Nat × Nat × Nat × Nat)) (size d : Nat) : List (Nat × Nat) := hopsFrom links (size + 1) 0 [d] [d]

/-- The distance of a device in a list of distances. -/
def distOf (l : List (Nat × Nat)) (d : Nat) : Option Nat := (l.find? fun e => e.1 == d).map (·.2)

/-- The port by which a device reaches another: the lowest of those on a way with the fewest hops, 48 without one. -/
def routeTo (links : List (Nat × Nat × Nat × Nat)) (size own dst : Nat) : Nat :=
  let ds := distances links size dst
  match distOf ds own with
  | none => 48
  | some k => (links.filter fun l => l.1 == own && distOf ds l.2.2.1 == some (k - 1)).foldl (fun m l => min m l.2.1) 48

/-- A device's whole table. -/
def routeTable (links : List (Nat × Nat × Nat × Nat)) (size own : Nat) : List (Nat × Nat) :=
  ((List.range size).filter (· != own)).map fun d => (d, routeTo links size own d)

/-- The other devices that this one reaches by the cables it knows to be up. -/
def reached (s : State) : List Nat := ((distances (goodLinks s.fab) s.dev.size s.dev.num).map (·.1)).filter (· != s.dev.num)

/-- The device that manages the fabric as this one sees it: the lowest-numbered that it can reach by the cables it knows to be up (R341). -/
def managerOf (s : State) : Nat := (reached s).foldl min s.dev.num

/-- A class-2 packet given to every port that is up, but for the one it came by: notices are flooded (R341), so that none depends on a table
that may lead into a dead port. -/
def floodPacket (s : State) (p : Packet) : State :=
  ((List.range 48).filter fun n => n != p.port && portUp s n).foldl (fun t n => givePort t n p) (modFab s fun b => { b with out := p :: b.out })

/-- A CTRL packet of the manager's firmware, which lays it out: what it is, its number among this device's notices, and what it says (log entry
12). -/
def sendCtrl (s : State) (d tag : Nat) (body : List Byte) : State :=
  let s1 := modFab s fun b => { b with notices := b.notices + 1 }
  floodPacket s1 { kind := 0x08, cls := 2, src := s.dev.num, dst := d, av := false, ver := s.fab.cur, seq := 0#32, ack := 0#32,
                   payload := toBytes 2 tag ++ toBytes 4 s.fab.notices ++ body }

/-- The version after the last one issued. -/
def nextVersion (s : State) : BitVec 16 :=
  (if 0 < serialDiff s.fab.issued s.fab.cur then s.fab.issued else s.fab.cur) + 1#16

/-- An install notice for another device, cut into packets of at most 200 of the table's entries; each says how many the table has. -/
def sendInstall (s : State) (v : BitVec 16) (d n size : Nat) (t : List (Nat × Nat)) : State :=
  match n with
  | 0 => s
  | m + 1 =>
    if t.isEmpty then s
    else
      let part := (t.take 200).flatMap fun e => toBytes 2 e.1 ++ toBytes 1 e.2
      sendInstall (sendCtrl s d 1 (toBytes 2 v.toNat ++ toBytes 2 size ++ toBytes 1 (min 200 t.length) ++ part)) v d m size (t.drop 200)

/-- The ports known to be down, after news of one. -/
def downAfter (l : List (Nat × Nat)) (device port : Nat) (up : Bool) : List (Nat × Nat) :=
  if up then l.filter (· != (device, port)) else if l.contains (device, port) then l else (device, port) :: l

/-- The news of a port noted: every device keeps it, since any may come to be the lowest that is reachable (R341). -/
def learn (s : State) (device port : Nat) (up : Bool) : State := modFab s fun b => { b with down := downAfter b.down device port up }

/-- The news of a port flooded to the manager (R341, log entry 12). -/
def sendNews (s : State) (device port : Nat) (up : Bool) : State :=
  sendCtrl s (managerOf s) 3 (toBytes 2 device ++ toBytes 1 port ++ toBytes 1 (if up then 1 else 0))

/-- What a device knows of the ports of the devices that it reaches, told to devices that a cable brings back (R341, log entry 117): which devices,
and their ports that are down. What one notice does not hold follows as news of single ports. -/
def sendSync (s : State) (ds : List Nat) : State :=
  let l := s.fab.down.filter fun e => ds.contains e.1
  let set := (List.range 128).map fun i => BitVec.ofNat 8 (ds.foldl (fun n d => if d / 8 == i then n + 2 ^ (d % 8) else n) 0)
  let s1 := sendCtrl s (managerOf s) 6 (toBytes 1 (min 150 l.length) ++ set ++ (l.take 150).flatMap fun e => toBytes 2 e.1 ++ toBytes 1 e.2)
  (l.drop 150).foldl (fun t e => sendNews t e.1 e.2 false) s1

/-- The manager's first phase (R341): the tables of the next version computed and flooded, its own among them. -/
def issueVersion (s : State) : State :=
  let v := nextVersion s
  let table := routeTable (goodLinks s.fab) s.dev.size
  post ((reached s).foldl (fun t d => sendInstall t v d 8 (table d).length (table d)) (modFab s fun b => { b with issued := v }))
    (.installNotice v (table s.dev.num))

/-- FABRIC_MANAGER_TOLD: this device learns of a port. It floods the news of its own ports, and any that another device is to act on; the manager
issues the tables of the next version, unless the news changes no cable, as that of a cable's other end does not (R341). A device whose port brings
others back tells them what it knows of its side. -/
def execFabricManagerTold (device port : Nat) (up : Bool) (s : State) : Host.Outcome State Fault Refusal :=
  let s0 := learn s device port up
  if s0.fab.down == s.fab.down then .next s
  else
    let manages := managerOf s0 == s.dev.num
    let s1 := if !manages || device == s.dev.num then sendNews s0 device port up else s0
    let s1 := if device == s.dev.num && (reached s0).any (fun d => !((reached s).contains d)) then sendSync s1 (s.dev.num :: reached s) else s1
    .next (if manages && goodLinks s0.fab != goodLinks s.fab then issueVersion s1 else s1)

/-- INSTALL_NOTICE: the table is stored as pending and acknowledged; one of a version already held, or older, is ignored (R341). -/
def execInstallNotice (version : BitVec 16) (table : List (Nat × Nat)) (s : State) : Host.Outcome State Fault Refusal :=
  let held := match s.fab.pendTable with
    | some (v, _) => decide (serialDiff version v ≤ 0)
    | none => false
  if held || decide (serialDiff version s.fab.cur ≤ 0) then .next s
  else
    let s1 := modFab s fun b => { b with pendTable := some (version, table) }
    if managerOf s == s.dev.num then .next (post s1 (.installAck s.dev.num version))
    else .next (sendCtrl s1 (managerOf s) 4 (toBytes 2 version.toNat ++ toBytes 2 s.dev.num))

/-- The pending table of a version made current. -/
def activateVersion (s : State) (version : BitVec 16) : State :=
  match s.fab.pendTable with
  | some (v, t) => if v == version then activate s v t else s
  | none => s

/-- INSTALL_ACK: once every reachable device has acknowledged the version, the manager floods the activate notice, and takes it itself. -/
def execInstallAck (device : Nat) (version : BitVec 16) (s : State) : Host.Outcome State Fault Refusal :=
  if managerOf s != s.dev.num || version != s.fab.issued then .next s
  else
    let s1 := modFab s fun b => { b with acks := (device, version) :: b.acks.filter fun e => e.2 == version && e.1 != device }
    if (s.dev.num :: reached s1).all fun d => s1.fab.acks.contains (d, version) then
      .next (activateVersion ((reached s1).foldl (fun t d => sendCtrl t d 2 (toBytes 2 version.toNat)) s1) version)
    else .next s1

/-- ACTIVATE_NOTICE. -/
def execActivateNotice (version : BitVec 16) (s : State) : Host.Outcome State Fault Refusal := .next (activateVersion s version)

/-- A device marked unreachable and dropped, but for this one and those that are so already (R342); none of its cables counts as up. -/
def loseDevice (s : State) (device : Nat) : State :=
  if device == s.dev.num || unreachable s device then s
  else
    dropDevice (modFab s fun b =>
      { b with table := (device, 48) :: b.table.filter fun e => e.1 != device
               down := (b.links.filter fun l => l.1 == device).foldl (fun d l => downAfter d l.1 l.2.1 false) b.down }) device

/-- UNREACHABLE_NOTICE: the device is marked unreachable and dropped (R342). -/
def execUnreachableNotice (device : Nat) (s : State) : Host.Outcome State Fault Refusal := .next (loseDevice s device)

/-! ### Flits and what they bring (R333 to R335, R340, R341) -/

/-- The entries of a table in an install notice. -/
def tableEntries (n : Nat) (b : List Byte) : List (Nat × Nat) :=
  match n with
  | 0 => []
  | m + 1 => (pktField b 0 2, pktByte b 2) :: tableEntries m (b.drop 3)

/-- A part of an install notice kept with those before it; the whole table is installed. -/
def installPart (s : State) (b : List Byte) : State :=
  let v := BitVec.ofNat 16 (pktField b 0 2)
  let t := (((s.fab.parts.find? fun e => e.1 == v).map (·.2)).getD []) ++ tableEntries (pktByte b 4) (b.drop 5)
  let rest := s.fab.parts.filter fun e => e.1 != v
  if t.length < pktField b 2 2 then modFab s fun f => { f with parts := (v, t) :: rest }
  else post (modFab s fun f => { f with parts := rest }) (.installNotice v t)

/-- What a notice for this device says. -/
def takeNotice (s : State) (b : List Byte) : State :=
  let tag := pktField b 0 2
  let r := b.drop 6
  if tag == 1 then installPart s r
  else if tag == 2 then post s (.activateNotice (BitVec.ofNat 16 (pktField r 0 2)))
  else if tag == 3 then post s (.fabricManagerTold (pktField r 0 2) (pktByte r 2) (pktByte r 3 == 1))
  else if tag == 4 then post s (.installAck (pktField r 2 2) (BitVec.ofNat 16 (pktField r 0 2)))
  else if tag == 5 then loseDevice s (pktField r 0 2)
  else s

/-- The news of a port that a notice carries. -/
def newsOf (b : List Byte) : Option (Nat × Nat × Bool) :=
  let r := b.drop 6
  if pktField b 0 2 == 3 then some (pktField r 0 2, pktByte r 2, pktByte r 3 == 1) else none

/-- The later of the version last issued, as this device knows it, and one that another device has in force. -/
def knowVersion (s : State) (v : BitVec 16) : State := modFab s fun b => { b with issued := if 0 < serialDiff v b.issued then v else b.issued }

/-- News of a port that is passed on to the manager is noted on the way; a device that the news makes the manager acts on it (R341). -/
def overhear (s : State) (n : Nat × Nat × Bool) : State :=
  let t := learn s n.1 n.2.1 n.2.2
  if managerOf t == s.dev.num then post s (.fabricManagerTold n.1 n.2.1 n.2.2) else t

/-- What a device of another part of the domain knows of its side taken over, and its version; the manager issues the tables of the next version if
that changes a cable or passes every version that it knew (R341, log entry 117). -/
def takeSync (s : State) (ver : BitVec 16) (b : List Byte) : State :=
  let ds := (List.range 1024).filter fun d => pktByte b (1 + d / 8) / 2 ^ (d % 8) % 2 == 1
  let t := modFab (knowVersion s ver) fun f =>
    { f with down := f.down.filter (fun e => !(ds.contains e.1)) ++ (tableEntries (pktByte b 0) (b.drop 129)).filter fun e => ds.contains e.1 }
  if managerOf t == s.dev.num && (goodLinks t.fab != goodLinks s.fab || nextVersion t != nextVersion s) then issueVersion t else t

/-- A class-2 packet received (R340, R341): taken where it is meant for, else passed on hop by hop, and in either case once. News goes to every
device. -/
def takeCtrl (s : State) (p : Packet) : State :=
  let id := (p.src, pktField p.payload 2 4)
  if p.src == s.dev.num || s.fab.passed.contains id then s
  else
    let s1 := modFab s fun b => { b with passed := (id :: b.passed).take 4096 }
    let mine := p.dst == s.dev.num
    if pktField p.payload 0 2 == 6 then takeSync (floodPacket s1 p) p.ver (p.payload.drop 6) else
    match newsOf p.payload with
    | some n =>
      let s2 := knowVersion (floodPacket s1 p) p.ver
      if mine then takeNotice s2 p.payload else overhear s2 n
    | none => if mine then takeNotice s1 p.payload else floodPacket s1 p

/-- A whole packet that came by a port goes to the step of its kind, or is discarded (R334). -/
def packetArrives (s : State) (p : Packet) : State :=
  if badPacket p then discard s p
  else if p.kind == 1 then post s (.read p)
  else if p.kind == 2 then post s (.write p)
  else if p.kind == 3 then post s (.atomic p)
  else if p.kind == 4 then post s (.msg p)
  else if p.kind == 5 then post s (.steprd p)
  else if p.kind == 6 then post s (.resp p)
  else if p.kind == 7 then post s (.ack p)
  else takeCtrl s p

/-- The packet of a port's received flits, once all that its FLITS counts are there; a FLITS of 10 or more is bad, and ends it at once. -/
def assemble (s : State) (port : Nat) : State :=
  let l := (portOf s port).inBuf
  let n := match l with | [] => 0 | f :: _ => flitsField f.data
  if l.length == n + 1 || 9 < n then packetArrives (modPort s port fun x => { x with inBuf := [] }) (packetOfFlits port l) else s

/-- A flit with a bad CRC (R335): the first asks for a resend from the flit expected on. While a resend is awaited, one that bears the expected number
is a resend that failed, the sixteenth of which in a row kills the link; others were sent before the request, and count for nothing. One without data
was an acknowledgement or a request, which the sender repeats when it is asked. -/
def badFlit (s : State) (port : Nat) (lsn : BitVec 12) (empty : Bool) : State :=
  let x := portOf s port
  if empty then modPort s port fun y => y.ask s.uncore
  else if x.asked.isSome && lsn != x.lsnExp then modPort s port fun y => y.askLate s.uncore
  else if x.asked.isSome && decide (15 ≤ x.resends) then portDown s port
  else modPort s port fun y => ({ y with resends := if x.asked.isSome then y.resends + 1 else 0 } : Port).ask s.uncore

/-- FLIT: a good flit in order is acknowledged and joins its packet; a bad one is asked for again. The acknowledgement that it brings frees the replay
buffer, and a request in it has the flits from there on sent again (R333, R335). A flit without data that bears the number expected says that
nothing is missing. Both ends of a link count its resends in LLR (log entry 90). -/
def execFlit (port : Nat) (data : List Byte) (crc : BitVec 32) (side : Sidecar) (s : State) : Host.Outcome State Fault Refusal :=
  let f : Flit := { side with data := data, crc := crc }
  if !(portUp s port) then .next s
  else if !(flitGood f) then .next (badFlit s port f.lsn data.isEmpty)
  else
    let s1 := modPort s port fun x => let y := x.takeAck f.ack; if f.resend then y.resend else y
    let next := f.lsn == (portOf s port).lsnExp
    if f.data.isEmpty then .next (if next then modPort s1 port fun x => { x with asked := none, resends := 0 } else s1)
    else if next then .next (assemble (modPort s1 port fun x => x.accept f) port)
    else .next (modPort s1 port fun x => x.astray f.lsn s.uncore)

/-! ### Forming -/

/-- DOMAIN_FORMATION: firmware fixes this device's number, the domain's size and its cabling, every port of a cable trains until PORT_UP brings it up
(R345, log entry 116), the tables have the fewest hops, and every flow starts at sequence 0 (R332, R336, R341). -/
def execDomainFormation (self size : Nat) (links : List (Nat × Nat × Nat × Nat)) (s : State) : Host.Outcome State Fault Refusal :=
  if size == 0 || decide (1024 < size) || decide (size ≤ self) then .next s
  else
    let mine := links.filter fun l => l.1 == self && decide (l.2.1 < 48)
    let ports := mine.foldl (fun (t : Tab Port) l => tput t l.2.1 { state := 1, peerDev := l.2.2.1, peerPort := l.2.2.2 }) []
    .next { s with
      dev := { s.dev with num := self, size := size }
      fab := { ports := ports, table := routeTable links size self, cur := s.fab.cur, issued := s.fab.cur, links := links,
               replays := s.fab.replays, out := s.fab.out } }

end Sys2Proof.Machine
end

