-- ==== Sys2Proof/Machine/Integer.lean ====
section
/-! DEFINITION. The integer class (R67 to R85): exact results fitted by the destination. DIV and REM leave a write-back (R367). -/

namespace Sys2Proof.Machine

/-! ### Shared operations -/

/-- pat(n) (R70): a value's bits within a width. -/
def patOf (x : Int) (w : Nat) : Nat := (BitVec.ofInt w x).toNat

/-- Bitwise combination of the infinite two's-complement forms (R69): both values in one width that holds them. -/
def bitwise (f : BitVec 130 → BitVec 130 → BitVec 130) (x y : Int) : Int :=
  (f (BitVec.ofInt 130 x) (BitVec.ofInt 130 y)).toInt

/-- The shift count of R74. -/
def shiftCount (c : Int) : Nat := if c < 0 then 0 else if c > 127 then 127 else c.toNat

/-- val(B) × 2^e (R73). -/
def shiftLeft (x : Int) (e : Nat) : Int := x * 2 ^ e

/-- floor(val(B) ÷ 2^e) (R73). -/
def shiftRight (x : Int) (e : Nat) : Int := x.fdiv (2 ^ e)

/-- Leading zeros of a pattern within a width (R76). -/
def leadingZeros (p w : Nat) : Nat := if p = 0 then w else w - (Nat.log2 p + 1)

/-- Trailing zeros of a pattern, at most `n` looked at (R76). -/
def trailingZeros (p n : Nat) : Nat :=
  match n with
  | 0 => 0
  | m + 1 => if p % 2 = 1 then 0 else 1 + trailingZeros (p / 2) m

/-- Ones in the low n bits of a pattern (R76). -/
def countOnes (p n : Nat) : Nat :=
  match n with
  | 0 => 0
  | m + 1 => p % 2 + countOnes (p / 2) m

/-- A pattern of width w rotated left by a count mod w (R76). -/
def rotated (p w : Nat) (c : Int) : Nat :=
  let r := (c % (w : Int)).toNat
  (p * 2 ^ r + p / 2 ^ (w - r)) % 2 ^ w

/-- The field BFX extracts, before A's signedness (R79). -/
def bitField (x : Int) (p n : Nat) : Int := (x.fdiv (2 ^ p)) % (2 ^ n)

/-- The new pattern of BFI (R79): n low bits of x at position p, within A's width. -/
def insertBits (pat wa p n : Nat) (x : Int) : Nat :=
  let v := (x % (2 ^ n : Int)).toNat
  (pat - pat / 2 ^ p % 2 ^ n * 2 ^ p + v * 2 ^ p) % 2 ^ wa

/-- The value a compare writes (R80): a true result is 1, or -1 into a signed 1-bit name. -/
def truthIn (b signed1 : Bool) : Int := if b then (if signed1 then -1 else 1) else 0

/-- Whether a destination is a declared signed 1-bit name (R80). -/
def isSignedBit (s : State) (n : Name) : Bool :=
  !(isFixed n) && (match nameOf s s.cur.core s.cur.slot n with
    | some e => e.signed && e.width == 1
    | none => false)

/-- An operation on two sources: B is read, then C, and the exact result is written (R4, R67). -/
def binary (f : Int → Int → Int) (a b c : Name) : State → Ans Unit := fun s =>
  (readName b s).bind fun x s => (readName c s).bind fun y s => writeName a (f x y) s

/-- An operation on one source. -/
def unary (f : Int → Int) (a b : Name) : State → Ans Unit := fun s =>
  (readName b s).bind fun x s => writeName a (f x) s

/-- An operation on one source that uses the source's declared width (R70). -/
def unaryWidth (f : Int → Nat → Int) (a b : Name) : State → Ans Unit := fun s =>
  (widthOfName b s).bind fun w s => (readName b s).bind fun x s => writeName a (f x w) s

/-- A compare (R80): it never traps on its destination's width or mode and never sets SAT. -/
def compare (f : Int → Int → Bool) (a b c : Name) : State → Ans Unit := fun s =>
  (readName b s).bind fun x s => (readName c s).bind fun y s => writeName a (truthIn (f x y) (isSignedBit s a)) s

/-- A compare with an immediate (R75, R80). -/
def compareImm (f : Int → Int → Bool) (a b : Name) (imm : BitVec 16) : State → Ans Unit := fun s =>
  (readName b s).bind fun x s => writeName a (truthIn (f x imm.toInt) (isSignedBit s a)) s

/-- Whether the core's divider is busy (R84): the slot is passed over. -/
def dividerBusy (s : State) : Bool := decide (cycOf s s.cur.core < (coreOf s s.cur.core).divFree)

/-- DIV and REM (R78): a zero divisor traps precisely; otherwise the divider is taken for 32 cycles (R84) and the result arrives as a
write-back. -/
def divide (f : Int → Int → Int) (a b c : Name) : State → Ans Unit := fun s =>
  if dividerBusy s then .hold
  else
    (readName b s).bind fun x s => (readName c s).bind fun y s =>
      if y = 0 then .trap 0x07 (wordOf x)
      else
        (deferWrite a (some (f x y)) none false s).bind fun _ s =>
          .ok () (modCore s s.cur.core fun k => { k with divFree := cycOf s s.cur.core + 32 })

/-! ### Two-operand operations (R73) -/

/-- ADD. -/
def execAdd (a b c : Name) (s : State) : Host.Outcome State Fault Refusal := run (binary (· + ·) a b c) s
/-- SUB. -/
def execSub (a b c : Name) (s : State) : Host.Outcome State Fault Refusal := run (binary (· - ·) a b c) s
/-- AND (R69). -/
def execAnd (a b c : Name) (s : State) : Host.Outcome State Fault Refusal := run (binary (bitwise (· &&& ·)) a b c) s
/-- OR (R69). -/
def execOr (a b c : Name) (s : State) : Host.Outcome State Fault Refusal := run (binary (bitwise (· ||| ·)) a b c) s
/-- XOR (R69). -/
def execXor (a b c : Name) (s : State) : Host.Outcome State Fault Refusal := run (binary (bitwise (· ^^^ ·)) a b c) s
/-- SHL (R74). -/
def execShl (a b c : Name) (s : State) : Host.Outcome State Fault Refusal :=
  run (binary (fun x y => shiftLeft x (shiftCount y)) a b c) s
/-- SHR (R74). -/
def execShr (a b c : Name) (s : State) : Host.Outcome State Fault Refusal :=
  run (binary (fun x y => shiftRight x (shiftCount y)) a b c) s
/-- MUL. -/
def execMul (a b c : Name) (s : State) : Host.Outcome State Fault Refusal := run (binary (· * ·) a b c) s
/-- MOV. -/
def execMov (a b : Name) (s : State) : Host.Outcome State Fault Refusal := run (unary id a b) s

/-! ### The immediate family (R75) -/

/-- ADDI. -/
def execAddi (a b : Name) (imm : BitVec 16) (s : State) : Host.Outcome State Fault Refusal :=
  run (unary (fun x => x + imm.toInt) a b) s
/-- RSUBI. -/
def execRsubi (a b : Name) (imm : BitVec 16) (s : State) : Host.Outcome State Fault Refusal :=
  run (unary (fun x => imm.toInt - x) a b) s
/-- ANDI: the immediate is unsigned (R35). -/
def execAndi (a b : Name) (imm : BitVec 16) (s : State) : Host.Outcome State Fault Refusal :=
  run (unary (fun x => bitwise (· &&& ·) x imm.toNat) a b) s
/-- ORI. -/
def execOri (a b : Name) (imm : BitVec 16) (s : State) : Host.Outcome State Fault Refusal :=
  run (unary (fun x => bitwise (· ||| ·) x imm.toNat) a b) s
/-- XORI. -/
def execXori (a b : Name) (imm : BitVec 16) (s : State) : Host.Outcome State Fault Refusal :=
  run (unary (fun x => bitwise (· ^^^ ·) x imm.toNat) a b) s
/-- SHLI. -/
def execShli (a b : Name) (count : BitVec 7) (s : State) : Host.Outcome State Fault Refusal :=
  run (unary (fun x => shiftLeft x count.toNat) a b) s
/-- SHRI. -/
def execShri (a b : Name) (count : BitVec 7) (s : State) : Host.Outcome State Fault Refusal :=
  run (unary (fun x => shiftRight x count.toNat) a b) s
/-- MULI. -/
def execMuli (a b : Name) (imm : BitVec 16) (s : State) : Host.Outcome State Fault Refusal :=
  run (unary (fun x => x * imm.toInt) a b) s
/-- MINI. -/
def execMini (a b : Name) (imm : BitVec 16) (s : State) : Host.Outcome State Fault Refusal :=
  run (unary (fun x => min x imm.toInt) a b) s
/-- MAXI. -/
def execMaxi (a b : Name) (imm : BitVec 16) (s : State) : Host.Outcome State Fault Refusal :=
  run (unary (fun x => max x imm.toInt) a b) s
/-- CEQI. -/
def execCeqi (a b : Name) (imm : BitVec 16) (s : State) : Host.Outcome State Fault Refusal :=
  run (compareImm (fun x y => decide (x = y)) a b imm) s
/-- CNEI. -/
def execCnei (a b : Name) (imm : BitVec 16) (s : State) : Host.Outcome State Fault Refusal :=
  run (compareImm (fun x y => decide (x ≠ y)) a b imm) s
/-- CLTI. -/
def execClti (a b : Name) (imm : BitVec 16) (s : State) : Host.Outcome State Fault Refusal :=
  run (compareImm (fun x y => decide (x < y)) a b imm) s
/-- CLEI. -/
def execClei (a b : Name) (imm : BitVec 16) (s : State) : Host.Outcome State Fault Refusal :=
  run (compareImm (fun x y => decide (x ≤ y)) a b imm) s
/-- CGTI. -/
def execCgti (a b : Name) (imm : BitVec 16) (s : State) : Host.Outcome State Fault Refusal :=
  run (compareImm (fun x y => decide (x > y)) a b imm) s
/-- CGEI. -/
def execCgei (a b : Name) (imm : BitVec 16) (s : State) : Host.Outcome State Fault Refusal :=
  run (compareImm (fun x y => decide (x ≥ y)) a b imm) s

/-! ### The extended family (R76) -/

/-- MULH (R77): the destination's width sets the division. -/
def execMulh (a b c : Name) (s : State) : Host.Outcome State Fault Refusal :=
  run (fun s => (readName b s).bind fun x s => (readName c s).bind fun y s => (widthOfName a s).bind fun w s =>
    writeName a ((x * y).fdiv (2 ^ w)) s) s
/-- DIV (R78): the quotient is rounded toward zero. -/
def execDiv (a b c : Name) (s : State) : Host.Outcome State Fault Refusal := run (divide Int.tdiv a b c) s
/-- REM (R78): a nonzero remainder has the sign of the dividend. -/
def execRem (a b c : Name) (s : State) : Host.Outcome State Fault Refusal :=
  run (divide (fun x y => x - y * Int.tdiv x y) a b c) s
/-- ANDN (R69). -/
def execAndn (a b c : Name) (s : State) : Host.Outcome State Fault Refusal :=
  run (binary (bitwise fun x y => x &&& ~~~y) a b c) s
/-- ROT (R70, R76): B's width and signedness rule. -/
def execRot (a b c : Name) (s : State) : Host.Outcome State Fault Refusal :=
  run (fun s => (widthOfName b s).bind fun w s => (signedOfName b s).bind fun g s => (readName b s).bind fun x s =>
    (readName c s).bind fun y s => writeName a (readAs w g (rotated (patOf x w) w y)) s) s
/-- MIN. -/
def execMin (a b c : Name) (s : State) : Host.Outcome State Fault Refusal := run (binary min a b c) s
/-- MAX. -/
def execMax (a b c : Name) (s : State) : Host.Outcome State Fault Refusal := run (binary max a b c) s
/-- ABS. -/
def execAbs (a b : Name) (s : State) : Host.Outcome State Fault Refusal := run (unary (fun x => (x.natAbs : Int)) a b) s
/-- NEG. -/
def execNeg (a b : Name) (s : State) : Host.Outcome State Fault Refusal := run (unary (fun x => -x) a b) s
/-- CLZ (R70). -/
def execClz (a b : Name) (s : State) : Host.Outcome State Fault Refusal :=
  run (unaryWidth (fun x w => (leadingZeros (patOf x w) w : Int)) a b) s
/-- CTZ (R70). -/
def execCtz (a b : Name) (s : State) : Host.Outcome State Fault Refusal :=
  run (unaryWidth (fun x w => (trailingZeros (patOf x w) w : Int)) a b) s
/-- POPC (R70). -/
def execPopc (a b : Name) (s : State) : Host.Outcome State Fault Refusal :=
  run (unaryWidth (fun x w => (countOnes (patOf x w) w : Int)) a b) s

/-- The field width of BFX and BFI: val(D) clamped to 0 to 64 (R79). -/
def fieldWidth (d : Int) : Nat := if d < 0 then 0 else if d > 64 then 64 else d.toNat

/-- BFX (R79): the field is read under A's signedness. -/
def execBfx (a b c d : Name) (s : State) : Host.Outcome State Fault Refusal :=
  run (fun s => (readName b s).bind fun x s => (readName c s).bind fun p s => (readName d s).bind fun n s =>
    (signedOfName a s).bind fun g s =>
      let w := fieldWidth n
      let f := bitField x (p % 128).toNat w
      writeName a (if w ≠ 0 ∧ g ∧ f ≥ 2 ^ (w - 1) then f - 2 ^ w else f) s) s

/-- BFI (R79): A is source and destination, and is read first (R71); its result is always representable. -/
def execBfi (a b c d : Name) (s : State) : Host.Outcome State Fault Refusal :=
  run (fun s => (readName a s).bind fun old s => (readName b s).bind fun x s => (readName c s).bind fun p s =>
    (readName d s).bind fun n s => (widthOfName a s).bind fun wa s => (signedOfName a s).bind fun g s =>
      writeName a (readAs wa g (insertBits (patOf old wa) wa (p % 128).toNat (fieldWidth n) x)) s) s

/-- SEL: every source field is read, in order (R71). -/
def execSel (a b c d : Name) (s : State) : Host.Outcome State Fault Refusal :=
  run (fun s => (readName b s).bind fun x s => (readName c s).bind fun y s => (readName d s).bind fun z s =>
    writeName a (if x ≠ 0 then y else z) s) s

/-- LEA. -/
def execLea (a b c : Name) (sh : BitVec 3) (s : State) : Host.Outcome State Fault Refusal :=
  run (binary (fun x y => x + y * 2 ^ sh.toNat) a b c) s
/-- CEQ. -/
def execCeq (a b c : Name) (s : State) : Host.Outcome State Fault Refusal := run (compare (fun x y => decide (x = y)) a b c) s
/-- CNE. -/
def execCne (a b c : Name) (s : State) : Host.Outcome State Fault Refusal := run (compare (fun x y => decide (x ≠ y)) a b c) s
/-- CLT. -/
def execClt (a b c : Name) (s : State) : Host.Outcome State Fault Refusal := run (compare (fun x y => decide (x < y)) a b c) s
/-- CLE. -/
def execCle (a b c : Name) (s : State) : Host.Outcome State Fault Refusal := run (compare (fun x y => decide (x ≤ y)) a b c) s
/-- CGT. -/
def execCgt (a b c : Name) (s : State) : Host.Outcome State Fault Refusal := run (compare (fun x y => decide (x > y)) a b c) s
/-- CGE. -/
def execCge (a b c : Name) (s : State) : Host.Outcome State Fault Refusal := run (compare (fun x y => decide (x ≥ y)) a b c) s

/-- MOVI (R81): the immediate is two's complement if A is signed, unsigned otherwise. -/
def execMovi (a : Name) (imm : BitVec 64) (s : State) : Host.Outcome State Fault Refusal :=
  run (fun s => (signedOfName a s).bind fun g s => writeName a (readAs 64 g imm.toNat) s) s

end Sys2Proof.Machine
end

