-- ==== Sys2Proof/Machine/Lane.lean ====
section
/-! DEFINITION. Element operations of the vector unit (R247 to R250): each answers an element's code and the flags it raises. -/

namespace Sys2Proof.Machine

/-! ### Rows and their elements (R229, R244) -/

/-- The element codes of a number of elements of b bits, element 0 first. -/
def elems (b n v : Nat) : List Nat := (List.range n).map fun i => v / 2 ^ (b * i) % 2 ^ b

/-- The number that element codes of b bits make up. -/
def joinElems (b : Nat) (cs : List Nat) : Nat := cs.foldr (fun c acc => c % 2 ^ b + 2 ^ b * acc) 0

/-- Elements of a type in a row. -/
def laneCount (ty : Nat) : Nat := 1024 / typeBits ty

/-- The element codes of a row of a type. -/
def rowElems (ty : Nat) (row : BitVec 1024) : List Nat := elems (typeBits ty) (laneCount ty) row.toNat

/-- The row that element codes of a type make up. -/
def rowOf (ty : Nat) (cs : List Nat) : BitVec 1024 := BitVec.ofNat 1024 (joinElems (typeBits ty) cs)

/-- The flags of several elements together. -/
def allFlags (fs : List (BitVec 8)) : BitVec 8 := fs.foldl (· ||| ·) 0#8

/-! ### Values -/

/-- The value of an element code (R229). -/
def elemValue (ty c : Nat) : Num := (decodeElem ty c).1

/-- Whether a value is a NaN. -/
def Num.isNan (x : Num) : Bool := match x with | .nan => true | _ => false

/-- An element code of an integer type as an integer. -/
def elemInt (ty c : Nat) : Int := (BitVec.ofNat (typeBits ty) c).toInt

/-- The canonical NaN of a floating type (R230). -/
def nanOf (ty : Nat) : Nat := match floatFmt ty with | some f => nanCode f | none => 0

/-- The sign bit of a type. -/
def signBit (ty : Nat) : Nat := 2 ^ (typeBits ty - 1)

/-- An integer result clamped to its type, with SAT when it was (R247). -/
def clampInt (ty : Nat) (x : Int) : Nat × BitVec 8 := rnd ty 0 (numOfInt x)

/-- A value's order key: its finite value as an integer count of 2^q, infinities beyond every finite value. -/
def orderKey (q : Int) (big : Int) (x : Num) : Int :=
  match x with
  | .nan => 0
  | .inf n => if n then -big else big
  | .fin n m e _ => scaled n m e q

/-- How two integers compare. -/
def orderInt (x y : Int) : Ordering := if x < y then .lt else if x = y then .eq else .gt

/-- How two element codes of a floating type compare; none when either is a NaN. The key counts the smallest subnormals. -/
def compareFloat (f : FloatFmt) (x y : Nat) : Option Ordering :=
  let a := decodeFloat f x
  let b := decodeFloat f y
  if a.isNan || b.isNan then none
  else
    let q := 1 - f.bias - f.frac
    let big : Int := 2 ^ (2 ^ f.expo + f.frac)
    some (orderInt (orderKey q big a) (orderKey q big b))

/-- How two element codes of a numeric type compare (R248). -/
def compareElem (ty x y : Nat) : Option Ordering :=
  match floatFmt ty with
  | some f => compareFloat f x y
  | none => some (orderInt (elemInt ty x) (elemInt ty y))

/-! ### Two operands (R248) -/

/-- An arithmetic operation on two elements: exact, then rounded or clamped once (R247). -/
def laneArith (onNum : Nat → Num → Num → Num × BitVec 8) (onInt : Int → Int → Int) (ty rm x y : Nat) : Nat × BitVec 8 :=
  if isFloat ty then
    let a := elemValue ty x
    let b := elemValue ty y
    if a.isNan || b.isNan then (nanOf ty, 0#8)
    else
      let r := onNum rm a b
      let o := rnd ty rm r.1
      (o.1, r.2 ||| o.2)
  else clampInt ty (onInt (elemInt ty x) (elemInt ty y))

/-- VADD. -/
def laneAdd : Nat → Nat → Nat → Nat → Nat × BitVec 8 := laneArith numAdd (· + ·)
/-- VSUB. -/
def laneSub : Nat → Nat → Nat → Nat → Nat × BitVec 8 := laneArith (fun rm a b => numAdd rm a (numNeg b)) (· - ·)
/-- VMUL. -/
def laneMul : Nat → Nat → Nat → Nat → Nat × BitVec 8 := laneArith (fun _ a b => numMul a b) (· * ·)

/-- VMIN and VMAX: the smaller or larger of two elements; −0 counts as less than +0. -/
def lanePick (least : Bool) (ty _rm x y : Nat) : Nat × BitVec 8 :=
  match compareElem ty x y with
  | none => (nanOf ty, 0#8)
  | some .lt => (if least then x else y, 0#8)
  | some .gt => (if least then y else x, 0#8)
  | some .eq => (if isFloat ty && (decide (signBit ty ≤ x)) != least then y else x, 0#8)

/-- VSHL. -/
def laneShl (ty _rm x y : Nat) : Nat × BitVec 8 := clampInt ty (shiftLeft (elemInt ty x) (shiftCount (elemInt ty y)))
/-- VSHR. -/
def laneShr (ty _rm x y : Nat) : Nat × BitVec 8 := clampInt ty (shiftRight (elemInt ty x) (shiftCount (elemInt ty y)))

/-- VCEQ, VCLT, VCLE: −1 or 0. -/
def laneCompare (f : Ordering → Bool) (ty _rm x y : Nat) : Nat × BitVec 8 :=
  match compareElem ty x y with
  | none => (0, 0#8)
  | some o => (if f o then 2 ^ typeBits ty - 1 else 0, 0#8)

/-! ### Three operands (R249) -/

/-- VFMA and VFMS: one rounding. -/
def laneFma (sub : Bool) (ty rm x y z : Nat) : Nat × BitVec 8 :=
  let a := elemValue ty x
  let b := elemValue ty y
  let d := elemValue ty z
  if a.isNan || b.isNan || d.isNan then (nanOf ty, 0#8)
  else
    let p := numMul a b
    let t := numAdd rm p.1 (if sub then numNeg d else d)
    let o := rnd ty rm t.1
    (o.1, p.2 ||| t.2 ||| o.2)

/-! ### One operand (R250) -/

/-- VABS. -/
def laneAbs (ty _rm x : Nat) : Nat × BitVec 8 :=
  if isFloat ty then (if (elemValue ty x).isNan then nanOf ty else x % signBit ty, 0#8)
  else clampInt ty ((elemInt ty x).natAbs : Int)

/-- VNEG. -/
def laneNeg (ty _rm x : Nat) : Nat × BitVec 8 :=
  if isFloat ty then
    (if (elemValue ty x).isNan then nanOf ty else if x < signBit ty then x + signBit ty else x - signBit ty, 0#8)
  else clampInt ty (-(elemInt ty x))

/-- VFLOOR. -/
def laneFloor (ty _rm x : Nat) : Nat × BitVec 8 :=
  match elemValue ty x with
  | .nan => (nanOf ty, 0#8)
  | .inf _ => (x, 0#8)
  | .fin neg m e _ =>
    if 0 ≤ e then (x, 0#8)
    else
      let q := quantum m e false 0
      ((rnd ty 0 (.fin neg (if neg && q.2 != 0 then q.1 + 1 else q.1) 0 false)).1, 0#8)

/-- The square root of n rounded down, from a root that is right above its low `bits` bits. -/
def rootBits (bits n r : Nat) : Nat :=
  match bits with
  | 0 => r
  | b + 1 => let t := r + 2 ^ b; rootBits b n (if t * t ≤ n then t else r)

/-- Bits of the fixed-point working precision of VEXP2 and VLOG2, and the guard bits dropped from it (log entry 15). -/
def workBits : Nat := 256
/-- The guard bits. -/
def guardBits : Nat := 32

/-- ln 2 in units of 2^-256, rounded down term by term: the sum of 1 ÷ (k × 2^k). -/
def ln2Sum (n : Nat) : Nat :=
  match n with
  | 0 => 0
  | k + 1 => 2 ^ workBits / ((k + 1) * 2 ^ (k + 1)) + ln2Sum k

/-- ln 2 in units of 2^-256. -/
def ln2Fixed : Nat := ln2Sum 256

/-- The sum of the terms of e^y from term k on, given term k, all in units of 2^-256. -/
def expSum (n k y t : Nat) : Nat :=
  match n with
  | 0 => 0
  | m + 1 => t + expSum m (k + 1) y (t * y / 2 ^ workBits / (k + 1))

/-- 2^f for a fraction f in units of 2^-256. -/
def exp2Fixed (f : Nat) : Nat := expSum 80 0 (f * ln2Fixed / 2 ^ workBits) (2 ^ workBits)

/-- The sum of z^k ÷ k over odd k from k on, given z^k, all in units of 2^-256. -/
def atanhSum (n k z2 p : Nat) : Nat :=
  match n with
  | 0 => 0
  | m + 1 => p / k + atanhSum m (k + 2) z2 (p * z2 / 2 ^ workBits)

/-- log₂ m for m from 1 up to 2, given as num ÷ den, in units of 2^-256. -/
def log2Fixed (num den : Nat) : Nat :=
  let z := (num - den) * 2 ^ workBits / (num + den)
  2 * atanhSum 90 1 (z * z / 2 ^ workBits) z * 2 ^ workBits / ln2Fixed

/-- 2^x of a finite value as an exact value with a sticky part. Exponents past ±2000 act as ±2000: both round as overflow or underflow. -/
def numExp2 (neg : Bool) (m : Nat) (e : Int) : Num :=
  let whole := if 0 ≤ e then (if 16 < e then 2 ^ 16 else m * 2 ^ e.toNat) else m / 2 ^ (-e).toNat
  let frac := if 0 ≤ e then 0 else m % 2 ^ (-e).toNat
  let scale := if 0 ≤ e then 0 else (-e).toNat
  if m == 0 then .fin false 1 0 false
  else if 2000 < whole then .fin false 1 (if neg then -2000 else 2000) true
  else if frac == 0 then .fin false 1 (if neg then -(whole : Int) else whole) false
  else
    let f := frac * 2 ^ workBits / 2 ^ scale
    let g := if neg then 2 ^ workBits - f else f
    let n : Int := if neg then -(whole : Int) - 1 else whole
    .fin false (exp2Fixed g / 2 ^ guardBits) (n - (workBits - guardBits : Nat)) true

/-- log₂ x of a positive finite value. -/
def numLog2 (m : Nat) (e : Int) : Num :=
  let b := Nat.log2 m
  let n : Int := e + b
  if m == 2 ^ b then numOfInt n
  else
    let v : Int := (n * 2 ^ workBits + log2Fixed m (2 ^ b)).fdiv (2 ^ guardBits)
    let u : Int := -((workBits - guardBits : Nat) : Int)
    if 0 ≤ v then .fin false v.toNat u true else .fin true (-v - 1).toNat u true

/-- 1 ÷ x of a nonzero finite value. -/
def numRecip (neg : Bool) (m : Nat) (e : Int) : Num :=
  .fin neg (2 ^ 96 / m) (-96 - e) (2 ^ 96 % m != 0)

/-- 1 ÷ √x of a positive finite value. -/
def numRsqrt (m : Nat) (e : Int) : Num :=
  let m' := if e % 2 == 0 then m else 2 * m
  let e' := if e % 2 == 0 then e else e - 1
  let q := rootBits 64 (2 ^ 128 / m') 0
  .fin false q (-64 - e' / 2) (q * q * m' != 2 ^ 128)

/-- An element rounded from an exact value. -/
def lanePut (ty rm : Nat) (x : Num) (f : BitVec 8) : Nat × BitVec 8 := let o := rnd ty rm x; (o.1, o.2 ||| f)

/-- VEXP2. -/
def laneExp2 (ty rm x : Nat) : Nat × BitVec 8 :=
  match elemValue ty x with
  | .nan => (nanOf ty, 0#8)
  | .inf neg => lanePut ty rm (if neg then .fin false 0 0 false else .inf false) 0#8
  | .fin neg m e _ => lanePut ty rm (numExp2 neg m e) 0#8

/-- VLOG2. -/
def laneLog2 (ty rm x : Nat) : Nat × BitVec 8 :=
  match elemValue ty x with
  | .nan => (nanOf ty, 0#8)
  | .inf neg => if neg then (nanOf ty, flagNV) else lanePut ty rm (.inf false) 0#8
  | .fin neg m e _ =>
    if m == 0 then lanePut ty rm (.inf true) flagDZ
    else if neg then (nanOf ty, flagNV)
    else lanePut ty rm (numLog2 m e) 0#8

/-- VRCP. -/
def laneRcp (ty rm x : Nat) : Nat × BitVec 8 :=
  match elemValue ty x with
  | .nan => (nanOf ty, 0#8)
  | .inf neg => lanePut ty rm (.fin neg 0 0 false) 0#8
  | .fin neg m e _ => if m == 0 then lanePut ty rm (.inf neg) flagDZ else lanePut ty rm (numRecip neg m e) 0#8

/-- VRSQ. -/
def laneRsq (ty rm x : Nat) : Nat × BitVec 8 :=
  match elemValue ty x with
  | .nan => (nanOf ty, 0#8)
  | .inf neg => if neg then (nanOf ty, flagNV) else lanePut ty rm (.fin false 0 0 false) 0#8
  | .fin neg m e _ =>
    if m == 0 then lanePut ty rm (.inf neg) flagDZ
    else if neg then (nanOf ty, flagNV)
    else lanePut ty rm (numRsqrt m e) 0#8

/-- Whether an element counts as nonzero (R253), with the flags that reading it raises. -/
def laneNonzero (ty c : Nat) : Bool × BitVec 8 :=
  match decodeElem ty c with
  | (.fin _ m _ _, f) => (m != 0, f)
  | (_, f) => (true, f)

end Sys2Proof.Machine
end

