-- ==== Sys2Proof/Machine/Vector.lean ====
section
/-! DEFINITION. What a vector instruction does to its strand's rows (R246 to R253): its checks, and its effect when it is issued directly
or reissued by the sequencer. The strand is the issue latch's. -/

namespace Sys2Proof.Machine

/-- How a vector instruction is executed (R233, R257): the stagger offset, the rounding mode, whether a run executes it, and for VM the
window and the offset that C and the stream give. -/
structure VExec where
  sigma : Nat := 0
  rm : Nat := 0
  inRun : Bool := false
  win : Word := 0#64
  off : Int := 0

/-- The id that a vector field names (R246). -/
def vecId (σ : Nat) (v : VRef) : Nat := v.id.toNat + (if v.stagger == 1#1 then σ else 0)

/-- A declared vector id of the strand of the issue latch. -/
def vecAt (s : State) (id : Nat) : Option VecEntry := if 63 < id then none else tfind (curSlot s).vecs id

/-- The entry of a vector id that has been checked. -/
def vecEntry (s : State) (id : Nat) : VecEntry := (vecAt s id).getD { row := 0, ty := 0, first := 0 }

/-- The type of a vector id that has been checked. -/
def vecTy (s : State) (id : Nat) : Nat := (vecEntry s id).ty

/-- The element codes of a vector id's row. -/
def vecElems (s : State) (id : Nat) : List Nat := rowElems (vecTy s id) (vecEntry s id).data

/-- A vector id's row written. -/
def putVec (s : State) (id : Nat) (row : BitVec 1024) : State :=
  modCur s fun x =>
    match tfind x.vecs id with
    | none => x
    | some e => { x with vecs := tput x.vecs id { e with data := row } }

/-- Flags raised in the strand of the issue latch (R247). -/
def raiseCur (s : State) (f : BitVec 8) : State := raiseFlags s s.cur.core s.cur.slot f

/-! ### Checks (R246) -/

/-- A check that fails, as its cause and value. -/
abbrev Check := Option (Nat × Word)

/-- The first id of a list that is undeclared or above 63 (R246). -/
def undeclared (s : State) (ids : List Nat) : Check :=
  (ids.find? fun v => (vecAt s v).isNone).map fun v => (0x03, BitVec.ofNat 64 v)

/-- A type error at an id. -/
def badType (id : Nat) : Check := some (0x10, BitVec.ofNat 64 id)

/-- The first id of a list whose type is not the one wanted. -/
def sameTypes (s : State) (ty : Nat) (ids : List Nat) : Check :=
  match ids.find? fun v => vecTy s v != ty with
  | some v => badType v
  | none => none

/-- All of one type of a set: the first operand's must be in the set, the others' the same (R246). -/
def oneType (s : State) (allowed : Nat → Bool) (ids : List Nat) : Check :=
  match ids with
  | [] => none
  | a :: r => if allowed (vecTy s a) then sameTypes s (vecTy s a) r else badType a

/-- Any type. -/
def anyType (_ : Nat) : Bool := true
/-- The numeric types (R248). -/
def numericType (ty : Nat) : Bool := ty == 0 || ty == 1 || ty == 8 || ty == 9 || ty == 5
/-- I32, I16 or I8. -/
def intType (ty : Nat) : Bool := ty == 8 || ty == 9 || ty == 5
/-- F32 or BF16. -/
def wideFloat (ty : Nat) : Bool := ty == 0 || ty == 1

/-- The integer type that a comparison of a numeric type writes (R248). -/
def maskType (ty : Nat) : Nat := if ty == 0 then 8 else if ty == 1 then 9 else ty

/-- The selector type for data of a type (R249). -/
def selType (ty : Nat) : Nat := if typeBits ty == 32 then 8 else if typeBits ty == 16 then 9 else 5

/-- The type rule of a comparison (R248): A the integer type of B's width, B numeric, C as B. Where B is not numeric no width is right for A, and
A is reported only if it is no integer type (log entry 11). -/
def compareTypes (s : State) (a b c : Nat) : Check :=
  let tb := vecTy s b
  if (numericType tb && vecTy s a != maskType tb) || (!(numericType tb) && !(intType (vecTy s a))) then badType a
  else oneType s numericType [b, c]

/-- The type rule of VSEL (R249). -/
def selTypes (s : State) (a b c d : Nat) : Check :=
  if vecTy s b != selType (vecTy s a) then badType b else oneType s anyType [a, c, d]

/-- One check after another. -/
def Check.also (x y : Check) : Check := x.or y

/-- The checks of an instruction of one type rule. -/
def plainCheck (s : State) (allowed : Nat → Bool) (ids : List Nat) : Check := Check.also (undeclared s ids) (oneType s allowed ids)

/-! ### Rows (R247 to R250) -/

/-- A row of element results, with their flags. -/
def putElems (s : State) (id ty : Nat) (rs : List (Nat × BitVec 8)) : State :=
  raiseCur (putVec s id (rowOf ty (rs.map (·.1)))) (allFlags (rs.map (·.2)))

/-- A VA member that works element by element. -/
def binaryRow (f : Nat → Nat → Nat → Nat → Nat × BitVec 8) (a b c : VRef) (x : VExec) (s : State) : Ans Unit :=
  let ty := vecTy s (vecId x.sigma b)
  let rs := List.zipWith (f ty x.rm) (vecElems s (vecId x.sigma b)) (vecElems s (vecId x.sigma c))
  .ok () (putElems s (vecId x.sigma a) ty rs)

/-- A VA member on the rows' bits. -/
def bitsRow (f : BitVec 1024 → BitVec 1024 → BitVec 1024) (a b c : VRef) (x : VExec) (s : State) : Ans Unit :=
  .ok () (putVec s (vecId x.sigma a) (f (vecEntry s (vecId x.sigma b)).data (vecEntry s (vecId x.sigma c)).data))

/-- A VU member that works element by element. -/
def unaryRow (f : Nat → Nat → Nat → Nat × BitVec 8) (a b : VRef) (x : VExec) (s : State) : Ans Unit :=
  let ty := vecTy s (vecId x.sigma b)
  .ok () (putElems s (vecId x.sigma a) ty ((vecElems s (vecId x.sigma b)).map (f ty x.rm)))

/-- VFMA and VFMS. -/
def fmaRow (sub : Bool) (a b c d : VRef) (x : VExec) (s : State) : Ans Unit :=
  let ty := vecTy s (vecId x.sigma b)
  let bc := List.zip (vecElems s (vecId x.sigma b)) (vecElems s (vecId x.sigma c))
  let rs := List.zipWith (fun p z => laneFma sub ty x.rm p.1 p.2 z) bc (vecElems s (vecId x.sigma d))
  .ok () (putElems s (vecId x.sigma a) ty rs)

/-- VSEL: element i is selected by mask element i div (8 ÷ b) when b is below 8, and by mask element i otherwise (R249). -/
def selRow (a b c d : VRef) (x : VExec) (s : State) : Ans Unit :=
  let ty := vecTy s (vecId x.sigma a)
  let per := if typeBits ty < 8 then 8 / typeBits ty else 1
  let mask := vecElems s (vecId x.sigma b)
  let pick := (List.zip (vecElems s (vecId x.sigma c)) (vecElems s (vecId x.sigma d))).zipIdx.map fun e =>
    if mask.getD (e.2 / per) 0 != 0 then e.1.1 else e.1.2
  .ok () (putVec s (vecId x.sigma a) (rowOf ty pick))

/-! ### Vector memory (R251) -/

/-- The check of a VM's window (R246): valid, of kind 00, and at least 128 bytes. -/
def rowWindow (w : Word) : Bool := winValid w false && decide (7 ≤ winLg w)

/-- Whether a run must wait before it reads words that a parked atomic blocks (R205); a direct read waits by itself. -/
def runBlocked (x : VExec) (s : State) (a n : Nat) : Bool := x.inRun && wordBlocked s a n

/-- A word of the store, and whether it is poisoned: a direct load sees its quad's queue (R188), a run reads the memory (R185). -/
def rowWord (x : VExec) (a : Nat) (s : State) : Ans (Nat × Bool) :=
  if x.inRun then
    if runBlocked x s a 8 then .wait (.ahead a 8)
    else
      let s1 := scrubWord s a
      .ok ((memWord s1.mem a).toNat, s1.poison.contains a) s1
  else readBytes a 8 s

/-- Words at addresses, with their poison. -/
def rowWords (x : VExec) (as : List Nat) (s : State) : Ans (List (Nat × Bool)) :=
  match as with
  | [] => .ok [] s
  | a :: r => (rowWord x a s).bind fun v t => (rowWords x r t).bind fun vs t => .ok (v :: vs) t

/-- A row of a type with zero in every element that holds a bit of a poisoned word: bit `sh` of the first word is bit 0 of the row. -/
def cleanRow (ty sh : Nat) (ws : List (Nat × Bool)) : BitVec 1024 :=
  let b := typeBits ty
  let v := joinElems 64 (ws.map (·.1)) / 2 ^ sh
  let bad := fun (i : Nat) => (ws.getD ((sh + b * i) / 64) (0, false)).2 || (ws.getD ((sh + b * i + b - 1) / 64) (0, false)).2
  rowOf ty ((elems b (laneCount ty) v).zipIdx.map fun e => if bad e.2 then 0 else e.1)

/-- Pending errors of the poisoned words of a row load (R177, R251). -/
def rowErrors (s : State) (as : List Nat) (ws : List (Nat × Bool)) : State :=
  (List.zip as ws).foldl (fun t e =>
    if e.2.2 then recordErrAt t t.cur.core t.cur.slot (curSlot t).uid 0x0E (BitVec.ofNat 64 e.1) else t) s

/-- The bit at which a VLDB or VSTB starts (R251). -/
def rowBit (d : BitVec 8) (x : VExec) : Nat := winBit x.win (x.off + 1024 * d.toInt)

/-- A row loaded from words, `sh` bits into the first. -/
def loadRow (a : VRef) (sh : Nat) (as : List Nat) (x : VExec) (s : State) : Ans Unit :=
  (rowWords x as s).bind fun ws t =>
    let id := vecId x.sigma a
    .ok () (putVec (rowErrors t as ws) id (cleanRow (vecTy t id) sh ws))

/-- VLD. -/
def vldRow (a : VRef) (d : BitVec 8) (x : VExec) (s : State) : Ans Unit :=
  let p := winAddr s.cur.core x.win (x.off + 128 * d.toInt) 128
  loadRow a 0 ((List.range 16).map fun j => p + 8 * j) x s

/-- VLDB: the 16 or 17 words that hold the bits, wrapping after the window's last. -/
def vldbRow (a : VRef) (d : BitVec 8) (x : VExec) (s : State) : Ans Unit :=
  let β := rowBit d x
  let base := winStore s.cur.core x.win + winBase x.win
  let n := if β % 64 == 0 then 16 else 17
  loadRow a (β % 64) ((List.range n).map fun j => base + 8 * ((β / 64 + j) % (2 ^ winLg x.win / 8))) x s

/-- A row's bytes stored: a direct store through the quad's write queue, which MEM.STOREHOLD may hold (R184), a run's at the port (R185). -/
def storeRow (bs : List MByte) (va : Word) (x : VExec) (s : State) : Ans Unit :=
  if x.inRun then
    if s.parked.any fun p => bs.any fun b => p.entry.op.touches b.addr 1 then .hold else .ok () (performStore s bs false)
  else emitWrite (.store bs false) va false true s

/-- VST. -/
def vstRow (a : VRef) (d : BitVec 8) (x : VExec) (s : State) : Ans Unit :=
  let p := winAddr s.cur.core x.win (x.off + 128 * d.toInt) 128
  storeRow (storeBytes p 128 (vecEntry s (vecId x.sigma a)).data.toNat) (BitVec.ofNat 64 p) x s

/-- The bytes of a bit store of a whole window from the middle of a byte: the last shares the first one's byte. -/
def mergeEnds (bs : List MByte) : List MByte :=
  match bs, bs.getLast? with
  | b :: r, some z =>
    if r.length == 128 && b.addr == z.addr then
      { b with val := (b.val &&& b.mask) ||| (z.val &&& z.mask), mask := b.mask ||| z.mask } :: r.dropLast
    else bs
  | _, _ => bs

/-- VSTB. -/
def vstbRow (a : VRef) (d : BitVec 8) (x : VExec) (s : State) : Ans Unit :=
  let β := rowBit d x
  let base := winStore s.cur.core x.win + winBase x.win
  storeRow (mergeEnds (bitBytes x.win base β 1024 (vecEntry s (vecId x.sigma a)).data.toNat)) (wordAddr (base + β / 8)) x s

/-! ### Rows and queues (R253) -/

/-- VTOQ: the row's words wait to enter the queue in order. -/
def vtoqRow (q : Name) (v : VRef) (x : VExec) (s : State) : Ans Unit :=
  let k := s.cur.core
  let d := dqOf s k (queueIdx q)
  let ws := (elems 64 16 (vecEntry s (vecId x.sigma v)).data.toNat).map (BitVec.ofNat 64)
  .ok () (settleQueue (setDq s k (queueIdx q) { d with vto := d.vto ++ [⟨s.cur.slot, ws, x.inRun⟩] }) k (queueIdx q))

/-- VFROMQ: the vector id waits for 16 words of the queue. A replayed one has the words that it popped (R292). -/
def vfromqRow (v : VRef) (q : Name) (x : VExec) (s : State) : Ans Unit :=
  let k := s.cur.core
  let held := fun (e : Nat × QEntry) => !x.inRun && e.1 == queueIdx q
  let again := (curSlot s).kept.filter held
  let s := modCur s fun y => { y with kept := y.kept.filter fun e => !(held e) }
  let d := dqOf s k (queueIdx q)
  let w : Vfromq := { slot := s.cur.slot, uid := (curSlot s).uid, vec := vecId x.sigma v, words := again.filterMap (·.2.val), run := x.inRun, bad := badIds again }
  .ok () (settleQueue (setDq s k (queueIdx q) { d with vfrom := d.vfrom ++ [w] }) k (queueIdx q))

/-- VANYQ and VALLQ: a 1 or a 0 pushed. -/
def outcomeRow (all : Bool) (q : Name) (v : VRef) (x : VExec) (s : State) : Ans Unit :=
  let id := vecId x.sigma v
  let rs := (vecElems s id).map (laneNonzero (vecTy s id))
  let one := if all then rs.all (·.1) else rs.any (·.1)
  (pushNow (queueIdx q) (if one then 1#64 else 0#64) s).bind fun _ t => .ok () (raiseCur t (allFlags (rs.map (·.2))))

end Sys2Proof.Machine
end

