-- ==== Sys2Proof/Machine/Conversion.lean ====
section
/-! DEFINITION. The conversion class (R237 to R242): spans and their checks, VCVT, VQNT, VDQNT and VOUTL. -/

namespace Sys2Proof.Machine

/-! ### Spans (R237) -/

/-- The ids of a span. -/
def spanIds (v r : Nat) : List Nat := (List.range r).map fun i => v + i

/-- Ids that the side of a type spans against the other side's type. -/
def spanLen (ty other : Nat) : Nat := if typeBits other < typeBits ty then typeBits ty / typeBits other else 1

/-- Ids that VOUTL's source of a type spans: 256 elements. -/
def outlierLen (ty : Nat) : Nat := max 1 (typeBits ty / 4)

/-- The spans of A and B of a VCV instruction: of VOUTL, two list ids and 256 elements. -/
def spansOf (list : Bool) (s : State) (a b : Nat) : List Nat × List Nat :=
  if list then (spanIds a 2, spanIds b (outlierLen (vecTy s b)))
  else (spanIds a (spanLen (vecTy s a) (vecTy s b)), spanIds b (spanLen (vecTy s b) (vecTy s a)))

/-- The check of an operand's ids: the first of an allowed type, and all of one. Where a later id differs in type, that id is reported (log entry 102). -/
def spanTypes (s : State) (allowed : Nat → Bool) (ids : List Nat) : Check := oneType s allowed ids

/-- Narrow types: VQNT's targets and VDQNT's sources (R238). -/
def narrowType (ty : Nat) : Bool := ty == 4 || ty == 6 || ty == 2 || ty == 3 || ty == 5 || ty == 7

/-- The checks of R238 on a VCV instruction: first ids, then every id of each span, then D against A's type, then the types. Of
several operands the first of A, B, C is reported (log entry 11). -/
def vcvCheck (s : State) (list : Bool) (t : Option Nat) (okA okB : Nat → Bool) (a b : Nat) (c : Option (Nat × Nat)) : Check :=
  match undeclared s [a, b] with
  | some e => some e
  | none =>
    let (as, bs) := spansOf list s a b
    let cs := match c with | some (v, _) => [v] | none => []
    Check.also (undeclared s (as ++ bs ++ cs))
      (Check.also (match t with | some d => if d != vecTy s a then badType a else none | none => none)
        (Check.also (spanTypes s okA as)
          (Check.also (spanTypes s okB bs)
            (match c with | some (v, ty) => if vecTy s v != ty then badType v else none | none => none))))

/-! ### Elements of spans -/

/-- The element codes of a span, in id order. -/
def spanElems (s : State) (ids : List Nat) : List Nat := ids.flatMap fun v => vecElems s v

/-- Element codes written to a span of a type. -/
def putSpan (ty : Nat) (ids : List Nat) (cs : List Nat) (s : State) : State :=
  match ids with
  | [] => s
  | v :: r => putSpan ty r (cs.drop (laneCount ty)) (putVec s v (rowOf ty (cs.take (laneCount ty))))

/-- A value times a power of two. -/
def numScale (k : Int) (x : Num) : Num :=
  match x with
  | .fin n m e st => .fin n m (e + k) st
  | y => y

/-! ### VCVT (R239) -/

/-- VCVT of one element. -/
def laneConvert (src dst rm c : Nat) : Nat × BitVec 8 :=
  let v := decodeElem src c
  let r := rnd dst rm v.1
  (r.1, v.2 ||| r.2)

/-- VCVT. -/
def vcvtRow (a b : VRef) (x : VExec) (s : State) : Ans Unit :=
  let ia := vecId x.sigma a
  let ib := vecId x.sigma b
  let (as, bs) := spansOf false s ia ib
  let ta := vecTy s ia
  let rs := (spanElems s bs).map (laneConvert (vecTy s ib) ta x.rm)
  .ok () (raiseCur (putSpan ta as (rs.map (·.1)) s) (allFlags (rs.map (·.2))))

/-! ### Block scales (R236) -/

/-- Elements of a block of a narrow type; a T2 row is one block. -/
def blockLen (ty : Nat) : Nat := if typeBits ty == 4 then 16 else if typeBits ty == 8 then 32 else 512

/-- The largest offset of a narrow type's scale byte. -/
def offsetMax (ty : Nat) : Int := if typeBits ty == 4 then 63 else 31

/-- The tensor base of a scale vector's bytes: element 16, signed (R236). -/
def tensorBase (scale : List Nat) : Int := (BitVec.ofNat 8 (scale.getD 16 0)).toInt

/-- Whether rnd kept a value within the range of its type. -/
def inRange (r : Nat × BitVec 8) : Bool := r.2 &&& (flagOF ||| flagSAT) == 0#8

/-- The code of ±M of a type (R229, R240). -/
def boundCode (ty : Nat) (neg : Bool) : Nat :=
  match floatFmt ty with
  | some f => maxCode f neg
  | none => (BitVec.ofInt (typeBits ty) (if neg then (intRange ty).1 else (intRange ty).2)).toNat

/-- The smallest k of at most n tries from a start whose scaling keeps a value within range. -/
def fitShift (ty rm : Nat) (x : Num) (n : Nat) (k : Int) : Int :=
  match n with
  | 0 => k
  | m + 1 => if inRange (rnd ty rm (numScale (-k) x)) then k else fitShift ty rm x m (k + 1)

/-- The smallest k that keeps a nonzero finite value within a type's range (R240, R242): 2^18 exceeds every narrow type's M. -/
def elemShift (ty rm : Nat) (x : Num) : Option Int :=
  match x with
  | .fin _ m e _ => if m == 0 then none else some (fitShift ty rm x 24 ((Nat.log2 m : Int) + e - 18))
  | _ => none

/-- The largest of the shifts. -/
def maxShift (ks : List Int) : Int :=
  match ks with
  | [] => 0
  | k :: r => r.foldl (fun a b => if a < b then b else a) k

/-- Whether a value is nonzero or infinite, and not NaN. -/
def Num.counts (x : Num) : Bool := match x with | .fin _ m _ _ => m != 0 | .inf _ => true | .nan => false

/-- Whether a value is infinite. -/
def Num.isInf (x : Num) : Bool := match x with | .inf _ => true | _ => false

/-- The code of one element of a block under a shift, clamped to the type's range; only NX is kept of rnd's flags (R240). -/
def quantElem (ty rm : Nat) (sh : Int) (x : Num) : Nat × BitVec 8 :=
  match x with
  | .nan => (0, 0#8)
  | .inf n => (boundCode ty n, 0#8)
  | .fin n _ _ _ =>
    let r := rnd ty rm (numScale (-sh) x)
    (if inRange r then r.1 else boundCode ty n, r.2 &&& flagNX)

/-- Whether an element code is a zero. -/
def zeroElem (ty c : Nat) : Bool := match elemValue ty c with | .fin _ m _ _ => m == 0 | _ => false

/-- VQNT of one block (R240): its codes, its scale byte, and the flags. -/
def quantBlock (ty rm : Nat) (base : Int) (xs : List Num) : List Nat × Nat × BitVec 8 :=
  let nv := if xs.any Num.isNan then flagNV else 0#8
  if !(xs.any Num.counts) then (xs.map fun _ => 0, 0x40, nv)
  else
    let o := maxShift (xs.filterMap (elemShift ty rm)) - base + 32
    let sat := xs.any Num.isInf || decide (offsetMax ty < o)
    let o' := if sat then offsetMax ty else if o < 0 then 0 else o
    let rs := xs.map (quantElem ty rm (base + o' - 32))
    let fl := nv ||| allFlags (rs.map (·.2))
    if sat then (rs.map (·.1), 128 + o'.toNat, fl ||| flagSAT)
    else if rs.all fun r => zeroElem ty r.1 then (xs.map fun _ => 0, 0x40, fl ||| flagUF)
    else (rs.map (·.1), o'.toNat, fl)

/-- VQNT of an element to T2 (R240). -/
def quantT2 (rm : Nat) (base : Int) (x : Num) : Nat × BitVec 8 :=
  match x with
  | .nan => (0, flagNV)
  | _ => let r := rnd 7 rm (numScale (-base) x); (r.1, r.2 &&& (flagNX ||| flagSAT))

/-- A list cut into pieces of n. -/
def pieces {α : Type} (n count : Nat) (l : List α) : List (List α) := (List.range count).map fun j => (l.drop (n * j)).take n

/-- The row of VQNT whose A and C are one id: each block's writes in the order in which R240 writes them (R4), of a zero block the scale byte
first (log entry 30). -/
def sharedRow (n : Nat) (bs : List (List Num × List Nat × Nat × BitVec 8)) (j : Nat) (row : List Nat) : List Nat :=
  match bs with
  | [] => row
  | (xs, codes, byte, _) :: r =>
    let fill := fun (l : List Nat) => l.take (n * j) ++ codes ++ l.drop (n * (j + 1))
    sharedRow n r (j + 1) (if xs.any Num.counts then (fill row).set j byte else fill (row.set j byte))

/-- VQNT. -/
def vqntRow (a b c : VRef) (x : VExec) (s : State) : Ans Unit :=
  let ia := vecId x.sigma a
  let ib := vecId x.sigma b
  let ic := vecId x.sigma c
  let (_, bs) := spansOf false s ia ib
  let ta := vecTy s ia
  let xs := (spanElems s bs).map (elemValue (vecTy s ib))
  let scale := vecElems s ic
  let base := tensorBase scale
  if ta == 7 then
    .ok () (putElems s ia ta (xs.map (quantT2 x.rm base)))
  else
    let bs := pieces (blockLen ta) (laneCount ta / blockLen ta) xs
    let rs := bs.map (quantBlock ta x.rm base)
    let s1 :=
      if ic == ia then putVec s ia (rowOf ta (sharedRow (blockLen ta) (bs.zip rs) 0 scale))
      else putVec (putVec s ia (rowOf ta (rs.flatMap (·.1)))) ic (rowOf 5 (rs.map (·.2.1) ++ scale.drop rs.length))
    .ok () (raiseCur s1 (allFlags (rs.map (·.2.2))))

/-! ### VDQNT (R241) -/

/-- VDQNT of one element under its scale byte. -/
def laneDequant (src dst rm : Nat) (base : Int) (byte c : Nat) : Nat × BitVec 8 :=
  let kind := byte / 64
  let o := byte % 64
  if kind == 3 || (typeBits src == 8 && decide (32 ≤ o)) || (src == 7 && c == 2) then (0, flagILC)
  else if kind == 1 then (0, 0#8)
  else rnd dst rm (numScale (base + o - 32) (elemValue src c))

/-- VDQNT. -/
def vdqntRow (a b c : VRef) (x : VExec) (s : State) : Ans Unit :=
  let ia := vecId x.sigma a
  let ib := vecId x.sigma b
  let (as, bs) := spansOf false s ia ib
  let ta := vecTy s ia
  let tb := vecTy s ib
  let scale := vecElems s (vecId x.sigma c)
  let byte := fun (i : Nat) => if tb == 7 then 32 else scale.getD (i / blockLen tb) 0
  let rs := (spanElems s bs).zipIdx.map fun e => laneDequant tb ta x.rm (tensorBase scale) (byte e.2) e.1
  .ok () (raiseCur (putSpan ta as (rs.map (·.1)) s) (allFlags (rs.map (·.2))))

/-! ### VOUTL (R242) -/

/-- A list of candidates with one inserted by descending magnitude; ties go to the lower index. -/
def insertBy (key : Nat → Int) (i : Nat) (l : List Nat) : List Nat :=
  match l with
  | [] => [i]
  | j :: r => if key j < key i || (key j == key i && decide (i < j)) then i :: j :: r else j :: insertBy key i r

/-- A magnitude as an order key (F32 and BF16: the smallest subnormal of F32 is 2^-149). -/
def magKey (x : Num) : Int := orderKey (-149) (2 ^ 300) (numAbs x)

/-- The candidates kept and dropped, ascending, and the flags (R242). -/
def pickOutliers (xs : List Num) (thr : Num) (cap : Nat) : List Nat × List Nat × BitVec 8 :=
  let nv := if thr.isNan || xs.any Num.isNan then flagNV else 0#8
  if thr.isNan then ([], [], nv)
  else
    let key := fun i => magKey (xs.getD i .nan)
    let cand := (List.range xs.length).filter fun i => !(xs.getD i .nan).isNan && decide (magKey thr < key i)
    if cand.length ≤ cap then (cand, [], nv)
    else
      let kept := (cand.foldl (fun l i => insertBy key i l) []).take cap
      (cand.filter fun i => kept.contains i, cand.filter fun i => !(kept.contains i), nv ||| flagOUT)

/-- One kept element: its F8A code, its scale offset, and the flags (R242). -/
def outlierCode (rm : Nat) (base : Int) (x : Num) : Nat × Nat × BitVec 8 :=
  let neg := match x with | .inf n => n | .fin n _ _ _ => n | .nan => false
  match elemShift 2 rm (numAbs x) with
  | none => (boundCode 2 neg, 63, flagSAT)
  | some k =>
    let o := k - base + 32
    if 63 < o then (boundCode 2 neg, 63, flagSAT)
    else
      let o' := if o < 0 then 0 else o
      let r := rnd 2 rm (numScale (-(base + o' - 32)) x)
      (r.1, o'.toNat, r.2)

/-- VOUTL: the list, the source and the push land together. -/
def voutlRow (a b c : VRef) (x : VExec) (s : State) : Ans Unit :=
  let ia := vecId x.sigma a
  let ib := vecId x.sigma b
  let (as, bs) := spansOf true s ia ib
  let tb := vecTy s ib
  let par := vecElems s (vecId x.sigma c)
  let thr := elemValue 0 (par.getD 0 0)
  let p2 := par.getD 2 0
  let base := (BitVec.ofNat 8 (par.getD 3 0)).toInt
  let codes := spanElems s bs
  let xs := codes.map (elemValue tb)
  let (keep, drop, fl) := pickOutliers xs thr (par.getD 1 0 % 64 + 1)
  let es := keep.map fun i =>
    let r := outlierCode x.rm base (xs.getD i .nan)
    (p2 % 32 + (p2 / 32 % 1024 + i) % 1024 * 2 ^ 5 + r.1 * 2 ^ 15 + r.2.1 * 2 ^ 23, r.2.2)
  let capped := fun (neg : Bool) => rnd tb modeRTZ (if neg then numNeg (numAbs thr) else numAbs thr)
  let src := codes.zipIdx.map fun e =>
    if keep.contains e.2 then 0
    else if drop.contains e.2 then (capped (decide (signBit tb ≤ e.1))).1
    else e.1
  let word := BitVec.ofNat 64 (keep.length + drop.length * 2 ^ 16)
  let fd := if drop.isEmpty then 0#8 else (capped false).2
  (pushNow 0 word s).bind fun _ t =>
    let t1 := putSpan tb bs src (putSpan 8 as (es.map (·.1) ++ List.replicate (64 - es.length) 0) t)
    .ok () (raiseCur t1 (fl ||| fd ||| allFlags (es.map (·.2))))

end Sys2Proof.Machine
end

