-- ==== Sys2Proof/Machine/Matrix.lean ====
section
/-! DEFINITION. The matrix class (R262 to R281): commands and their checks, operands, exact accumulation, readout, fences, and the two
instructions that read the unit, MACC and MSTAT. -/

namespace Sys2Proof.Machine

/-! ### Pairs (R267, R281) -/

/-- A format pair: its formats, c, K block, and log₂ of its MAC rate. -/
structure Pair where
  a : Nat
  b : Nat
  c : Nat
  block : Nat
  logRate : Nat
deriving DecidableEq, Repr

/-- The pairs of R267, by number. -/
def pairs : List Pair :=
  [⟨7, 5, 32, 32, 14⟩, ⟨4, 4, 66, 16, 13⟩, ⟨6, 6, 64, 16, 13⟩, ⟨4, 5, 65, 32, 13⟩, ⟨2, 2, 82, 32, 11⟩, ⟨2, 3, 89, 32, 11⟩,
   ⟨3, 2, 89, 32, 11⟩, ⟨3, 3, 96, 32, 11⟩, ⟨5, 5, 64, 32, 11⟩, ⟨1, 1, 80, 32, 9⟩]

/-- The number of the pair of two formats. -/
def pairNum (a b : Nat) : Option Nat := pairs.findIdx? fun p => p.a == a && p.b == b

/-- A pair by its number. -/
def pairAt (n : Nat) : Pair := pairs.getD n ⟨0, 0, 0, 1, 0⟩

/-- DEV.NUMREC's record of a pair (R281). -/
def numRecord (n : Nat) : Nat :=
  if 10 ≤ n then 0
  else
    let p := pairAt n
    p.logRate * 2 ^ 56 + p.block * 2 ^ 48 + p.b * 2 ^ 44 + p.a * 2 ^ 40 + (if n == 1 || n == 3 then 5 else if n == 9 then 3 else 1) * 2 ^ 32
      + (if n == 9 then 0 else 25) * 2 ^ 24 + p.c * 2 ^ 16 + 160

/-! ### Command records (R265) -/

/-- A byte of a command. -/
def cmdByte (ws : List Word) (n : Nat) : Nat := (ws.getD (n / 8) 0#64).toNat / 256 ^ (n % 8) % 256

/-- A 16-bit field of a command. -/
def cmdHalf (ws : List Word) (n : Nat) : Nat := cmdByte ws n + 256 * cmdByte ws (n + 1)

/-- A word of a command. -/
def cmdWord (ws : List Word) (n : Nat) : Nat := (ws.getD n 0#64).toNat

/-- KIND. -/
def cmdKind (ws : List Word) : Nat := cmdByte ws 0
/-- ZF. -/
def cmdZf (ws : List Word) : Bool := cmdByte ws 1 % 2 == 1
/-- TAG. -/
def cmdTag (ws : List Word) : Nat := cmdWord ws 0 / 2 ^ 32

/-- Whether a kind uses one of the bytes 8 to 63 (R265). -/
def usesByte (kind n : Nat) : Bool :=
  let within := fun (lo hi : Nat) => decide (lo ≤ n) && decide (n ≤ hi)
  if kind == 1 then within 8 15
  else if kind == 2 then n == 8
  else if kind == 3 then within 8 10 || within 12 55
  else if kind == 4 then n == 8 || within 16 31
  else if kind == 5 then within 16 23
  else within 8 9 || within 12 13 || within 16 31

/-- Whether a must-be-zero field of the descriptor in words n and n + 1 is nonzero (R268). -/
def descZero (ws : List Word) (n : Nat) : Bool := cmdWord ws n / 2 ^ 42 != 0 || cmdWord ws (n + 1) / 2 ^ 36 != 0

/-- Whether a field that must be zero is nonzero (detail 2), those of R268's descriptors among them, whether or not a source is read
through its descriptor (log entry 89). -/
def zeroBroken (ws : List Word) : Bool :=
  let kind := cmdKind ws
  cmdByte ws 1 / 2 != 0 || (cmdZf ws && kind != 3 && kind != 4) || cmdHalf ws 2 != 0
    || ((List.range 56).any fun j => !(usesByte kind (8 + j)) && cmdByte ws (8 + j) != 0)
    || (kind == 2 && decide (3 < cmdByte ws 8)) || (kind == 3 && cmdWord ws 6 / 2 ^ 42 != 0) || (kind == 5 && cmdWord ws 2 / 2 ^ 42 != 0)
    || ((kind == 3 || kind == 6) && descZero ws 2) || (kind == 3 && descZero ws 4)
    || (kind == 4 && (cmdWord ws 2 / 2 ^ 42 != 0 || cmdWord ws 3 / 2 ^ 16 != 0))

/-- An operand descriptor (R268). -/
structure Desc where
  quad : Nat
  off : Nat
  rot : Nat
  tp : Nat
  rp : Nat
deriving DecidableEq, Repr

/-- A logical quad as a physical one: 0x3FF is the issuing core's own (R268). -/
def quadNamed (k q : Nat) : Nat := if q == 0x3FF then quadOfKey k else q

/-- The descriptor in words n and n + 1 of a command of a core. -/
def descAt (k : Nat) (ws : List Word) (n : Nat) : Desc :=
  let w1 := cmdWord ws n
  let w2 := cmdWord ws (n + 1)
  { quad := quadNamed k (bitsOf w1 41 32), off := bitsOf w1 31 0, rot := bitsOf w2 35 32, tp := bitsOf w2 31 16, rp := bitsOf w2 15 0 }

/-- Elements of a block that shares a scale byte; 0 for a format without scales (R236, R268). -/
def scaleBlock (f : Nat) : Nat := if f == 4 || f == 6 then 16 else if f == 2 || f == 3 || f == 5 then 32 else 0

/-- Bytes of a lane of K elements. -/
def laneBytes (f k : Nat) : Nat := (k * typeBits f + 7) / 8

/-- Whether the descriptor in words n and n + 1 breaks R268 for K elements of a format (detail 9). -/
def descBroken (ws : List Word) (n f k : Nat) : Bool :=
  let w2 := cmdWord ws (n + 1)
  let rp := bitsOf w2 15 0
  descZero ws n || rp % 8 != 0 || decide (rp < laneBytes f k) || (bitsOf w2 35 32 != 0 && rp % 128 != 0)
    || (scaleBlock f != 0 && bitsOf w2 31 16 % 8 != 0)

/-- Whether an MREAD's descriptor breaks R268 for a readout format. -/
def readBroken (ws : List Word) (f : Nat) : Bool :=
  let rp := bitsOf (cmdWord ws 3) 15 0
  cmdWord ws 2 / 2 ^ 42 != 0 || cmdWord ws 3 / 2 ^ 16 != 0 || rp % 8 != 0 || decide (rp < (if f == 1 then 64 else 128))

/-! ### Checks (R266) -/

/-- The first detail whose condition holds. -/
def firstDetail (l : List (Bool × Nat)) : Option Nat := (l.find? (·.1)).map (·.2)

/-- A set of a core. -/
def accSet (m : Matrix) (n : Nat) : AccSet := if n == 0 then m.acc0 else m.acc1

/-- A set changed. -/
def modSet (n : Nat) (f : AccSet → AccSet) (m : Matrix) : Matrix :=
  if n == 0 then { m with acc0 := f m.acc0 } else { m with acc1 := f m.acc1 }

/-- Whether a source is unfit for a format: neither a tile register that holds it nor the quad store (detail 8). -/
def sourceBroken (m : Matrix) (src f : Nat) : Bool :=
  if src == 0x0F then false
  else if 3 < src then true
  else match tfind m.tiles src with
    | none => true
    | some t => t.fmt != f

/-- Whether a source is a tile register with fewer than K elements. -/
def sourceShort (m : Matrix) (src k : Nat) : Bool :=
  match tfind m.tiles src with
  | some t => src != 0x0F && decide (t.k < k)
  | none => false

/-- The detail of an MMA's first broken condition, under a context (R266). RP, TP and ROT are judged only of a descriptor that is read (log entry
89). -/
def mmaDetail (m : Matrix) (x : MCtx) (ws : List Word) : Option Nat :=
  let n := (pairNum x.fa x.fb).getD 0
  let k := cmdHalf ws 12
  let cnt := cmdHalf ws 14
  let set := accSet m (cmdByte ws 8)
  let kc := if cmdZf ws then 0 else set.kcount
  firstDetail
    [(sourceBroken m (cmdByte ws 9) x.fa || sourceBroken m (cmdByte ws 10) x.fb, 8),
     (k == 0 || k % (pairAt n).block != 0 || sourceShort m (cmdByte ws 9) k || sourceShort m (cmdByte ws 10) k, 5),
     ((cmdByte ws 9 == 0x0F && descBroken ws 2 x.fa k) || (cmdByte ws 10 == 0x0F && descBroken ws 4 x.fb k), 9),
     (cnt != 0 && (decide (x.cap < cnt) || x.fa != 4 || decide (1024 < k)), 10),
     (decide (2 ^ 25 < kc + k + 128 * cnt), 6),
     (kc != 0 && set.pair != some (n, x.ba, x.bb), 11)]

/-- The detail of an MCTX's fields (detail 3). -/
def ctxBroken (ws : List Word) : Bool :=
  let b := cmdByte ws
  (pairNum (b 8) (b 9)).isNone || !(b 12 == 0 || b 12 == 1 || b 12 == 8) || decide (4 < b 13) || decide (1 < b 14) || decide (64 < b 15)

/-- The detail of an MTILE's first broken condition. -/
def tileDetail (ws : List Word) : Option Nat :=
  let f := cmdByte ws 9
  let k := cmdHalf ws 12
  let n := if scaleBlock f == 0 then 32 else scaleBlock f
  firstDetail
    [(decide (3 < cmdByte ws 8) || f == 0 || decide (7 < f), 7), (k == 0 || k % n != 0 || decide (2048 < k * typeBits f), 5),
     (descBroken ws 2 f k, 9)]

/-- The detail code of a command's first broken condition, against the state that earlier commands left (R266). -/
def cmdDetail (m : Matrix) (ws : List Word) : Option Nat :=
  let kind := cmdKind ws
  if kind == 0 || decide (6 < kind) then some 1
  else if zeroBroken ws then some 2
  else if kind == 1 then firstDetail [(ctxBroken ws, 3)]
  else if kind == 2 then firstDetail [(cmdByte ws 8 == 0, 7)]
  else if kind == 6 then tileDetail ws
  else if kind == 5 then none
  else if 1 < cmdByte ws 8 then some 7
  else
    match m.ctx with
    | none => some 4
    | some x => if kind == 4 then firstDetail [(readBroken ws x.out, 9)] else mmaDetail m x ws

/-! ### Operands (R268, R269) -/

/-- An operand element: its value, whether a poisoned word brought it, and the flags that reading it raises. -/
structure Opnd where
  v : Num := .fin false 0 0 false
  poison : Bool := false
  fl : BitVec 8 := 0#8
deriving DecidableEq, Repr

/-- A byte of a quad's store at an offset taken modulo 2^19, with its mark (R268). -/
def qsByte (s : State) (q off : Nat) : Nat × Bool :=
  let a := quadBase q + off % 2 ^ 19
  ((memByte s.mem a).toNat, s.poison.contains (a / 8 * 8))

/-- Offset of data byte x of lane i (R268). -/
def laneByte (d : Desc) (i x : Nat) : Nat := d.off + i * d.rp + (x + 8 * (i * d.rot % 16)) % d.rp

/-- Offset of the scale byte of block j of lane i (R268). An 8-bit format's RP ÷ 32 is rounded down before the lane multiplies it (log entry 100). -/
def scaleByte (d : Desc) (f i j : Nat) : Nat := d.off + d.tp + i * (d.rp / (if typeBits f == 4 then 8 else 32)) + j

/-- The word of a quad's store that holds the byte at an offset taken modulo 2^19 (R268). -/
def qsWord (q off : Nat) : Nat := (quadBase q + off % 2 ^ 19) / 8 * 8

/-- The words of a quad's store that the elements k0 to k0 + n − 1 of every lane and their scale bytes stand in (R268). -/
def operandWords (d : Desc) (f k0 n : Nat) : List Nat :=
  let b := typeBits f
  let data := fun (i : Nat) => (List.range (laneBytes f n)).map fun x => laneByte d i (k0 * b / 8 + x)
  let scale := fun (i : Nat) =>
    if scaleBlock f == 0 then [] else (List.range (n / scaleBlock f)).map fun j => scaleByte d f i (k0 / scaleBlock f + j)
  ((List.range 32).flatMap fun i => data i ++ scale i).map (qsWord d.quad)

/-- Words read: single-bit errors in them are corrected (R173). -/
def scrubWords (s : State) (ws : List Nat) : State := if s.flips.isEmpty then s else ws.foldl scrubWord s

/-- Whether one of the words that a command would reach waits behind a parked atomic (R205). -/
def anyBlocked (s : State) (ws : List Nat) : Bool := !s.parked.isEmpty && ws.any fun w => wordBlocked s w 8

/-- The n element codes of a lane from element k0, each with its mark. -/
def laneCodes (s : State) (d : Desc) (f i k0 n : Nat) : List (Nat × Bool) :=
  let b := typeBits f
  (List.range n).map fun j =>
    let bit := (k0 + j) * b
    let lo := qsByte s d.quad (laneByte d i (bit / 8))
    if b == 16 then
      let hi := qsByte s d.quad (laneByte d i (bit / 8 + 1))
      (lo.1 + 256 * hi.1, lo.2 || hi.2)
    else (lo.1 / 2 ^ (bit % 8) % 2 ^ b, lo.2)

/-- The scale byte, with its mark, that governs element k of a lane; a format without scales has none. -/
def laneScale (s : State) (d : Desc) (f i k : Nat) : Nat × Bool :=
  if scaleBlock f == 0 then (0, false) else qsByte s d.quad (scaleByte d f i (k / scaleBlock f))

/-- The value of an element under its scale byte and base (R269). -/
def operandValue (f : Nat) (base : Int) (code scale : Nat) : Num × BitVec 8 :=
  let zero : Num := .fin false 0 0 false
  if f == 1 then (elemValue f code, 0#8)
  else if f == 7 then (if code == 2 then (zero, flagILC) else (numScale base (elemValue f code), 0#8))
  else if scale / 64 == 3 || (scaleBlock f == 32 && decide (32 ≤ scale % 64)) then (zero, flagILC)
  else if scale / 64 == 1 then (zero, 0#8)
  else (numScale (base + (scale % 64 : Nat) - 32) (elemValue f code), 0#8)

/-- An operand element from its code and scale. -/
def operandOf (f : Nat) (base : Int) (c sc : Nat × Bool) : Opnd :=
  let v := operandValue f base c.1 sc.1
  { v := v.1, poison := c.2 || sc.2, fl := v.2 }

/-- The elements k0 to k0 + n − 1 of every lane of an operand in quad store. -/
def storeLanes (s : State) (d : Desc) (f : Nat) (base : Int) (k0 n : Nat) : List (List Opnd) :=
  (List.range 32).map fun i =>
    (laneCodes s d f i k0 n).zipIdx.map fun e => operandOf f base e.1 (laneScale s d f i (k0 + e.2))

/-- The same of an operand in a tile register. -/
def tileLanes (t : Tile) (base : Int) (k0 n : Nat) : List (List Opnd) :=
  (List.range 32).map fun i => (List.range n).map fun j =>
    let k := k0 + j
    let sc := if scaleBlock t.fmt == 0 then 0 else (t.scales.getD i []).getD (k / scaleBlock t.fmt) 0
    operandOf t.fmt base ((t.codes.getD i []).getD k 0, (t.poison.getD i []).getD k false) (sc, false)

/-- A tile register loaded (R270). -/
def readTile (s : State) (d : Desc) (f k : Nat) : Tile :=
  let lane := fun i => (laneCodes s d f i 0 k).zipIdx.map fun e => (e.1.1, e.1.2 || (laneScale s d f i e.2).2)
  let n := if scaleBlock f == 0 then 0 else k / scaleBlock f
  { fmt := f, k := k, codes := (List.range 32).map fun i => (lane i).map (·.1), poison := (List.range 32).map fun i => (lane i).map (·.2),
    scales := (List.range 32).map fun i => (List.range n).map fun j => (qsByte s d.quad (scaleByte d f i j)).1 }

/-! ### Accumulation (R271 to R274) -/

/-- Two tags combined (R273). -/
def joinTag (a b : AccTag) : AccTag := if a == .finite then b else if b == .finite || a == b then a else .nan

/-- The tag of an infinity. -/
def infTag (neg : Bool) : AccTag := if neg then .negInf else .posInf

/-- An exact product aligned and added to an element (R271 to R273): `lsb` is the exponent of the accumulator's unit, and a magnitude of
2^cut or more overflows, where a cut is given. The flags it raises follow. -/
def accAdd (lsb : Int) (cut : Option Int) (p : Num) (e : AccElem) : AccElem × BitVec 8 :=
  match p with
  | .nan => ({ e with tag := .nan }, 0#8)
  | .inf n => ({ e with tag := joinTag e.tag (infTag n) }, 0#8)
  | .fin n m x _ =>
    if m == 0 then (e, 0#8)
    else if (match cut with | some c => decide (c ≤ (Nat.log2 m : Int) + x) | none => false) then
      ({ e with tag := joinTag e.tag (infTag n) }, flagOF)
    else
      let up := m * 2 ^ (x - lsb).toNat
      let sh := (lsb - x).toNat
      let v := if lsb ≤ x then up else m / 2 ^ sh
      let lost := decide (x < lsb) && m % 2 ^ sh != 0
      ({ e with val := if n then e.val - BitVec.ofNat 160 v else e.val + BitVec.ofNat 160 v, inexact := e.inexact || lost }, 0#8)

/-- One product of two operand elements added (R271, R273). -/
def accMul (lsb : Int) (cut : Option Int) (a b : Opnd) (e : AccElem × BitVec 8) : AccElem × BitVec 8 :=
  let r := accAdd lsb cut (numMul a.v b.v).1 e.1
  ({ r.1 with poison := r.1.poison || a.poison || b.poison }, e.2 ||| r.2)

/-- Whether an operand element can change an accumulator element. -/
def Opnd.idle (o : Opnd) : Bool := !o.poison && (match o.v with | .fin _ m _ _ => m == 0 | _ => false)

/-- A block's products added to one element. -/
def accDot (lsb : Int) (cut : Option Int) (as bs : List Opnd) (e : AccElem) : AccElem × BitVec 8 :=
  (List.zip as bs).foldl (fun x p => accMul lsb cut p.1 p.2 x) (e, 0#8)

/-- A set with the elements of row i changed by their column, and the flags raised. -/
def rowAdd (i : Nat) (f : Nat → AccElem → AccElem × BitVec 8) (x : AccSet × BitVec 8) : AccSet × BitVec 8 :=
  (List.range 32).foldl (fun y n =>
    let key := 32 * i + n
    let r := f n (tget y.1.elems {} key)
    ({ y.1 with elems := if r.1 == {} then tdel y.1.elems key else tput y.1.elems key r.1 }, y.2 ||| r.2)) x

/-- The lanes of a block added to a set. A lane of A that holds only zeros meets only the infinities and NaNs of B. -/
def blockAdd (lsb : Int) (cut : Option Int) (as bs : List (List Opnd)) (x : AccSet × BitVec 8) : AccSet × BitVec 8 :=
  let odd := bs.any fun l => l.any fun o => o.poison || (match o.v with | .fin _ _ _ _ => false | _ => true)
  as.zipIdx.foldl (fun y a =>
    if a.1.all Opnd.idle && !odd then y
    else rowAdd a.2 (fun n e => accDot lsb cut a.1 (bs.getD n []) e) y) x

/-- The value of an outlier entry (R274). -/
def outlierValue (base : Int) (e : Nat) : Num := numScale (base + (bitsOf e 28 23 : Nat) - 32) (elemValue 2 (bitsOf e 22 15))

/-- Whether an outlier entry is ignored (R274). -/
def outlierBad (k e : Nat) : Bool := e / 2 ^ 29 != 0 || decide (k ≤ bitsOf e 14 5)

/-- The outlier entries of a block added to a set. -/
def outliersAdd (lsb : Int) (base : Int) (k k0 n : Nat) (l : List (Nat × Bool)) (bs : List (List Opnd)) (x : AccSet × BitVec 8) :
    AccSet × BitVec 8 :=
  l.foldl (fun y e =>
    let ke := bitsOf e.1 14 5
    if outlierBad k e.1 || decide (ke < k0) || decide (k0 + n ≤ ke) then y
    else
      let a : Opnd := { v := outlierValue base e.1, poison := e.2 }
      rowAdd (bitsOf e.1 4 0) (fun c el => accMul lsb none a ((bs.getD c []).getD (ke - k0) {}) (el, 0#8)) y) x

/-- An accumulator set zeroed (R270). -/
def zeroSet : AccSet := {}

/-! ### The unit (R264) -/

/-- The key of the core at a position of a quad. -/
def quadCore (q p : Nat) : Nat := keyOf (q / 16) (4 * (q % 16) + p)

/-- Whether a command executes in a quad's unit. -/
def unitBusy (s : State) (q : Nat) : Bool := (List.range 4).any fun p => (coreOf s (quadCore q p)).mx.exec.isSome

/-- The core whose head command the unit takes next (R264). -/
def mxNext (s : State) (q : Nat) : Option Nat :=
  if unitBusy s q then none
  else
    (((List.range 4).map fun j => ((quadOf s q).mxLast + 1 + j) % 4).find? fun p => !(coreOf s (quadCore q p)).mx.queue.isEmpty).map
      (quadCore q)

/-- The matrix state of a core changed. -/
def modMx (s : State) (k : Nat) (f : Matrix → Matrix) : State := modCore s k fun c => { c with mx := f c.mx }

/-- Whether the strand that committed a command is live. -/
def cmdLive (s : State) (k : Nat) (c : MCmd) : Bool := (slotOf s k c.slot).uid == c.uid && (slotOf s k c.slot).status != .free

/-- The flags of a completed command (R277): its strand's if that is live, and the cluster's union. -/
def cmdFlags (s : State) (k : Nat) (c : MCmd) (f : BitVec 8) : State :=
  if cmdLive s k c then raiseFlags s k c.slot f
  else if f = 0#8 then s else modCluster s (clusterOfKey k) fun x => { x with flagUnion := x.flagUnion ||| f }

/-- A command that failed a check (R266). -/
def cmdError (s : State) (k : Nat) (c : MCmd) (detail : Nat) : State :=
  let s1 := modMx s k fun m =>
    { m with ecount := min 255 (m.ecount + 1), etag := if m.ecount == 0 then BitVec.ofNat 32 (cmdTag c.words) else m.etag,
             edet := if m.ecount == 0 then detail else m.edet }
  recordErrAt s1 k c.slot c.uid 0x11 (BitVec.ofNat 64 (cmdTag c.words * 256 + detail))

/-- The words of an MMA's outlier list (R271). -/
def outlierWords (k : Nat) (ws : List Word) : List Nat :=
  (List.range (cmdHalf ws 14)).map fun j => qsWord (quadNamed k (bitsOf (cmdWord ws 6) 41 32)) (bitsOf (cmdWord ws 6) 31 0 + 4 * j)

/-- The words that an MREAD writes under a context (R275). -/
def readoutWords (x : MCtx) (d : Desc) : List Nat :=
  (List.range 32).flatMap fun i => (List.range (typeBits x.out / 2)).map fun j => qsWord d.quad (d.off + i * d.rp + 8 * j)

/-- The target word of an MFENCE (R276): the one that holds the byte at its offset (log entry 101). -/
def fenceWord (k : Nat) (ws : List Word) : Nat := qsWord (quadNamed k (bitsOf (cmdWord ws 2) 41 32)) (bitsOf (cmdWord ws 2) 31 0)

/-- The words that a command reaches when its execution begins: an MTILE's operand, an MMA's outlier list, what an MREAD and an MFENCE write. -/
def cmdWords (m : Matrix) (k : Nat) (ws : List Word) : List Nat :=
  let kind := cmdKind ws
  if kind == 6 then operandWords (descAt k ws 2) (cmdByte ws 9) 0 (cmdHalf ws 12)
  else if kind == 3 then outlierWords k ws
  else if kind == 4 then (match m.ctx with | some x => readoutWords x (descAt k ws 2) | none => [])
  else if kind == 5 then [fenceWord k ws]
  else []

/-- Whether a command that passes its checks waits behind a parked atomic (R205). -/
def cmdHeld (s : State) (k : Nat) (c : MCmd) : Bool :=
  let m := (coreOf s k).mx
  (cmdDetail m c.words).isNone && anyBlocked s (cmdWords m k c.words)

/-- A core's next command leaves its queue and is checked (R264, R266), if it is that core's turn, the command is of a kind wanted
and no parked atomic holds it (R205); it then takes effect. -/
def takeCmd (want : Nat → Bool) (k : Nat) (act : MCmd → State → State) (s : State) : State :=
  if mxNext s (quadOfKey k) == some k then
    match (coreOf s k).mx.queue with
    | [] => s
    | c :: r =>
      if want (cmdKind c.words) && !(cmdHeld s k c) then
        let s1 := modMx (modQuad s (quadOfKey k) fun q => { q with mxLast := unitOfKey k % 4 }) k fun m => { m with queue := r }
        match cmdDetail (coreOf s1 k).mx c.words with
        | some d => cmdError s1 k c d
        | none => act c s1
      else s
  else s

/-! ### Commands -/

/-- A signed byte of a command. -/
def cmdInt (ws : List Word) (n : Nat) : Int := (BitVec.ofNat 8 (cmdByte ws n)).toInt

/-- The context that an MCTX sets. -/
def ctxOf (ws : List Word) : MCtx :=
  let b := cmdByte ws
  { fa := b 8, fb := b 9, ba := cmdInt ws 10, bb := cmdInt ws 11, out := b 12, rm := b 13, lock := b 14, cap := b 15 }

/-- MCTX (R267); a command of no kind is taken here too, and fails. -/
def execMctx (core : Nat) (s : State) : Host.Outcome State Fault Refusal :=
  .next (takeCmd (fun k => k == 1 || k == 0 || decide (6 < k)) core (fun c t => modMx t core fun m => { m with ctx := some (ctxOf c.words) }) s)

/-- MZERO (R270). -/
def execMzero (core : Nat) (s : State) : Host.Outcome State Fault Refusal :=
  .next (takeCmd (· == 2) core (fun c t => modMx t core fun m =>
    let mask := cmdByte c.words 8
    { m with acc0 := if mask % 2 == 1 then zeroSet else m.acc0, acc1 := if 2 ≤ mask then zeroSet else m.acc1 }) s)

/-- MTILE (R270). -/
def execMtile (core : Nat) (s : State) : Host.Outcome State Fault Refusal :=
  .next (takeCmd (· == 6) core (fun c t =>
    let d := descAt core c.words 2
    let f := cmdByte c.words 9
    let k := cmdHalf c.words 12
    let t1 := scrubWords t (operandWords d f 0 k)
    modMx t1 core fun m => { m with tiles := tput m.tiles (cmdByte c.words 8) (readTile t1 d f k) }) s)

/-- The outlier list of an MMA, as read when it begins (R271): each entry with its word's mark. -/
def readOutliers (s : State) (k : Nat) (ws : List Word) : List (Nat × Bool) :=
  let q := quadNamed k (bitsOf (cmdWord ws 6) 41 32)
  let off := bitsOf (cmdWord ws 6) 31 0
  (List.range (cmdHalf ws 14)).map fun j =>
    let bs := (List.range 4).map fun b => qsByte s q (off + 4 * j + b)
    (bs.foldr (fun b acc => b.1 + 256 * acc) 0, bs.any (·.2))

/-- MMA begins (R271): the set is zeroed under ZF, the outlier list is read, and an empty set takes the context's pair record. -/
def execMma (core : Nat) (s : State) : Host.Outcome State Fault Refusal :=
  .next (takeCmd (· == 3) core (fun c t =>
    match (coreOf t core).mx.ctx with
    | none => t
    | some x =>
      let k := cmdHalf c.words 12
      let n := (pairNum x.fa x.fb).getD 0
      let t := scrubWords t (outlierWords core c.words)
      let l := readOutliers t core c.words
      let bad := l.any fun e => outlierBad k e.1
      modMx t core fun m =>
        let m1 := modSet (cmdByte c.words 8) (fun a =>
          let z := if cmdZf c.words then zeroSet else a
          { z with pair := if z.kcount == 0 then some (n, x.ba, x.bb) else z.pair, progress := (0, k / (pairAt n).block) }) m
        { m1 with exec := some { cmd := c, outliers := l, flags := if bad then flagILC else 0#8 } }) s)

/-- The lanes of a source for a block: of a tile register, or of the quad store through the descriptor in words n and n + 1. -/
def sourceLanes (s : State) (core : Nat) (ws : List Word) (src n f : Nat) (base : Int) (k0 len : Nat) : List (List Opnd) :=
  match (if src == 0x0F then none else tfind (coreOf s core).mx.tiles src) with
  | some t => tileLanes t base k0 len
  | none => storeLanes s (descAt core ws n) f base k0 len

/-- The flags that reading a block's operand raises. -/
def lanesFlags (l : List (List Opnd)) : BitVec 8 := allFlags (l.map fun r => allFlags (r.map (·.fl)))

/-- The words that the next block of an executing MMA reads from quad store (R268, R271). -/
def blockWords (core : Nat) (x : MCtx) (e : MExec) : List Nat :=
  let ws := e.cmd.words
  let len := (pairAt ((pairNum x.fa x.fb).getD 0)).block
  (if cmdByte ws 9 == 0x0F then operandWords (descAt core ws 2) x.fa (e.blk * len) len else [])
    ++ (if cmdByte ws 10 == 0x0F then operandWords (descAt core ws 4) x.fb (e.blk * len) len else [])

/-- A block of an executing MMA (R271): the products of the block and of its outliers are added, and after the last block the command
completes. -/
def blockStep (s : State) (core : Nat) (x : MCtx) (e : MExec) : State :=
  let ws := e.cmd.words
  let n := (pairNum x.fa x.fb).getD 0
  let p := pairAt n
  let len := p.block
  let k := cmdHalf ws 12
  let k0 := e.blk * len
  let set := cmdByte ws 8
  let s2 := scrubWords s (blockWords core x e)
  let as := sourceLanes s2 core ws (cmdByte ws 9) 2 x.fa x.ba k0 len
  let bs := sourceLanes s2 core ws (cmdByte ws 10) 4 x.fb x.bb k0 len
  let lsb := x.ba + x.bb - p.c
  let cut := if n == 9 then some (x.ba + x.bb + 54) else none
  let r := outliersAdd lsb x.ba k k0 len e.outliers bs (blockAdd lsb cut as bs (accSet (coreOf s2 core).mx set, 0#8))
  let fl := e.flags ||| r.2 ||| lanesFlags as ||| lanesFlags bs
  let done := e.blk + 1
  let last := done == k / len
  let a : AccSet := { r.1 with progress := (done, k / len), kcount := if last then r.1.kcount + k + 128 * cmdHalf ws 14 else r.1.kcount }
  let s3 := modMx s2 core fun m => { modSet set (fun _ => a) m with exec := if last then none else some { e with blk := done, flags := fl } }
  if last then cmdFlags s3 core e.cmd fl else s3

/-- K_BLOCK_COMPLETION: the executing MMA of a core completes its next K block (R271, R279), unless a word of it waits behind a parked atomic
(R205). -/
def execKBlockCompletion (core : Nat) (s : State) : Host.Outcome State Fault Refusal :=
  let m := (coreOf s core).mx
  match m.exec, m.ctx with
  | some e, some x => .next (if anyBlocked s (blockWords core x e) then s else blockStep s core x e)
  | _, _ => .next s

/-- An element as the value that its set's pair record gives it (R275). -/
def accNum (lsb : Int) (e : AccElem) : Num :=
  match e.tag with
  | .finite => .fin (decide (e.val.toInt < 0)) e.val.toInt.natAbs lsb false
  | .posInf => .inf false
  | .negInf => .inf true
  | .nan => .nan

/-- The exponent of a set's unit, from its pair record (R275). -/
def setLsb (a : AccSet) : Int :=
  match a.pair with
  | some (n, ba, bb) => ba + bb - (pairAt n).c
  | none => 0

/-- The bytes of a number stored at an offset of a quad's store, each taken modulo 2^19 (R268). -/
def qsBytes (q off n v : Nat) : List MByte :=
  (List.range n).map fun i => { addr := quadBase q + (off + i) % 2 ^ 19, val := BitVec.ofNat 8 (v / 256 ^ i) }

/-- One 64-bit word of a readout written (R275), with the flags of its elements. -/
def readoutWord (x : MCtx) (a : AccSet) (d : Desc) (i j : Nat) (y : State × BitVec 8) : State × BitVec 8 :=
  let b := typeBits x.out
  let n := 64 / b
  let es := (List.range n).map fun m => tget a.elems {} (32 * i + j * n + m)
  let rs := es.map fun e => let r := rnd x.out x.rm (accNum (setLsb a) e); (r.1, r.2 ||| (if e.inexact then flagNX else 0#8))
  (performStore y.1 (qsBytes d.quad (d.off + i * d.rp + 8 * j) 8 (joinElems b (rs.map (·.1)))) (es.any (·.poison)),
    y.2 ||| allFlags (rs.map (·.2)))

/-- MREAD (R275). -/
def execMread (core : Nat) (s : State) : Host.Outcome State Fault Refusal :=
  .next (takeCmd (· == 4) core (fun c t =>
    match (coreOf t core).mx.ctx with
    | none => t
    | some x =>
      let set := cmdByte c.words 8
      let a := accSet (coreOf t core).mx set
      let d := descAt core c.words 2
      let words := typeBits x.out / 2
      let r := (List.range 32).foldl (fun y i => (List.range words).foldl (fun z j => readoutWord x a d i j z) y) (t, 0#8)
      let t1 := if cmdZf c.words then modMx r.1 core (modSet set fun _ => zeroSet) else r.1
      cmdFlags t1 core c r.2) s)

/-- MFENCE (R276): the fill is written, the word is set full and its waiters are woken; the error state is cleared. -/
def execMfence (core : Nat) (s : State) : Host.Outcome State Fault Refusal :=
  .next (takeCmd (· == 5) core (fun c t =>
    let m := (coreOf t core).mx
    let v := BitVec.ofNat 64 (m.ecount * 2 ^ 40 + m.edet * 2 ^ 32 + cmdTag c.words)
    let a := fenceWord core c.words
    let t1 := feChanged t (feAct t .fefull a v).1 a
    modMx t1 core fun m => { m with etag := 0#32, edet := 0, ecount := 0 }) s)

/-! ### MACC and MSTAT (R279, R280) -/

/-- Whether an MMA is executing on a set of a core. -/
def setBusy (m : Matrix) (set : Nat) : Bool :=
  match m.exec with
  | some e => cmdByte e.cmd.words 8 == set
  | none => false

/-- Whether the context in force lets MACC read a set while an MMA executes on it. -/
def snapshotMode (m : Matrix) : Bool := match m.ctx with | some x => x.lock == 1 | none => false

/-- Word w of an element (R279). -/
def accWord (e : AccElem) (w : Nat) : Nat :=
  if w == 0 then (e.val.setWidth 64).toNat
  else if w == 1 then ((e.val >>> 64).setWidth 64).toNat
  else if w == 2 then (((e.val >>> 128).setWidth 32).signExtend 64).toNat
  else
    let tag := match e.tag with | .finite => 0 | .posInf => 1 | .negInf => 2 | .nan => 3
    (if e.inexact then 1 else 0) + (if e.poison then 2 else 0) + 4 * tag

/-- The places that an index names: set, row and column as a key, word. -/
def accIndex (x : Nat) : Nat × Nat × Nat := (x / 2 ^ 12 % 2, x / 2 ^ 7 % 32 * 32 + x / 2 ^ 2 % 32, x % 4)

/-- MACC's body. The pending error of a poisoned element has address 0 (R177). -/
def maccBody (a b c : Name) (s : State) : Ans Unit :=
  if !(isCore s.cur.core) || (isFixed c && !(writable c)) then .trap 0x02 0#64
  else
    (readName b s).bind fun x s =>
      if x < 0 || 2 ^ 13 ≤ x then .trap 0x11 (wordOf x)
      else
        let m := (coreOf s s.cur.core).mx
        let (set, key, w) := accIndex x.toNat
        if setBusy m set && !(snapshotMode m) then .hold
        else
          let e := tget (accSet m set).elems {} key
          let bad := e.poison && w != 3
          let p := (accSet m set).progress
          (signedOfName a s).bind fun sg s =>
            (writeName a (readAs 64 sg (if bad then 0 else accWord e w)) s).seq fun s =>
              (writeName c ((p.2 * 2 ^ 16 + p.1 : Nat) : Int) s).seq fun s =>
                .ok () (if bad then recordErrAt s s.cur.core s.cur.slot (curSlot s).uid 0x0E 0#64 else s)

/-- MACC. -/
def execMacc (a b c : Name) (s : State) : Host.Outcome State Fault Refusal := run (maccBody a b c) s

/-- MSTAT. -/
def execMstat (a : Name) (s : State) : Host.Outcome State Fault Refusal :=
  run (fun s =>
    if !(isCore s.cur.core) then .trap 0x02 0#64
    else
      let m := (coreOf s s.cur.core).mx
      let v : Nat := m.etag.toNat * 2 ^ 32 + m.ecount * 2 ^ 16 + m.edet * 2 ^ 8 + (if m.exec.isSome then 16 else 0) + m.queue.length
      writeName a (v : Int) s) s

end Sys2Proof.Machine
end

