-- ==== Sys2Proof/Machine/Registers.lean ====
section
/-! DEFINITION. The system registers (R287 to R290): who may reach each, what each reads, and what a write does: the supervisor's
registers (R207, R209, R290, R291, R295, R296), the memory registers (R180 to R184, R353, R357) and the quad's (R289, R299, R302). -/

namespace Sys2Proof.Machine

/-! ### Reach (R288) -/

/-- Whether a number names a register. -/
def regKnown (n : Nat) : Bool :=
  decide (n ≤ 5) || (decide (0x100 ≤ n) && decide (n ≤ 0x102)) || (decide (0x200 ≤ n) && decide (n ≤ 0x204))
    || (decide (0x300 ≤ n) && decide (n ≤ 0x305)) || (decide (0x340 ≤ n) && decide (n ≤ 0x37F))
    || (decide (0x400 ≤ n) && decide (n ≤ 0x403)) || (decide (0x410 ≤ n) && decide (n ≤ 0x41F))
    || n == 0x500 || n == 0x501 || (decide (0x510 ≤ n) && decide (n ≤ 0x51F)) || (decide (0x520 ≤ n) && decide (n ≤ 0x527))
    || n == 0x600 || n == 0x601 || (decide (0x640 ≤ n) && decide (n ≤ 0x66F))

/-- The CLUS group. -/
def regClus (n : Nat) : Bool := decide (0x300 ≤ n) && decide (n ≤ 0x37F)

/-- Whether the issuer is the supervisor, or a work strand whose launch carries the test flag. -/
def mayTest (s : State) : Bool :=
  isSupervisor s.cur.core || (decide (s.cur.slot < 14) && (match (curSlot s).launch with
    | some l => ((tfind s.launches l).map (·.test)).getD false
    | none => false))

/-- Whether the issuer may read a register. -/
def mayRead (s : State) (n : Nat) : Bool := !(regClus n) || isSupervisor s.cur.core

/-- Whether the issuer may write a register; a write that the register ignores is permitted. -/
def mayWrite (s : State) (n : Nat) : Bool :=
  if regClus n || n == 0x400 || n == 0x401 then isSupervisor s.cur.core
  else if n == 0x201 || n == 0x402 || n == 0x403 then mayTest s
  else true

/-! ### Reading -/

/-- QUAD.TEMP (R289): the test value while EN is 1. -/
def quadTemp (q : Quad) : Int :=
  if bitsOf q.tempTest.toNat 63 63 == 1 then (q.tempTest.setWidth 16).toInt else q.temp

/-- DEV.ID (R289). -/
def devId (s : State) : Nat := s.dev.sirev % 2 ^ 16 * 2 ^ 48 + s.dev.fwrev % 2 ^ 16 * 2 ^ 32 + s.dev.num % 2 ^ 10 * 2 ^ 22

/-- CORE.EVENT (R289). -/
def eventBits (c : Core) : Nat := (c.slots.map fun e => if e.2.event then 2 ^ e.1 else 0).sum

/-- FAB.VERSION (R345). -/
def fabVersion (s : State) : Nat :=
  (match s.fab.pendTable with | some (v, _) => 2 ^ 32 + v.toNat * 2 ^ 16 | none => 0) + s.fab.cur.toNat

/-- FAB.GRANARY (R345). -/
def fabGranary (s : State) : Nat := min s.fab.replays 65535 * 2 ^ 48 + granaryUsed s

/-- FAB.LINKSTATE of a port (R345). -/
def linkState (s : State) (p : Nat) : Nat :=
  let x : Port := tget s.fab.ports {} p
  min x.errs 65535 * 2 ^ 48 + min x.llr 65535 * 2 ^ 32 + x.peerPort % 64 * 2 ^ 26 + x.peerDev % 1024 * 2 ^ 16 + x.lanes.toNat * 8 + x.state % 8

/-- The value of a register for the issuer (R288 to R290); a write-only one reads 0, and so do the CORE and QUAD groups off the cores. -/
def regValue (s : State) (n : Nat) : Nat :=
  let k := s.cur.core
  let x := curSlot s
  let c := clusterOf s (clusterOfKey k)
  let q := quadOf s (quadOfKey k)
  if n ≤ 5 then
    (if n == 0 then x.rm.toNat else if n == 1 then x.flags.toNat else if n == 2 then x.tvec.toNat
     else if n == 3 then (trapCauseWord x).toNat else if n == 4 then x.trapVal.toNat else x.trapPc.toNat)
  else if n < 0x300 then
    if !(isCore k) then 0
    else if n == 0x100 then (coreOf s k).duty
    else if n == 0x101 then eventBits (coreOf s k)
    else if n == 0x102 then (mkAgent s.cur.slot s.dev.num (clusterOfKey k) (unitOfKey k)).toNat
    else if n == 0x200 then (quadTemp q % 65536).toNat
    else if n == 0x201 then q.tempTest.toNat
    else if n == 0x202 then q.mv % 2 ^ 16 * 2 ^ 32 + q.freq % 2 ^ 16 * 2 ^ 16 + (coreOf s k).req % 2 ^ 16
    else if n == 0x203 then q.energy.toNat % 2 ^ 32
    else (tget x.shadow 0#64 (quadOfKey k)).toNat % 2 ^ 32
  else if n < 0x400 then
    if n == 0x300 then c.flagUnion.toNat
    else if n == 0x303 then c.slotctl % 4 * 2 ^ 62
    else if n == 0x304 then (if c.migPend then 2 ^ 63 else 0) + c.migCore % 64 * 2 ^ 48 + bitsOf c.migArea 47 6 * 64
    else if n == 0x305 then c.slackTgt % 256
    else if 0x340 ≤ n then physOf s (clusterOfKey k) (n - 0x340)
    else 0
  else if n < 0x500 then
    if n == 0x400 then (c.arrLog.headD 0#64).toNat
    else if n == 0x401 then (c.vbusLog.headD 0#64).toNat
    else if n == 0x402 then c.inject.toNat
    else if n == 0x403 then c.storehold.toNat
    else (tget c.laneMap 0#64 (n - 0x410)).toNat
  else if n < 0x600 then
    if n == 0x500 then devId s
    else if n == 0x501 then s.dev.profile.toNat
    else if n < 0x520 then numRecord (n - 0x510)
    else (tget s.dev.secreg 0#64 (n - 0x520)).toNat
  else if n == 0x600 then fabVersion s
  else if n == 0x601 then fabGranary s
  else linkState s (n - 0x640)

/-- The energy that a quad has drawn since its counter was last read, a free amount, counted (R302). -/
def countEnergy (s : State) (q : Nat) : State :=
  { modQuad s q (fun x => { x with energy := x.energy + Config.freeWord s.fresh }) with fresh := s.fresh + 1 }

/-- The high half of the quad's energy counter latched in a slot's shadow of it (R302). -/
def latchEnergy (s : State) (k i : Nat) : State :=
  let q := quadOfKey k
  modSlot s k i fun x => { x with shadow := tput x.shadow q ((quadOf s q).energy >>> 32) }

/-! ### The quad's operating point -/

/-- The cores of a quad. -/
def quadCores (q : Nat) : List Nat := (List.range 4).map fun p => quadCore q p

/-- The highest REQ of a quad's cores. -/
def highestReq (s : State) (q : Nat) : Nat := (quadCores q).foldl (fun m k => max m (coreOf s k).req) 0

/-- The granted frequency of a quad set (R299), its clock's count going on from where it is (R31), and its voltage kept between the table's
bounds for it (R300). -/
def regrant (s : State) (q : Nat) : State :=
  modQuad s q fun x =>
    let f := min (min (highestReq s q) x.budgetCap) x.thermalCap / 25 * 25
    let y := if f == x.freq then x else { x with clkBase := x.clkBase + (s.uncore - x.clkAt) * x.freq / 2250, clkAt := s.uncore }
    { y with freq := f, mv := max (Config.voltMin f) (min x.mv (Config.voltMax f)) }

/-- The requested frequency that a REQ value stands for: clamped, and rounded down to a multiple of 25 (R289). -/
def reqOf (v : Nat) : Nat := min 2250 (max 600 v) / 25 * 25

/-- Whether a sensor action is pending for a quad (R289): a migration request that its temperature has raised and that the supervisor has not yet
accepted; the spec does not say what one is (log entry 85). -/
def sensorPending (s : State) (q : Nat) : Bool :=
  let here := fun (c l : Nat) => decide (c == q / 16) && physOf s c l / 4 == q % 16
  (s.agenda.any fun i => match i with | .migrationRequest c l _ => here c l | _ => false)
    || s.hwMsgs.any fun h => h.strand.isNone && h.msg.words.length == 4 && h.msg.words.headD 0#64 == s.dev.fwRequest
        && here (agentCluster h.msg.target) (bitsOf (h.msg.words.getD 1 0#64).toNat 5 0)

/-- A write of QUAD.TEMPTEST (R289): at once, or at the next sample while a sensor action is pending. -/
def writeTempTest (s : State) (q : Nat) (v : Word) : State :=
  let w := v &&& 0x800000000000FFFF#64
  if sensorPending s q then modQuad s q fun x => { x with tempNext := some w } else modQuad s q fun x => { x with tempTest := w }

/-- A write of QUAD.OPPOINT: only REQ is written (R288, R289). -/
def writeOppoint (s : State) (k : Nat) (v : Word) : State :=
  if isCore k then regrant (modCore s k fun c => { c with req := reqOf (bitsOf v.toNat 15 0) }) (quadOfKey k) else s

/-! ### The cluster's registers -/

/-- SLOTCTL's status after an action (R290, R291). -/
def slotctlEnd (s : State) (k : Nat) (ok : Bool) : State := modCluster s (clusterOfKey k) fun c => { c with slotctl := if ok then 0 else 2, slotctlOp := none }

/-- A write of CLUS.SLOTCTL (R290, R291): the action is in progress until its step has been done; an action code without a row is refused;
a write while one is in progress is ignored. -/
def writeSlotctl (s : State) (c : Nat) (v : Word) : State :=
  let n := v.toNat
  let k := keyOf c (bitsOf n 53 48)
  let i := bitsOf n 57 54
  let a := bitsOf n 61 58
  if (clusterOf s c).slotctl == 1 then s
  else if 5 < a then modCluster s c fun x => { x with slotctl := 2 }
  else
    let op : Instr :=
      if a == 0 then .resumeSlot k i else if a == 1 then .freeSlot k i else if a == 2 then .huskSlot k i (bitsOf n 47 6 * 64)
      else if a == 3 then .haltCore k else if a == 4 then .releaseCore k else .resetAndUnsealCore k
    modCluster s c fun x => { x with slotctl := 1, slotctlOp := some op }

/-- A write of CLUS.MIGREQ (R290, R296): ignored while a request is pending. With no work strand to husk the request is done at once. -/
def writeMigreq (s : State) (c : Nat) (v : Word) : State :=
  let n := v.toNat
  if (clusterOf s c).migPend then s
  else
    let l := bitsOf n 53 48
    modCluster s c fun x =>
      { x with migPend := bitsOf n 63 63 == 1 && decide (0 < workStrands s (physKey s c l)), migCore := l, migArea := bitsOf n 47 6 * 64 }

/-- A write of CLUS.BARCFG (R207, R290): N from the next generation. An N outside 1 to 896 is ignored. -/
def writeBarcfg (s : State) (c : Nat) (v : Word) : State :=
  let n := bitsOf v.toNat 9 0
  if n == 0 || decide (896 < n) then s else modBarrier s c (bitsOf v.toNat 20 16) fun b => { b with nNext := some n }

/-- The waits in a generation of a barrier marked as cancelled. -/
def cancelWaits (p : Nat) (g : BitVec 32) (x : Slot) : Slot :=
  { x with barWait := x.barWait.map fun w => if w.bar == p && w.gen == g then { w with cancelled := true } else w }

/-- A write of CLUS.BARCANCEL (R209): the waiters of the generation trap, its records and the waits that a trap has ended are cancelled, and
the next generation begins. -/
def writeBarcancel (s : State) (c : Nat) (v : Word) : State :=
  let p := bitsOf v.toNat 4 0
  let b := barState s c p
  let id := (b.owner.map (·.2)).getD 0
  let ws := barWaiters s c p b.g
  let s1 := modBarrier s c p fun x => { x with a := 0, g := x.g + 1#32, n := x.nNext.getD x.n, nNext := none }
  let s2 := modCluster s1 c fun x =>
    { x with barRecords := x.barRecords.map fun r => if r.bar == p && r.gen == b.g then { r with cancelled := true } else r }
  let s3 := ws.foldl (fun t m =>
    takeTrapAt (modSlot t m.1 m.2 fun x => dropBar x.pc x) m.1 m.2 (slotOf t m.1 m.2).pc 0x16 (BitVec.ofNat 64 id)) s2
  { s3 with cores := tmap s3.cores fun k x => if clusterOfKey k == c then { x with slots := tmap x.slots fun _ y => cancelWaits p b.g y } else x }

/-- Whether COREMAP takes a physical core into an entry (R295). -/
def swapAllowed (s : State) (c p : Nat) : Bool := coreIdle s c (logicalIdx s c p)

/-- The GETS waits of a logical core taken from one quad's lists to another's, in arrival order (R149, R295). -/
def moveGets (s : State) (a : Agent) (old new : Nat) : State :=
  let mine := fun (g : GetsReq) => sameUnit s g.producer a
  let w := (quadOf s old).stepWaits.filter mine
  let r := (quadOf s old).stepRetry.filter fun e => mine e.2
  let s1 := modQuad s old fun x =>
    { x with stepWaits := x.stepWaits.filter fun g => !(mine g), stepRetry := x.stepRetry.filter fun e => !(mine e.2) }
  modQuad s1 new fun x => { x with stepWaits := x.stepWaits ++ w, stepRetry := x.stepRetry ++ r }

/-- A write of CLUS.COREMAP (R295): entry L takes p, and the entry that held p takes L's old core. The step state, transfers and
completions are kept by logical core, and so move with the map; the GETS waits at the old quads move with it. A handler map that has left
force on either core is gone before (R108), and one that is in force, as a transfer keeps it (R224), goes with its logical core (log entry 112). -/
def swapCores (s : State) (c l p : Nat) : State :=
  let l2 := logicalIdx s c p
  let old := physOf s c l
  if l == l2 then s
  else
    let s := dropMap (dropMap s (keyOf c old)) (keyOf c p)
    let ha := (coreOf s (keyOf c old)).hmap
    let hb := (coreOf s (keyOf c p)).hmap
    let s0 := modCluster s c fun x => { x with coremap := tput (tput x.coremap l p) l2 old }
    let s1 := if ha == hb then s0 else forceMap (forceMap s0 (keyOf c p) ha) (keyOf c old) hb
    let qa := quadOfKey (keyOf c old)
    let qb := quadOfKey (keyOf c p)
    if qa == qb then s1 else moveGets (moveGets s1 (coreAgent s c l) qa qb) (coreAgent s c l2) qb qa

/-- The oldest entry of a log removed by a write of 1 to VALID (R180, R181). -/
def removeLog (s : State) (c : Nat) (vbus : Bool) (v : Word) : State :=
  if bitsOf v.toNat 63 63 == 0 then s
  else modCluster s c fun x => if vbus then { x with vbusLog := x.vbusLog.drop 1 } else { x with arrLog := x.arrLog.drop 1 }

/-- A write of MEM.INJECT (R183, R357). -/
def writeInject (s : State) (c : Nat) (v : Word) : State :=
  let n := v.toNat
  if bitsOf n 38 24 != 0 then s
  else
    let set := fun (w : Word) (t : State) => modCluster t c fun x => { x with inject := w }
    let disarmed : Word := v &&& 0x7FFFFFFFFFFFFFFF#64
    if bitsOf n 63 63 == 0 then set v s
    else if bitsOf n 62 62 == 0 then flipBit (set disarmed s) (c * 0x8000000 + 8 * bitsOf n 23 0) (bitsOf n 44 39)
    else if bitsOf n 48 45 == 0 then set disarmed s
    else set v s

/-- A write of MEM.STOREHOLD (R184, R353). -/
def writeStorehold (s : State) (c : Nat) (v : Word) : State :=
  modCluster s c fun x => { x with storehold := v &&& 0x1FFFF#64 }

/-! ### Writing -/

/-- A write of a STRAND register (R233, R284, R287). -/
def writeStrandReg (s : State) (n : Nat) (v : Word) : State :=
  let k := s.cur.core
  let i := s.cur.slot
  if n == 0 then (if bitsOf v.toNat 2 0 ≤ 4 then modSlot s k i fun x => { x with rm := v.setWidth 3 } else s)
  else if n == 1 then raiseFlags (modSlot s k i fun x => { x with flags := v.setWidth 8 }) k i (v.setWidth 8)
  else if n == 2 then (if bitsOf v.toNat 0 0 == 1 then s else modSlot s k i fun x => { x with tvec := v })
  else if n == 3 then
    modSlot s k i fun x => { x with cause := v.setWidth 8, resume := bitsOf v.toNat 8 8 == 1, active := bitsOf v.toNat 9 9 == 1 }
  else if n == 4 then modSlot s k i fun x => { x with trapVal := v }
  else modSlot s k i fun x => { x with trapPc := v }

/-- The effect of a permitted SYSWR (R287 to R290); COREMAP's refusal is tested before. -/
def writeReg (s : State) (n : Nat) (v : Word) : State :=
  let k := s.cur.core
  let c := clusterOfKey k
  if n ≤ 5 then writeStrandReg s n v
  else if n == 0x201 then
    (if isCore k then writeTempTest s (quadOfKey k) v else s)
  else if n == 0x202 then writeOppoint s k v
  else if n == 0x300 then modCluster s c fun x => { x with flagUnion := x.flagUnion &&& ~~~(v.setWidth 8) }
  else if n == 0x301 then writeBarcfg s c v
  else if n == 0x302 then writeBarcancel s c v
  else if n == 0x303 then writeSlotctl s c v
  else if n == 0x304 then writeMigreq s c v
  else if n == 0x305 then modCluster s c fun x => { x with slackTgt := v.toNat % 256 }
  else if 0x340 ≤ n && n ≤ 0x37F then swapCores s c (n - 0x340) (bitsOf v.toNat 5 0)
  else if n == 0x400 then removeLog s c false v
  else if n == 0x401 then removeLog s c true v
  else if n == 0x402 then writeInject s c v
  else if n == 0x403 then writeStorehold s c v
  else s

/-! ### SYSRD and SYSWR -/

/-- SYSRD (R287). -/
def execSysrd (a : Name) (n : BitVec 16) (s : State) : Host.Outcome State Fault Refusal :=
  run (fun s =>
    let v := n.toNat
    if !(regKnown v) then .trap 0x02 (n.setWidth 64)
    else if !(mayRead s v) then .trap 0x09 (n.setWidth 64)
    else
      let energy := v == 0x203 && isCore s.cur.core
      let s1 := if energy then countEnergy s (quadOfKey s.cur.core) else s
      (writeName a (regValue s1 v : Int) s1).seq fun t => .ok () (if energy then latchEnergy t t.cur.core t.cur.slot else t)) s

/-- SYSWR (R287). -/
def execSyswr (a : Name) (n : BitVec 16) (s : State) : Host.Outcome State Fault Refusal :=
  run (fun s =>
    let v := n.toNat
    if !(regKnown v) then .trap 0x02 (n.setWidth 64)
    else if !(mayWrite s v) then .trap 0x09 (n.setWidth 64)
    else
      (readName a s).bind fun x s =>
        let w := wordOf x
        if decide (0x340 ≤ v) && decide (v ≤ 0x37F) && !(swapAllowed s (clusterOfKey s.cur.core) (bitsOf w.toNat 5 0)) then
          .trap 0x09 (n.setWidth 64)
        else .ok () (writeReg s v w)) s

/-! ### The same effects as steps -/

/-- MIGREQ. -/
def execMigreq (cluster : Nat) (v : Word) (s : State) : Host.Outcome State Fault Refusal := .next (writeMigreq s cluster v)

/-- COREMAP_SWAP: a refused one changes nothing. -/
def execCoremapSwap (cluster logical phys : Nat) (s : State) : Host.Outcome State Fault Refusal :=
  .next (if decide (logical < 64) && decide (phys < 64) && swapAllowed s cluster phys then swapCores s cluster logical phys else s)

/-- BARCFG. -/
def execBarcfg (cluster : Nat) (v : Word) (s : State) : Host.Outcome State Fault Refusal := .next (writeBarcfg s cluster v)

/-- BARCANCEL. -/
def execBarcancel (cluster : Nat) (v : Word) (s : State) : Host.Outcome State Fault Refusal := .next (writeBarcancel s cluster v)

/-- FLAGUNION_CLEAR. -/
def execFlagunionClear (cluster : Nat) (v : Word) (s : State) : Host.Outcome State Fault Refusal :=
  .next (modCluster s cluster fun x => { x with flagUnion := x.flagUnion &&& ~~~(v.setWidth 8) })

/-- LOG_ENTRY_REMOVE. -/
def execLogEntryRemove (cluster : Nat) (vbus : Bool) (v : Word) (s : State) : Host.Outcome State Fault Refusal :=
  .next (removeLog s cluster vbus v)

/-- INJECT. -/
def execInject (cluster : Nat) (v : Word) (s : State) : Host.Outcome State Fault Refusal := .next (writeInject s cluster v)

/-- STOREHOLD. -/
def execStorehold (cluster : Nat) (v : Word) (s : State) : Host.Outcome State Fault Refusal := .next (writeStorehold s cluster v)

/-- OPPOINT_REQUEST. -/
def execOppointRequest (core : Nat) (v : Word) (s : State) : Host.Outcome State Fault Refusal := .next (writeOppoint s core v)

/-- ENERGY_LO_READ: the side of a read of QUAD.ENERGYLO that latches the high half (R302). -/
def execEnergyLoRead (core slot : Nat) (s : State) : Host.Outcome State Fault Refusal :=
  .next (if isCore core then latchEnergy (countEnergy s (quadOfKey core)) core slot else s)

end Sys2Proof.Machine
end

