-- ==== Sys2Proof/Machine/System.lean ====
section
/-! DEFINITION. The system class: fetching a line (R97 to R100), traps and returns (R286), rounding mode and flags (R234), TLB
invalidation (R305), QUIESCE and debug halts (R304), the supervisor's actions (R291), the checker (R292), power and heat (R298 to R301)
and migration requests (R363). -/

namespace Sys2Proof.Machine

/-! ### Fetching a line -/

/-- What a fetch of a line comes to. -/
inductive Fetched where
  | line (b : LineBuf) (s : State)
  | fails (cause : Nat) (s : State)
  | asks (pa : Nat) (s : State)

/-- Whether a strand has asked a peer for bytes that have not come. -/
def filling (s : State) (k i : Nat) : Bool :=
  (s.fab.granary ++ s.fab.waiting).any fun g => !g.answered && (match g.pending with
    | .fill c j u _ _ _ => c == k && j == i && u == (slotOf s k i).uid
    | _ => false)

/-- A line that a peer is asked for under a serial number (R98, R334). -/
def sendLine (s : State) (c pa n : Nat) : State := sendPacket s (peerDev pa) 0 0x01 (payRead (peerOff pa) 64 .fetch) (.line c pa n)

/-- A request for a peer's line at a cluster's port: merged with one under way, sent, or waiting its turn (R97, R98). -/
def askLine (s : State) (c pa : Nat) : State :=
  if lineAsked s c pa then s
  else
    let s1 := { s with serial := s.serial + 1 }
    if portFree s c && (clusterOf s c).lineWaits.isEmpty then sendLine s1 c pa s.serial
    else modCluster s1 c fun x => { x with lineWaits := x.lineWaits ++ [(pa, s.serial)] }

/-- The requests that wait at a cluster's port sent in arrival order while it may ask for more (R97). -/
def sendLines (n : Nat) (s : State) (c : Nat) : State :=
  match n with
  | 0 => s
  | m + 1 =>
    match (clusterOf s c).lineWaits with
    | [] => s
    | e :: r => if portFree s c then sendLines m (sendLine (modCluster s c fun x => { x with lineWaits := r }) c e.1 e.2) c else s

/-- The line of a PC fetched for a strand of a launch (R97, R98, R100): from the core's buffers, which may hold it although its translation had left the
core's TLB, from the instruction cache, from memory, or from a peer, whom the cluster's port asks once for all. A PC that is no head of any
line is out of range whatever its line holds (R27). What a fetch that fails has read stays corrected and logged (R173). A line on a word of which an
atomic is parked is read behind it (R205). -/
def fetchFor (s : State) (k : Nat) (launch : Option Nat) (pc : Word) : Fetched :=
  let base := lineBase pc
  let c := clusterOfKey k
  if pc.toNat % 2 == 1 || pc.toNat % 64 == 0 then .fails 0x01 s
  else match translate s k launch base.toNat .fetch with
  | .inl e => .fails e (searched s k launch base.toNat)
  | .inr (pa, t) =>
    match ((coreOf t k).lines ++ (clusterOf t c).icache).find? fun b => b.pa == pa with
    | some b => .line b t
    | none =>
      if inPeer pa then
        if (clusterOf t c).lostLines.contains pa then .fails 0x0F t else .asks pa (askLine t c pa)
      else if wordBlocked t pa 64 then .asks pa t
      else
        let (bad, s1) := memoryRead t pa 64
        let b : LineBuf := { pa := pa, parcels := lineParcels s1.mem pa, poison := bad || linePoison s1 pa }
        .line b (if b.poison then s1 else modCluster s1 c fun x => { x with icache := icacheAdd x.icache b })

/-- The line of a PC fetched for a slot. -/
def fetchLine (s : State) (k i : Nat) (pc : Word) : Fetched := fetchFor s k (fetchLaunch s k i) pc

/-- A line that a core requests ahead of need for a strand of a launch (R96): placed in its buffers, or kept in mind until what holds it up is over;
whatever fault it meets is passed over (R100). -/
def fetchAhead (s : State) (k : Nat) (launch : Option Nat) (line : Word) : State :=
  let later := fun (t : State) => modCore t k fun c => { c with wanted := (launch, line) :: c.wanted.filter (· != (launch, line)) }
  let goes := fun (t u : State) => if (stalledOn s t).isSome then later (heldBack s t) else u
  match fetchFor s k launch line with
  | .line b t => goes t (if b.poison then t else putLine t k b)
  | .asks pa t => goes t (if inPeer pa then modCore t k fun c => { c with ahead := sput c.ahead pa } else later t)
  | .fails _ t => goes t t

/-- The lines that a core has in mind requested again. -/
def fetchWanted (s : State) (k : Nat) : State :=
  (coreOf s k).wanted.foldr (fun e t => fetchAhead t k e.1 e.2) (modCore s k fun c => { c with wanted := [] })

/-- The failed fetch of a PC's line forgotten: the next request for the line is served on its own (R98). -/
def forgetLine (s : State) (k i : Nat) (pc : Word) : State :=
  match lineAt s k i pc with
  | some pa => modCluster s (clusterOfKey k) fun x => { x with lostLines := sdel x.lostLines pa }
  | none => s

/-- A line that came with an uncorrectable error: the slot that asked for it traps, and with it every slot of the cluster that waits for it (R98,
R100). -/
def poisonedLine (s : State) (k i pa : Nat) : State :=
  let x := slotOf s k i
  trapWaiters (takeTrapAt s k i x.pc 0x0E x.from' false false) (clusterOfKey k) pa 0x0E

/-- LINE_FILL: the line that a slot waits for arrives in the buffers of the cores that want it, or its fetch traps (R98, R100); the requests that
wait at the port go first (R97), and those that the core has made ahead of need are taken up again (R96). A transfer under retry holds the line up
(R356). -/
def execLineFill (core slot : Nat) (s0 : State) : Host.Outcome State Fault Refusal :=
  let c := clusterOfKey core
  let s := fetchWanted (sendLines 8 s0 c) core
  let x := slotOf s core slot
  if !(wantsLine s core slot) || (coreOf s core).sealed then .next s
  else
    match fetchLine (forgetLine s core slot x.pc) core slot x.pc with
    | .asks _ t => .next (unlessHeld s t)
    | .fails e t => .next (if (stalledOn s t).isSome then heldBack s t else takeTrapAt t core slot x.pc e x.from')
    | .line b t =>
      .next (if (stalledOn s t).isSome then heldBack s t
        else if b.poison then poisonedLine t core slot b.pa else broadcast (putLine t core b) c b)

/-- What follows the instruction at a PC (R26, R286): by the H of its line, read through the buffers; past a line that is invalid or
cannot be fetched, head 1 of the next. -/
def nextAfter (s : State) (k i : Nat) (pc : Word) : Ans Word :=
  match lineFor s k i pc with
  | some b => .ok (nextPc pc b.heads) s
  | none =>
    match fetchLine s k i (lineBase pc + 2#64) with
    | .asks pa t => .waitIn (.ahead pa 64) t
    | .fails _ t => awaitBeats s t (.ok (nextPc pc 0) (forgetLine t k i pc))
    | .line b t => awaitBeats s t (.ok (nextPc pc (if b.poison then 0 else b.heads)) t)

/-! ### Traps and returns (R286) -/

/-- TRAP. -/
def execTrap (imm : BitVec 16) (s : State) : Host.Outcome State Fault Refusal := run (fun _ => .trap 0x13 (imm.setWidth 64)) s

/-- BKPT. -/
def execBkpt (s : State) : Host.Outcome State Fault Refusal := run (fun _ => .trap 0x14 0#64) s

/-- TRET. -/
def execTret (s : State) : Host.Outcome State Fault Refusal :=
  runEnd (fun s =>
    let x := curSlot s
    if !x.active then .trap 0x02 0#64
    else if x.resume then
      (nextAfter s s.cur.core s.cur.slot x.trapPc).bind fun n t => .ok () (modCur t fun y => returnFromTrap y s.cur.pc n)
    else .ok () (modCur s fun y => returnFromTrap y s.cur.pc 0#64)) s

/-- ILLEGAL_ENCODING (R25, R27, R36): cause 0x01 at a PC that no valid line's head has, cause 0x02 at an illegal head. -/
def execIllegalEncoding (s : State) : Host.Outcome State Fault Refusal :=
  run (fun s => if s.cur.h == 0 then .trap 0x01 (curSlot s).from' else .trap 0x02 0#64) s

/-- The entries that name fields pop, taken by the strand of the issue latch; nothing is taken where one must wait. -/
def popFields (ns : List Name) (s : State) : Ans Unit :=
  match ns with
  | [] => .ok () s
  | n :: r => if isQueue n then (popQueue (queueIdx n) s).bind fun _ t => popFields r t else popFields r s

/-- The instruction of the issue latch, as its line buffer holds it. -/
def latchedInstr (s : State) : Option Instr :=
  (lineFor s s.cur.core s.cur.slot s.cur.pc).map fun b => instrAt b s.cur.pc

/-- Whether the strand of the issue latch records vector instructions (R255). -/
def recordingHere (s : State) : Bool :=
  let q := (coreOf s s.cur.core).seq
  q.owner == some s.cur.slot && q.recording

/-- The queue fields that the latched instruction pops: VFROMQ takes as many of its 16 entries as its queue has ready. -/
def latchedPops (s : State) : List Name :=
  match (curSlot s).lateFit, latchedInstr s with
  | some _, _ | _, none => []
  | none, some (.vfromq _ q) => if recordingHere s then [] else List.replicate (min 16 (((curSlot s).kept.filter fun e => e.1 == queueIdx q).length + poppable (dqOf s s.cur.core (queueIdx q)))) q
  | none, some i => sourceNames i

/-- CHECKER_REPLAY (R292): the instruction has no effect but its pops, which are kept with what it read of $cyc and $step, and it is replayed
from them at the slot's next turn (R71, R82, R88); the third mismatch in a row seals the core. The spec states no TRAPVAL for that: a
free value. -/
def execCheckerReplay (s : State) : Host.Outcome State Fault Refusal :=
  let n := (curSlot s).mismatches + 1
  if n < 3 then
    let t := match popFields (latchedPops s) s with
      | .ok _ t => t
      | _ => s
    .next (modCur t fun x => { x with mismatches := n, kept := x.taken ++ x.kept, taken := [], sampled := some (sampleOf s) })
  else
    let s1 := { s with fresh := s.fresh + 1 }
    .next (takeTrapAt s1 s.cur.core s.cur.slot s.cur.pc 0x0E (Config.freeWord s.fresh) true false)

/-! ### Rounding mode and flags (R234) -/

/-- SETRM. -/
def execSetrm (mode : BitVec 3) (s : State) : Host.Outcome State Fault Refusal :=
  run (fun s => if 4 < mode.toNat then .trap 0x02 0#64 else .ok () (modCur s fun x => { x with rm := mode })) s

/-- Wait until every earlier instruction of the strand is done, its sequencer run and its incomplete VTOQ and VFROMQ included (R234). -/
def awaitEarlier (s : State) : Ans Unit :=
  if exitReady s s.cur.core s.cur.slot then .ok () s else .waitIn .exit s

/-- FLAGRD. -/
def execFlagrd (b : Name) (s : State) : Host.Outcome State Fault Refusal :=
  run (fun s => (awaitEarlier s).seq fun s => writeName b ((curSlot s).flags.toNat : Int) s) s

/-- FLAGCLR. -/
def execFlagclr (mask : BitVec 8) (s : State) : Host.Outcome State Fault Refusal :=
  run (fun s => (awaitEarlier s).seq fun s => .ok () (modCur s fun x => { x with flags := x.flags &&& ~~~mask })) s

/-! ### TLBINV (R305) -/

/-- Whether a kind reaches a cluster from the issuer's. -/
def kindReaches (kind own c : Nat) : Bool := kind == 3 || kind == 4 || c == own

/-- Whether a kind removes a TLB entry. -/
def kindRemoves (kind : Nat) (launch : Option Nat) (va : Nat) (e : TlbEntry) : Bool :=
  if kind == 2 then true else if kind == 1 || kind == 4 then e.launch == launch else e.covers launch va

/-- The frames of execute pages among TLB entries that a kind removes: base and size. -/
def removedFrames (s : State) (kind own : Nat) (launch : Option Nat) (va : Nat) : List (Nat × Nat) :=
  let tlbs := (s.clusters.filter fun c => kindReaches kind own c.1).flatMap (·.2.tlb)
    ++ (s.cores.filter fun c => kindReaches kind own (clusterOfKey c.1)).flatMap (·.2.tlb)
  let now := if kind == 0 || kind == 3 then
      (match walkTree s launch va with | some p => [(p.pa, 2 ^ p.log2)] | none => [])
    else []
  now ++ (tlbs.filter fun e => e.ex && kindRemoves kind launch va e).map fun e => (e.pa, 2 ^ e.log2)

/-- The entries of a kind removed from the TLBs it reaches, and the lines of the execute pages from the instruction caches and line buffers
(R99): a slot whose line goes fetches it again before it issues. A line of such a page that a peer still has to send will enter neither, and one that
waits at the port is not asked for. -/
def invalidate (s : State) (kind own : Nat) (launch : Option Nat) (va : Nat) : State :=
  let fs := (removedFrames s kind own launch va).map fun f => (localPa s f.1, f.2)
  let stays := fun (e : TlbEntry) => !(kindRemoves kind launch va e)
  let gone := fun (pa : Nat) => fs.any fun f => decide (f.1 ≤ pa) && decide (pa < f.1 + f.2)
  { s with
    clusters := tmap s.clusters fun c x =>
      if kindReaches kind own c then
        { x with tlb := x.tlb.filter stays, icache := x.icache.filter fun b => !(gone b.pa)
                 lineWaits := x.lineWaits.filter fun e => !(gone e.1)
                 staleLines := x.staleLines ++ ((linesOut s c).filter fun e => gone e.1 && !(x.staleLines.contains e.2)).map (·.2) }
      else x
    cores := tmap s.cores fun k x =>
      if kindReaches kind own (clusterOfKey k) then
        { x with tlb := x.tlb.filter stays, lines := x.lines.filter fun b => !(gone b.pa), ahead := x.ahead.filter fun pa => !(gone pa) }
      else x }

/-- Whether an access made before a serial number through a translation that a kind may have removed is still to be performed, the fetches of
lines among them. -/
def accessesLeft (s : State) (kind own bound : Nat) : Bool :=
  let counts := fun (e : WEntry) =>
    !e.outside && decide (e.serial < bound) && kindReaches kind own (clusterOfKey e.core) && (match e.op with | .fe _ _ _ => false | _ => true)
  (s.quads.any fun q => q.2.wq.any counts) || (s.parked.any fun p => counts p.entry) || (s.runs.any fun r => counts r.entry)
    || ((s.fab.granary ++ s.fab.waiting).any fun g => !g.answered && (match g.pending with
        | .store e | .atomic e => counts e
        | .load k _ _ n _ _ _ | .fill k _ _ n _ _ => decide (n < bound) && kindReaches kind own (clusterOfKey k)
        | .line c _ n => decide (n < bound) && kindReaches kind own c
        | _ => false))
    || (s.clusters.any fun c => kindReaches kind own c.1 && c.2.lineWaits.any fun e => decide (e.2 < bound))

/-- TLBINV. -/
def execTlbinv (b : Name) (kind : BitVec 3) (s : State) : Host.Outcome State Fault Refusal :=
  run (fun s0 =>
    let n := kind.toNat
    if 4 < n then .trap 0x02 0#64
    else if n == 2 && !(isSupervisor s0.cur.core) then .trap 0x09 2#64
    else
      (readName b s0).bind fun v s =>
        let own := clusterOfKey s0.cur.core
        let inv := fun (t : State) => invalidate t n own (curSlot s0).launch (wordOf v).toNat
        let bound := (curSlot s0).fenced.getD s0.serial
        if accessesLeft s n own bound then .waitIn (.tlbClean n) (modCur (inv s0) fun x => { x with fenced := some bound })
        else .ok () (inv s)) s

/-! ### QUIESCE and debug halts (R304) -/

/-- Whether a strand's copies, matrix commands and run have all ended. -/
def strandQuiet (s : State) (k i : Nat) : Bool :=
  let x := slotOf s k i
  !((logicalOf s (clusterOfKey k) (unitId s k)).xfers.any fun e => e.2.slot == i && e.2.uid == x.uid && !e.2.gone && e.2.result.isNone)
    && !(matrixBusy s k i) && !(runBusy s k i)

/-- Whether a core has no copy, matrix command or run outstanding. -/
def coreQuiet (s : State) (k : Nat) : Bool :=
  let c := coreOf s k
  !((logicalOf s (clusterOfKey k) (unitId s k)).xfers.any fun e => e.2.result.isNone) && c.mx.queue.isEmpty && c.mx.exec.isNone
    && c.seq.run.isNone

/-- What QUIESCE waits for. -/
def quiesced (s : State) (k i : Nat) : Bool :=
  if isSupervisor k then
    s.cores.all fun e => !(clusterOfKey e.1 == clusterOfKey k && isCore e.1 && e.2.halted) || coreQuiet s e.1
  else strandQuiet s k i

/-- QUIESCE. -/
def execQuiesce (s : State) : Host.Outcome State Fault Refusal :=
  run (fun s => if quiesced s s.cur.core s.cur.slot then .ok () s else .wait .quiet) s

/-- A strand of a core that is halted (R95, R101, R165, R209, R304): one that could issue is STOPPED, one in ALIGN leaves its gather and goes on
behind it, and one that a full/empty list or a barrier holds leaves that, and stays parked. -/
def haltStrand (s : State) (k i : Nat) : State :=
  match (slotOf s k i).status with
  | .ready => modSlot s k i (atRest s k)
  | .parked .align => finishWait (withdraw s k i) k i
  | .parked (.fullEmpty _) => withdraw s k i
  | .parked .barrier => leaveBarrier (modSlot s k i fun x => { x with barCounted := true }) k i
  | _ => s

/-- A strand goes on when its core's halt ends: where it stands, or at the instruction that waited. -/
def releaseStrand (s : State) (k i : Nat) : State :=
  match (slotOf s k i).status with
  | .stopped .halted | .parked (.fullEmpty _) => wake s k i
  | .parked .barrier => if (slotOf s k i).barCounted then wake s k i else s
  | _ => s

/-- HALT_CORE: SLOTCTL action 3. -/
def execHaltCore (core : Nat) (s : State) : Host.Outcome State Fault Refusal :=
  if (coreOf s core).sealed then .next (slotctlEnd s core false)
  else if (coreOf s core).halted then .next (slotctlEnd s core true)
  else
    let s1 := modCore s core fun c => { c with halted := true }
    .next (slotctlEnd ((List.range 16).foldl (fun t i => haltStrand t core i) s1) core true)

/-- RELEASE_CORE: SLOTCTL action 4. -/
def execReleaseCore (core : Nat) (s : State) : Host.Outcome State Fault Refusal :=
  if !(coreOf s core).halted then .next (slotctlEnd s core false)
  else
    let s1 := modCore s core fun c => { c with halted := false }
    .next (slotctlEnd ((List.range 16).foldl (fun t i => releaseStrand t core i) s1) core true)

/-! ### The other SLOTCTL actions (R291) -/

/-- RESUME_SLOT: action 0. No instruction of the strand transfers control to where it goes on: a trap of cause 0x01 there reports the PC that the
trapped instruction came from, a choice of the model (log entry 73). -/
def execResumeSlot (core slot : Nat) (s : State) : Host.Outcome State Fault Refusal :=
  let x := slotOf s core slot
  if x.status != .stopped .trapped || (coreOf s core).sealed then .next (slotctlEnd s core false)
  else
    let go := fun (n : Word) (t : State) =>
      slotctlEnd (modSlot t core slot fun y => atRest t core { returnFromTrap y x.trapPc n with status := .ready }) core true
    if x.resume then
      match nextAfter s core slot x.trapPc with
      | .ok n t => .next (go n t)
      | .waitIn _ t => .next t
      | _ => .next s
    else .next (go 0#64 s)

/-- Whether a launch's checkpoint area holds a record for a slot of a sealed core (R294). -/
def hasCheckpoint (s : State) (l : Nat) (x : Launch) (c lc slot : Nat) : Bool :=
  let va := x.ckpt.toNat + 64 * (1024 * c + 16 * lc + slot)
  match translate s (keyOf c 64) (some l) (va % 2 ^ 64) .load with
  | .inl _ => false
  | .inr (pa, _) => (memWord s.mem (pa + 16)).toNat % 2 ^ 32 == l

/-- Whether a launch's strands on a sealed core are restarted from a checkpoint (R294): it has an area, and the cluster a free core. -/
def restartable (s : State) (x : Launch) (k : Nat) : Bool :=
  let c := clusterOfKey k
  x.ckpt != 0#64 && (List.range 64).any fun l => physKey s c l != k && coreIdle s c l && !(coreOf s (physKey s c l)).sealed

/-- What a freed strand means for its launch (R294, R323, R324): on a sealed core it waits for a restart or the launch ends; a strand that a
trap had stopped ends its launch, with a grade that is 3 for no cause of 0x0E or 0x0F; another's end is like its exit. -/
def afterFree (s : State) (k i : Nat) (x : Slot) (t : State) : State :=
  match x.launch with
  | none => t
  | some l =>
    match tfind s.launches l with
    | none => t
    | some y =>
      let c := clusterOfKey k
      if (coreOf s k).sealed then
        if restartable s y k then
          if decide (i < 14) && hasCheckpoint s l y c (unitId s k) i then modLaunch t l fun z => { z with husks := z.husks + 1 } else t
        else
          let (a, v) := (coreOf s k).culprit.getD (selfAgent s k i, x.trapVal)
          endLaunch t l 2 (if (coreOf s k).checkerSealed then 2 else 0) 0x0E a v
      else if x.status == .stopped .trapped then
        endLaunch t l 2 (if x.cause == 0x0F#8 || x.cause == 0x0E#8 then 0 else 3) x.cause.toNat (selfAgent s k i) x.trapVal
      else t

/-- FREE_SLOT: action 1. On a sealed core that will be restarted the strand leaves the paced set without a word (R148). -/
def execFreeSlot (core slot : Nat) (s : State) : Host.Outcome State Fault Refusal :=
  let x := slotOf s core slot
  if x.status == .free then .next (slotctlEnd s core false)
  else
    let quietly := (coreOf s core).sealed && (match x.launch.bind (tfind s.launches) with
      | some y => restartable s y core
      | none => false)
    let s1 := if quietly then
        modLogical s (clusterOfKey core) (unitId s core) fun y =>
          let m := tdel y.members slot
          { y with members := m, paced := y.paced && !m.isEmpty }
      else unpaceStrand s core slot
    .next (slotctlEnd (afterFree s core slot x (endStrand s1 core slot)) core true)

/-- Whether action 2 refuses a slot. -/
def huskRefused (s : State) (core slot : Nat) : Bool :=
  (slotOf s core slot).status == .free || decide (14 ≤ slot) || runBusy s core slot || matrixBusy s core slot

/-- HUSK_SLOT: action 2. A pending error is raised instead; a strand whose values are still on their way is husked when they are in (R54). The
action is refused where word 7 of the record cannot be read: it is poisoned or lies in a peer (log entry 96). -/
def execHuskSlot (core slot addr : Nat) (s : State) : Host.Outcome State Fault Refusal :=
  let x := slotOf s core slot
  if huskRefused s core slot then .next (slotctlEnd s core false)
  else
    match x.pendErr with
    | some e =>
      .next (slotctlEnd (takeTrapAt (withdraw (modSlot s core slot fun y => { y with pendErr := none }) core slot) core slot x.pc e.cause e.addr
        false false) core true)
    | none =>
      if huskable s core slot then
        let a := localPa s addr
        let (bad, t) := memoryRead s (a + 56) 8
        if (stalledOn s t).isSome then .next (heldBack s t)
        else if bad || inPeer a || rangeFaulty t (a + 56) 8 then .next (slotctlEnd t core false)
        else
          let spill := memWord t.mem (a + 56)
          let (pc, wait) := huskAt x
          let (s1, words, bytes) := takeHusk t core slot pc wait spill
          .next (slotctlEnd (writeHusk s1 core slot x.uid a (localPa s spill.toNat) words bytes) core true)
      else .next s

/-- A slot of a core that is reset: a work strand keeps its place with its names zeroed, a handler slot is idle and empty, and a slot that held no
strand is FREE again. -/
def resetSlot (i : Nat) (x : Slot) : Slot :=
  if decide (14 ≤ i) || x.launch.isNone then {}
  else
    { x with event := false, names := tmap x.names fun _ e => { e with bits := 0#64, poison := false } }

/-- RESET_AND_UNSEAL_CORE: action 5. -/
def execResetAndUnsealCore (core : Nat) (s : State) : Host.Outcome State Fault Refusal :=
  let c := coreOf s core
  if !c.sealed || c.checkerSealed then .next (slotctlEnd s core false)
  else
    .next (slotctlEnd (setCore s core
      { c with sealed := false, culprit := none, slots := tmap c.slots resetSlot, queues := [], inbox := [], hmap := none, mx := {} }) core true)

/-! ### Power (R298 to R300) -/

/-- A core's fetch duty set. -/
def setDuty (d : Nat) (s : State) (k : Nat) : State :=
  if (coreOf s k).duty == d then s else modCore s k fun c => { c with duty := d }

/-- A quad's budget cap set. -/
def setCap (s : State) (q f : Nat) : State :=
  regrant (if (quadOf s q).budgetCap == f then s else modQuad s q fun x => { x with budgetCap := f }) q

/-- One quad's grant applied (R298), of a budget and a total demand in mW. -/
def applyGrant (budget total : Nat) (demand : List Nat) (s : State) (q : Nat) : State :=
  if total ≤ budget || demand.getD q 0 == 0 then
    let f := highestReq s q
    let s1 := (quadCores q).foldl (setDuty 16) s
    if (quadOf s1 q).budgetCap == f then s1 else setCap s1 q f
  else
    let four := (quadCores q).all fun k => (coreOf s k).duty == 4
    let s1 := (quadCores q).foldl (setDuty (max 4 (16 * budget / total))) s
    if four then setCap s1 q (max 600 ((quadOf s q).budgetCap - 100)) else s1

/-- BUDGET_PERIOD: 1,800 W less the uncore draw divided among the quads in proportion to demand, none getting more than its demand (R298);
the quads' reports of MIGPT counts begin anew (R363). Draw and demands, in mW, are inputs. -/
def execBudgetPeriod (uncore : Nat) (demand : List Nat) (s : State) : Host.Outcome State Fault Refusal :=
  let s1 := (List.range 1024).foldl (applyGrant (1800000 - uncore) demand.sum demand) s
  .next { s1 with cores := tmap s1.cores fun _ c => { c with migptsLast := c.migpts, migpts := 0 } }

/-- VOLTAGE_TRIM: 5 mV towards the target slack, within the table's bounds (R300). The measured slack is an input, in the units of
CLUS.SLACKTGT, and within one step of the target means within one of these units (log entry 41). -/
def execVoltageTrim (quad slack : Nat) (s : State) : Host.Outcome State Fault Refusal :=
  let tgt := (clusterOf s (quad / 16)).slackTgt
  .next (modQuad s quad fun q =>
    let mv := if slack + 1 < tgt then q.mv + 5 else if tgt + 1 < slack then q.mv - 5 else q.mv
    { q with mv := max (Config.voltMin q.freq) (min mv (Config.voltMax q.freq)) })

/-! ### Heat and migration requests (R301, R363) -/

/-- The logical core of a quad whose strands issued the most MIGPT in the last period; the lower index on a tie. -/
def hottest (s : State) (q : Nat) : Option Nat :=
  let ls := (quadCores q).map fun k => (logicalIdx s (q / 16) (unitOfKey k), (coreOf s k).migptsLast)
  let best := ls.foldl (fun (b : Option (Nat × Nat)) e =>
    if e.2 == 0 then b
    else match b with
      | none => some e
      | some x => if decide (x.2 < e.2) || (x.2 == e.2 && decide (e.1 < x.1)) then some e else b) none
  best.map (·.1)

/-- The target core in a quad: its highest-numbered core whose logical core is idle. -/
def targetIn (s : State) (q : Nat) : Option Nat :=
  (quadCores q).reverse.find? fun k => coreIdle s (q / 16) (logicalIdx s (q / 16) (unitOfKey k))

/-- The migration that firmware's policy chooses for a hot quad: logical core and target core (R363). -/
def migrationChoice (s : State) (q : Nat) : Option (Nat × Nat) :=
  let thr : Int := 16 * s.dev.migThreshold
  let qs := (List.range 15).map fun j => q / 16 * 16 + (q % 16 + 1 + j) % 16
  match hottest s q, qs.findSome? fun p => if quadTemp (quadOf s p) ≤ thr - 160 then targetIn s p else none with
  | some l, some k => some (l, unitOfKey k)
  | _, _ => none

/-- MIGRATION_REQUEST: the management core's message to the cluster supervisor (R363). -/
def execMigrationRequest (cluster logical target : Nat) (s : State) : Host.Outcome State Fault Refusal :=
  let h := quadBase (quadOfKey (keyOf cluster target)) + 0x40000
  .next (tellSupervisor s cluster (supervisorOf s cluster)
    [s.dev.fwRequest, BitVec.ofNat 64 (logical % 64 + target % 64 * 256), BitVec.ofNat 64 h, 0#64] none)

/-- The thermal cap after a sample (R301). -/
def thermalStep (t : Int) (cap : Nat) : Nat :=
  if 1680 ≤ t then max 600 (cap - 100) else if t < 1600 then min 2250 (cap + 100) else cap

/-- THERMAL_SAMPLE: a quad's temperature is compared with the three thresholds (R301). The sensor reading, in 1/16 °C, is an input. -/
def execThermalSample (quad : Nat) (sensor : Int) (s : State) : Host.Outcome State Fault Refusal :=
  let s1 := modQuad s quad fun q => { q with temp := sensor, tempTest := q.tempNext.getD q.tempTest, tempNext := none }
  let t := quadTemp (quadOf s1 quad)
  let thr : Int := 16 * s.dev.migThreshold
  if 1840 ≤ t then .next (fatalFault s1)
  else
    let armed := (quadOf s1 quad).migArmed
    let s2 := regrant (modQuad s1 quad fun q =>
      { q with thermalCap := thermalStep t q.thermalCap, migArmed := if thr ≤ t then false else armed || decide (t ≤ thr - 80) }) quad
    if armed && decide (thr ≤ t) then
      match migrationChoice s2 quad with
      | some (l, p) => .next (post s2 (.migrationRequest (quad / 16) l p))
      | none => .next s2
    else .next s2

end Sys2Proof.Machine
end

