-- ==== Sys2Proof/Machine/Placement.lean ====
section
/-! DEFINITION. The front end at work: packets consumed and acting (R312, R313 to R317), placement (R104 to R108, R207, R303, R322), the
slot arbiter (R105), and completion (R224, R323). -/

namespace Sys2Proof.Machine

/-! ### Entering a launch (R322) -/

/-- A launch id from a candidate on that no launch has, of at most n (R322): 1 to 0xFFFFFFFE. -/
def freeLaunchId (t : Tab Launch) (n x : Nat) : Nat :=
  match n with
  | 0 => x
  | m + 1 => if (tfind t x).isSome then freeLaunchId t m (x % 0xFFFFFFFE + 1) else x

/-- Whether a queue may enter another launch: at most 16 are entered and not yet completed. -/
def mayEnter (s : State) (q : Nat) : Bool := decide ((launchesOf s q).length < 16)

/-- The first validated launch of a queue entered, with what its LAUNCH-EXT gives it (R315). -/
def enterLaunch (s : State) (q : Nat) (ext : List Byte) : State :=
  match (queueOf s q).built with
  | [] => s
  | x :: r =>
    let id := freeLaunchId s.launches 2048 s.nextLaunch
    let bars := (List.range (pktByte ext 16)).map fun j => pktField ext (32 + 2 * j) 2 % 1024
    let l := { x with ext := ext, ckpt := BitVec.ofNat 64 (pktField ext 8 8), bars := bars }
    { modQueue s q (fun y => { y with built := r }) with launches := tput s.launches id l, nextLaunch := id % 0xFFFFFFFE + 1 }

/-! ### SIGNAL and WAIT (R316) -/

/-- Whether a write of a queue's launches is still to be performed anywhere (R191, R316). -/
def queueWrites (s : State) (q : Nat) : Bool :=
  (s.quads.any fun e => (e.2.wq.any fun w => w.queues.contains q) || e.2.feWaits.any fun w => w.queues.contains q && w.op != .ldfe && w.op != .ldff)
    || (s.parked.any fun p => p.entry.queues.contains q) || (s.runs.any fun r => r.entry.queues.contains q)
    || ((s.fab.granary ++ s.fab.waiting).any fun g => !g.answered && (match g.pending.write with | some w => w.queues.contains q | none => false))

/-- Whether a SIGNAL may act: every launch before it has posted its record, and their writes are performed. -/
def signalReady (s : State) (q : Nat) : Bool := (launchesOf s q).isEmpty && (queueOf s q).records.isEmpty && !(queueWrites s q)

/-- Whether an access to a word of this device or the host meets an error (R173, R176). -/
def wordFaulty (s : State) (a : Nat) : Bool := s.poison.contains a || sectorFails s a

/-- The head packet of a queue is done. -/
def packetDone (s : State) (q : Nat) : State :=
  modQueue s q fun x =>
    let r := x.held.drop 1
    { x with held := r, passed := !r.isEmpty, asked := none, answer := none }

/-- A SIGNAL or WAIT ended by a fault: its record, and no more consumption until a queue reset (R316). -/
def packetFault (s : State) (q : Nat) (m : BitVec 32 × List Byte) (cause : Nat) : State :=
  let s1 := modQueue (packetDone s q) q fun x => { x with stuck := true }
  postRecord s1 q (recordBytes (pktTag m.2) m.1 2 1 cause noAgent (BitVec.ofNat 64 (pktField m.2 8 8)))

/-- The record that a SIGNAL asks for. -/
def signalRecord (s : State) (q : Nat) (m : BitVec 32 × List Byte) : State :=
  if pktByte m.2 1 % 2 == 1 then postRecord s q (recordBytes (pktTag m.2) m.1 0 0 0 noAgent 0#64) else s

/-- An access of a SIGNAL or WAIT to a peer (R316, R334): asked for once; then what its RESP brought, or the fault. -/
def peerPacket (s : State) (q : Nat) (m : BitVec 32 × List Byte) (kind : Nat) (payload : List Byte) (done : Word → State → State) : State :=
  let a := pktField m.2 8 8
  let d := peerDev a
  match (queueOf s q).answer with
  | some (some w) => done w s
  | some none => packetFault s q m (if unreachable s d || decide (s.dev.size ≤ d) then 0x0F else 0x0E)
  | none =>
    if (queueOf s q).asked.isSome then s
    else if decide (s.dev.size ≤ d) then packetFault s q m 0x0F
    else sendPacket (modQueue { s with serial := s.serial + 1 } q fun x => { x with asked := some s.serial }) d 0 kind payload (.front q s.serial)

/-- SIGNAL acts; an atomic parked on its word goes first (R205). -/
def actSignal (s : State) (q : Nat) (m : BitVec 32 × List Byte) : State :=
  let a := localPa s (pktField m.2 8 8)
  let v := pktField m.2 16 8
  if !(signalReady s q) then s
  else if inPeer a then
    peerPacket s q m 0x02 (payWrite (peerOff a) (toBytes 8 v)) fun _ t => signalRecord (packetDone t q) q m
  else
    let s1 := scrubWord s a
    if wordBlocked s a 8 then s
    else if wordFaulty s1 a then packetFault s1 q m 0x0E
    else signalRecord (packetDone (replayParked (performStore s1 (storeBytes a 8 v) false)) q) q m

/-- WAIT acts, behind an atomic parked on its word (R205): the word is read with acquire at device scope, once its channel has brought it (R356);
the packet is done when the word is at least its value, else the word is read again later. -/
def actWait (s : State) (q : Nat) (m : BitVec 32 × List Byte) : State :=
  let a := localPa s (pktField m.2 8 8)
  let v := pktField m.2 16 8
  if inPeer a then
    peerPacket s q m 0x01 (payRead (peerOff a) 8 .acquire 4) fun w t =>
      if v ≤ w.toNat then packetDone t q else modQueue t q fun x => { x with asked := none, answer := none }
  else if wordBlocked s a 8 then s
  else
    let (bad, t) := memoryRead s a 8
    if (stalledOn s t).isSome then heldBack s t
    else if bad || wordFaulty t a then packetFault t q m 0x0E
    else if v ≤ (memWord t.mem a).toNat then packetDone t q
    else t

/-! ### Consuming and acting (R312, R317) -/

/-- The bytes of the packet at HEAD. -/
def headPacket (s : State) (q : Nat) : List Byte :=
  let x := queueOf s q
  baseRead s x.qbase (128 * (x.head.toNat % 2 ^ x.qsize)) 128

/-- Whether the front end may consume the next ticket of a queue (R309, R312, R316, R323, R326); not while a SIGNAL waits (log entry 110). -/
def mayConsume (s : State) (q : Nat) : Bool :=
  let x := queueOf s q
  decide (q < 64) && x.enable && decide (x.state < 2) && !x.passed && x.checking.isNone && !x.stuck && x.records.isEmpty && !(ringFull x) && !s.dev.fatal
    && x.commitmap.contains (x.head.toNat % 2 ^ x.qsize)

/-- A ticket consumed: the packet copied, its COMMITMAP bit cleared, HEAD advanced (R312). -/
def consume (s : State) (q : Nat) : State :=
  let x := queueOf s q
  let p := headPacket s q
  let s1 := modQueue (baseReads s x.qbase (128 * (x.head.toNat % 2 ^ x.qsize)) 128) q fun y => { y with commitmap := sdel y.commitmap (x.head.toNat % 2 ^ x.qsize), head := y.head + 1#32 }
  takePacket s1 q (x.head, p)

/-- Whether the members of a queue's validated sheaf may act. -/
def mayAct (s : State) (q : Nat) : Bool :=
  let x := queueOf s q
  x.passed && decide (x.state < 2) && !x.stuck && !s.dev.fatal

/-- The head member of a validated sheaf acts (R315 to R317). -/
def actPacket (s : State) (q : Nat) (m : BitVec 32 × List Byte) : State :=
  match pktKind m.2 with
  | 2 => if wantsExt m.2 then packetDone s q else if mayEnter s q then packetDone (enterLaunch s q []) q else s
  | 5 => actSignal s q m
  | 6 => actWait s q m
  | 7 => if mayEnter s q then packetDone (enterLaunch s q m.2) q else s
  | _ => packetDone s q

/-- A packet of some kinds dealt with: the head member acts, its validation goes on, or the packet at HEAD is consumed. -/
def packetStep (want : Nat → Bool) (q : Nat) (s : State) : Host.Outcome State Fault Refusal :=
  if (queueOf s q).checking.isSome then
    .next (if want (pktKind (((queueOf s q).held.head?.map (·.2)).getD [])) then goOnChecking s q else s)
  else if mayAct s q then
    match (queueOf s q).held with
    | m :: _ => if want (pktKind m.2) then .next (actPacket s q m) else .next s
    | [] => .next s
  else if mayConsume s q && want (pktKind (headPacket s q)) then .next (consume s q)
  else .next s

/-- NOP_PACKET; a packet of no known KIND is consumed, and refused, by the same step. -/
def execNopPacket (queue : Nat) (s : State) : Host.Outcome State Fault Refusal :=
  packetStep (fun k => k == 1 || k == 0 || decide (7 < k)) queue s
/-- LAUNCH. -/
def execLaunch (queue : Nat) (s : State) : Host.Outcome State Fault Refusal := packetStep (· == 2) queue s
/-- LAUNCH_EXT: with it the launch before it is entered (R315). -/
def execLaunchExt (queue : Nat) (s : State) : Host.Outcome State Fault Refusal := packetStep (· == 7) queue s
/-- SHEAF_BEGIN. -/
def execSheafBegin (queue : Nat) (s : State) : Host.Outcome State Fault Refusal := packetStep (· == 3) queue s
/-- SHEAF_COMMIT. -/
def execSheafCommit (queue : Nat) (s : State) : Host.Outcome State Fault Refusal := packetStep (· == 4) queue s
/-- SIGNAL. -/
def execSignal (queue : Nat) (s : State) : Host.Outcome State Fault Refusal := packetStep (· == 5) queue s
/-- WAIT_PACKET. -/
def execWaitPacket (queue : Nat) (s : State) : Host.Outcome State Fault Refusal := packetStep (· == 6) queue s
/-- WAIT_POLL: the word of the WAIT in force is read again (R316). -/
def execWaitPoll (queue : Nat) (s : State) : Host.Outcome State Fault Refusal :=
  if mayAct s queue then
    match (queueOf s queue).held with
    | m :: _ => if pktKind m.2 == 6 then .next (actWait s queue m) else .next s
    | [] => .next s
  else .next s

/-! ### Placement (R107, R108, R207, R303, R322) -/

/-- Whether the quad of a core can take a launch of a world (R303). -/
def worldReady (s : State) (k : Nat) (sec : Bool) : Bool :=
  let q := quadOfKey k
  (quadOf s q).secure == sec || (quadCores q).all fun j => !(startsPending s j) && (coreOf s j).slots.all fun e => !(live e.2)

/-- The quad stores cleared for a launch of the other world (R303). -/
def clearQuad (s : State) (q : Nat) : State :=
  let a := quadBase q
  let outside := fun (x : Nat) => decide (x < a) || decide (a + 0x80000 ≤ x)
  { s with mem := s.mem.filter fun e => outside e.1, full := s.full.filter outside, poison := s.poison.filter outside,
           flips := s.flips.filter fun f => outside f.1 }

/-- Whether a handler map can be in force on a core for a launch (R108): it has none, the same one is in force, or none is and both
handler slots are idle. -/
def mapReady (s : State) (k : Nat) (h : Option (List Parcel)) : Bool :=
  match h with
  | none => true
  | some ps =>
    match mapInForce s k with
    | some qs => ps == qs
    | none => !(live (slotOf s k 14)) && !(live (slotOf s k 15))

/-- A launch's handler map brought into force: both handler domains, which are idle, get its names, all zero (R47, R108). -/
def loadMap (s : State) (k : Nat) (h : Option (List Parcel)) : State :=
  match h with
  | none => s
  | some _ => if mapInForce s k == h then s else forceMap s k h

/-- The free barriers of a cluster, lowest first (R207). -/
def freeBarriers (s : State) (c : Nat) : List Nat := (List.range 32).filter fun p => (barState s c p).owner.isNone

/-- A launch's barriers taken in a cluster, all at once or none (R207). -/
def takeBarriers (s : State) (id : Nat) (x : Launch) (c : Nat) : Option State :=
  if x.bars.isEmpty || x.barClusters.contains c then some s
  else
    let free := freeBarriers s c
    if free.length < x.bars.length then none
    else
      let s1 := (free.zip x.bars.zipIdx).foldl (fun t e =>
        modBarrier t c e.1 fun _ => { n := e.2.1, a := 0, g := 0#32, owner := some (id, e.2.2) }) s
      some (modLaunch s1 id fun y => { y with barClusters := sput y.barClusters c })

/-- Whether a launch may be placed at all: it is not being ended, and its queue is not saved or pre-empting. -/
def placeable (s : State) (x : Launch) : Bool := x.ending.isNone && !x.saved && decide ((queueOf s x.queue).state < 2) && !s.dev.fatal

/-- What the placement of a launch on a core without live work strands clears: queues, matrix state, handler staging (R252, R262, R263). -/
def freshCore (s : State) (k : Nat) : State :=
  if 0 < workStrands s k then s else
  let clear := fun (x : Slot) => { x with stage := ({} : Slot).stage }
  modSlot (modSlot (modCore s k fun c => { c with queues := [], mx := {} }) k 14 clear) k 15 clear

/-- Whether a placement finds no matrix command of the core that is still to complete, or resets nothing there (R112, R262, log entry 99). -/
def matrixReady (s : State) (k : Nat) : Bool :=
  decide (0 < workStrands s k) || ((coreOf s k).mx.queue.isEmpty && (coreOf s k).mx.exec.isNone)

/-- Whether the core's world, its handler map and its matrix unit let a launch be placed there. -/
def coreReady (s : State) (k : Nat) (x : Launch) : Bool := worldReady s k x.sec && mapReady s k x.hmap && matrixReady s k

/-- LAUNCH_PLACEMENT: a waiting launch is placed on a core when its barriers, its handler map and its world allow (R322); the barriers are
taken at the first attempt in the cluster, whatever else it waits for (R207). Matrix commands of exited strands complete first (R112). -/
def execLaunchPlacement (launch core : Nat) (s : State) : Host.Outcome State Fault Refusal :=
  let s := dropMap s core
  match tfind s.launches launch with
  | none => .next s
  | some x =>
    let c := clusterOfKey core
    let l := unitId s core
    if !(isCore core) || !(placeable s x) || !((launchCores x).contains (c, l)) || placedOn x c l || (coreOf s core).sealed then .next s
    else
      match takeBarriers s launch x c with
      | none => .next s
      | some t =>
        if coreReady t core x then
          let q := quadOfKey core
          let t1 := if (quadOf t q).secure == x.sec then t else modQuad (clearQuad t q) q fun y => { y with secure := x.sec }
          .next (modLaunch (loadMap (freshCore t1 core) core x.hmap) launch fun y => { y with started := tput y.started (128 * c + l) 0 })
        else .next t

/-! ### Seeding (R106, R125, R262) -/

/-- Seed values written into the first names (R106). -/
def seedNames (seeds : List Word) (k : Nat) (s : State) (core slot : Nat) : State :=
  match seeds with
  | [] => s
  | v :: r =>
    match nameOf s core slot (BitVec.ofNat 8 k) with
    | none => s
    | some e =>
      match fitTo (readAs 64 e.signed v.toNat) e.width e.signed e.mode with
      | some (u, sat) => seedNames r (k + 1) (putName s core slot (BitVec.ofNat 8 k) e u sat) core slot
      | none => seedNames r (k + 1) s core slot

/-- The step state of a core without live work strands cleared (R125): what the logical core keeps besides stays. -/
def freshSteps (s : State) (c l : Nat) : State :=
  modLogical s c l fun x => { xfers := x.xfers, nextXid := x.nextXid, comps := x.comps }

/-- A grant seeded (R106), or none when its names find no place. -/
def seed (s : State) (id : Nat) (x : Launch) (k i : Nat) : Option State :=
  let c := clusterOfKey k
  let l := unitId s k
  let idle := workStrands s k == 0
  let s0 := if idle then freshSteps s c l else s
  match parseImage false false x.map with
  | .inl _ => none
  | .inr img =>
    match placeMap s0 k i img with
    | .inl _ => none
    | .inr t =>
      let t1 := seedNames x.seeds 0 { t with serial := t.serial + 1 } k i
      let y := slotOf t1 k i
      let w := fun (n : Nat) => x.wins.getD n 0#64
      let z : Slot :=
        { status := .ready, uid := t.serial, pc := x.entry, names := y.names, vecs := y.vecs, w0 := w 0, w1 := w 1, w2 := w 2, w3 := w 3,
          tvec := x.tvec, owner := some x.queue, launch := some id, mapIdx := x.mapIdx, lastIssue := y.lastIssue, lastYield := y.lastYield }
      some (modLaunch (setSlot t1 k i (atRest t1 k z)) id fun v => { v with started := tput v.started (128 * c + l) (startedOn v c l + 1) })

/-! ### The slot arbiter (R105) -/

/-- The launches of a queue pending on a core, oldest first (R104). -/
def pendingOn (s : State) (k q : Nat) : List (Nat × Launch) :=
  (launchesOf s q).filter fun e => placeable s e.2 && unstartedOn e.2 (clusterOfKey k) (unitId s k) && decide (strandsOn s k (some e.1) < e.2.quota)

/-- The oldest of them by ticket order of entry. -/
def oldestOn (s : State) (k q : Nat) : Option (Nat × Launch) :=
  (pendingOn s k q).foldl (fun (b : Option (Nat × Launch)) e =>
    match b with
    | none => some e
    | some x => if serialDiff e.2.ticket x.2.ticket < 0 then some e else b) none

/-- Credits after a boundary's addition. -/
def addCredits (s : State) (k : Nat) : State :=
  let c := coreOf s k
  let t := (List.range 64).foldl (fun (t : Tab Nat) q =>
    if (pendingOn s k q).isEmpty then tdel t q
    else
      let n := min (tget t 0 q + (queueOf s q).weight) 512
      if n == 0 then tdel t q else tput t q n) c.credits
  setCore s k { c with credits := t }

/-- The pending queue with the largest credit of at least 256, the lower number on a tie; queues whose seeding has failed are left out. -/
def richest (s : State) (k : Nat) (out : List Nat) : Option Nat :=
  let cr := fun (q : Nat) => tget (coreOf s k).credits 0 q
  (List.range 64).foldl (fun (b : Option Nat) q =>
    if out.contains q || decide (cr q < 256) || (match oldestOn s k q with
        | some (_, x) => !(placedOn x (clusterOfKey k) (unitId s k))
        | none => true) then b
    else match b with
      | none => some q
      | some r => if cr r < cr q then some q else b) none

/-- A grant made: its credit is spent. -/
def spendCredit (s : State) (k q : Nat) : State := modCore s k fun c => { c with credits := tput c.credits q (tget c.credits 0 q - 256) }

/-- A seed that found no place: it waits for names to be released on the core (R49). -/
def leaveUnseated (s : State) (k q : Nat) : State := modCore s k fun c => { c with unseated := c.unseated ++ [q] }

/-- Grants while a work slot is free and a queue has the credit; a queue whose seed finds no place is left for later. -/
def grants (n : Nat) (out : List Nat) (s : State) (k : Nat) : State :=
  match n with
  | 0 => s
  | m + 1 =>
    match freeWork s k, richest s k out with
    | some i, some q =>
      match oldestOn s k q with
      | none => s
      | some (id, x) =>
        match seed s id x k i with
        | none => grants m (q :: out) (leaveUnseated s k q) k
        | some t => grants m out (spendCredit t k q) k
    | _, _ => s

/-- The seeds that found no place tried once more, in the order in which they were tried (R49, R106). -/
def retrySeeds (qs : List Nat) (s : State) (k : Nat) : State :=
  match qs with
  | [] => s
  | q :: r =>
    match oldestOn s k q with
    | none => retrySeeds r s k
    | some (id, x) =>
      match (if placedOn x (clusterOfKey k) (unitId s k) && decide (256 ≤ tget (coreOf s k).credits 0 q) then freeWork s k else none) with
      | none => retrySeeds r (leaveUnseated s k q) k
      | some i =>
        match seed s id x k i with
        | none => retrySeeds r (leaveUnseated s k q) k
        | some t => retrySeeds r (spendCredit t k q) k

/-- SLOT_ARBITER_BOUNDARY: credits are added and free slots granted (R105). When names have been released since a seed found no place, the arbiter
first tries that placement again, which adds no credit (R49). -/
def execSlotArbiterBoundary (core : Nat) (s : State) : Host.Outcome State Fault Refusal :=
  let c := coreOf s core
  if !(isCore core) || c.sealed then .next (modCore s core fun c => { c with bound := some (cycOf s core) })
  else if c.freed then
    let s1 := modCore s core fun c => { c with unseated := [], freed := false }
    .next (promptPause s1 (retrySeeds c.unseated s1 core) core)
  else
    let s1 := modCore s core fun c => { c with bound := some (cycOf s core), unseated := [] }
    .next (promptPause s1 (grants 128 [] (addCredits s1 core) core) core)

/-- Whether the arbiter of a core has to act in this cycle: a placement is to be tried again (R49), or there is a boundary that it has not taken and
that could change anything (R105), a queue having a launch pending there, or credit. -/
def boundaryDue (s : State) (k : Nat) : Bool :=
  let c := coreOf s k
  let t := cycOf s k
  !c.sealed && (c.freed || (t % 16 == 0 && c.bound != some t && (!c.credits.isEmpty || s.queues.any fun q => !(pendingOn s k q.1).isEmpty)))

/-- The cores on which the arbiter may have to act: those with credit, and those that a launch names. -/
def boundaryCores (s : State) : List Nat :=
  (s.launches.filter fun e => !(allStarted e.2)).foldl (fun l e => (launchCores e.2).foldl (fun u p => sput u (physKey s p.1 p.2)) l)
    ((s.cores.filter fun e => isCore e.1 && !e.2.credits.isEmpty).map (·.1))

/-! ### Completion (R224, R323) -/

/-- Whether a launch has nothing left: all its strands started and gone, none husked, nothing in flight. -/
def launchDone (s : State) (l : Nat) (x : Launch) : Bool :=
  !x.saved && (strandsOf s l).isEmpty && !(launchInFlight s l) && (x.ending.isSome || x.posted || (allStarted x && x.husks == 0))

/-- A queue whose last launch is gone is idle (R309). -/
def restQueue (s : State) (q : Nat) : State :=
  if (queueOf s q).state == 1 && (launchesOf s q).isEmpty then modQueue s q fun x => { x with state := 0 } else s

/-- Whether the migration routine is to end a launch of which a restart has failed (R364). -/
def restartFailed (s : State) (l : Nat) : Bool := s.clusters.any fun c => c.2.failures.any fun e => e.1 == l

/-- The migration routine's ending of a launch of which a restart has failed, with the first failure's cause and TRAPVAL (R364). -/
def endFailed (s : State) (l : Nat) : State :=
  match (s.clusters.flatMap fun c => c.2.failures).find? fun e => e.1 == l with
  | none => s
  | some (_, cause, val) =>
    markEnding { s with clusters := tmap s.clusters fun _ c => { c with failures := c.failures.filter fun e => e.1 != l } } l 2 1 cause noAgent val

/-- LAUNCH_COMPLETION: a launch that is being ended loses its strands; one that has nothing left posts its record and is gone. -/
def execLaunchCompletion (launch : Nat) (s : State) : Host.Outcome State Fault Refusal :=
  let s := endFailed s launch
  match tfind s.launches launch with
  | none => .next s
  | some x =>
    let s1 := if x.ending.isSome then returnBarriers (freeStrands s launch) launch else s
    if launchDone s1 launch x then
      let s2 := restQueue { returnBarriers s1 launch with launches := tdel s1.launches launch } x.queue
      if x.posted then .next s2
      else
        let (ev, gr, ca, ag, va) := x.ending.getD (0, 0, 0, noAgent, 0#64)
        .next (postRecord s2 x.queue (recordBytes x.tag x.ticket ev gr ca ag va))
    else .next s1

end Sys2Proof.Machine
end

