-- ==== Sys2Proof/Machine/Mailbox.lean ====
section
/-! DEFINITION. The management mailbox (R325): its commands, each as a step that takes its arguments from MARG0 to MARG3, and what they do
(R297, R326 to R330, R370). -/

namespace Sys2Proof.Machine

/-! ### The mailbox itself -/

/-- An argument register. -/
def marg (s : State) (n : Nat) : Nat :=
  let m := s.mbox
  (if n == 0 then m.arg0 else if n == 1 then m.arg1 else if n == 2 then m.arg2 else m.arg3).toNat

/-- A command has ended: done, or refused with a reason; MSI-X vector 64 is raised (R325). -/
def mboxEnd (s : State) (refused : Option Nat) : State :=
  { s with mbox := { s.mbox with state := if refused.isSome then 3 else 2, reason := refused.getD 0 }
           dev := { s.dev with msix := 64 :: s.dev.msix } }

/-- A command that names a queue, refused for a queue above 63 (R325). -/
def onQueue (q : Nat) (f : State → State) (s : State) : State := if 63 < q then mboxEnd s (some 0xFFFE) else f s

/-- Whether the mailbox is running a command of a code on a queue: its first step. -/
def mboxRuns (s : State) (code q : Nat) : Bool :=
  s.mbox.state == 1 && bitsOf s.mbox.cmd.toNat 7 0 == code && bitsOf s.mbox.cmd.toNat 15 8 == q

/-- QCTL.STATE (R309): as stored where a command has set it, else active while the queue holds launches. -/
def queueState (s : State) (q : Nat) : Nat :=
  let x := queueOf s q
  if 1 ≤ x.state then x.state
  else if (launchesOf s q).isEmpty && !(x.held.any fun m => pktKind m.2 == 2) then 0
  else 1

/-- The launches entered or live: those of saved queues are not, nor those that a queue reset has ended (R327, R329, R370). -/
def launchesLive (s : State) : Nat := (s.launches.filter fun e => !e.2.saved && !e.2.posted).length

/-- Whether a range of physical memory lies in this device or the host throughout. -/
def rangeHere (a n : Nat) : Bool :=
  let ok := fun (x : Nat) => !(isHole x) && !(inPeer x)
  decide (a + n ≤ 2 ^ 52) && ok a && ok (a + n - 1)
    && ((inSram a && inSram (a + n - 1)) || (inQuads a && inQuads (a + n - 1)) || (inGddr a && inGddr (a + n - 1)) || (inHost a && inHost (a + n - 1)))

/-- n bytes of physical memory for a command, as far as it has been read: none when some lie in a hole or meet an error. -/
def physRead (s : State) (a n : Nat) : Option (List Byte) :=
  if n == 0 then some []
  else if badRange s.mbox.bad a n then none
  else if inPeer a then heldBytes s.mbox.buf a n
  else if rangeHere a n && !(rangeFaulty s a n) then some (memBytes s.mem a n)
  else none

/-- A range of this device or the host read from its arrays (R173, R174); one that comes poisoned as a whole counts as unread. -/
def fetchArea (s : State) (a n : Nat) : State :=
  if rangeHere a n then
    let r := memoryRead s a n
    if r.1 then { r.2 with mbox := { r.2.mbox with bad := a / codeChunk * codeChunk :: r.2.mbox.bad } } else r.2
  else s

/-- A command that has a range read from its arrays goes on, or is taken up again while a transfer of it is under retry (R356). -/
def onArea (i : Instr) (a n : Nat) (f : State → State) (s : State) : State :=
  let t := fetchArea s a n
  if (stalledOn s t).isSome then post (heldBack s t) i else f t

/-- A command that reads a range of physical memory goes on: what lies in a peer is asked for first, chunk by chunk (R151, R334), each answer
putting the command's step on the agenda again. -/
def readArea (i : Instr) (a n : Nat) (f : State → State) (s : State) : State :=
  match (if inPeer a && decide (a + n ≤ 2 ^ 52) then lackingChunk s.mbox.buf s.mbox.bad a n else none) with
  | some c =>
    if s.dev.size ≤ peerDev c then mboxArrives s i c none
    else sendPacket s (peerDev c) 0 0x01 (payRead (peerOff c) codeChunk) (.mbox i c)
  | none => onArea i a n f s

/-! ### Queue settings -/

/-- SETWEIGHT. -/
def execSetweight (queue : Nat) (s : State) : Host.Outcome State Fault Refusal :=
  .next (onQueue queue (fun s => mboxEnd (modQueue s queue fun x => { x with weight := bitsOf (marg s 0) 7 0 }) none) s)

/-- SETSEC: refused when the queue is not idle. -/
def execSetsec (queue : Nat) (s : State) : Host.Outcome State Fault Refusal :=
  .next (onQueue queue (fun s =>
    if queueState s queue != 0 then mboxEnd s (some 1)
    else mboxEnd (modQueue s queue fun x => { x with secok := bitsOf (marg s 0) 0 0 == 1 }) none) s)

/-! ### Pre-emption (R297, R326) -/

/-- The work strands that a queue owns: core keys and slots. -/
def ownedStrands (s : State) (q : Nat) : List (Nat × Nat) :=
  (s.cores.filter fun e => isCore e.1).flatMap fun e =>
    (e.2.slots.filter fun x => decide (x.1 < 14) && live x.2 && x.2.owner == some q).map fun x => (e.1, x.1)

/-- The entry of a launch in a save area: its id and ticket, zeros, its packets. -/
def launchEntry (e : Nat × Launch) : List Byte :=
  toBytes 4 e.1 ++ toBytes 4 e.2.ticket.toNat ++ List.replicate 56 0#8 ++ (e.2.packet ++ List.replicate 128 0#8).take 128
    ++ (e.2.ext ++ List.replicate 128 0#8).take 128

/-- The header of a save area in layout 3. -/
def saveHeader (x : Queue) (nl nh : Nat) : List Byte :=
  toBytes 8 (3 + nl % 2 ^ 16 * 2 ^ 16 + nh % 2 ^ 32 * 2 ^ 32) ++ toBytes 8 x.head.toNat ++ toBytes 8 x.resv.toNat ++ List.replicate 40 0#8

/-- The husk records and spills of a save area, each record naming its spill. -/
def saveHusks (records spills : Nat) (l : List (List Byte × List Byte)) (s : State) : State :=
  l.zipIdx.foldl (fun t e =>
    let sp := spills + 11264 * e.2
    writePhys (writePhys t sp e.1.2) (records + 64 * e.2) (e.1.1.take 56 ++ toBytes 8 sp)) s

/-- The save area written in layout 3, the queue saved, and one EVENT 3 record posted per saved launch. -/
def saveQueue (s : State) (q : Nat) : State :=
  let x := queueOf s q
  let ls := launchesOf s q
  let nl := ls.length
  let nh := x.husked.length
  let records := x.save + 64 + 320 * nl
  let s1 := writePhys s x.save (saveHeader x nl nh ++ ls.flatMap launchEntry)
  let s2 := saveHusks records (records + 64 * nh) x.husked s1
  let s3 := ls.foldl (fun t e =>
    postRecord (modLaunch t e.1 fun y => { y with saved := true }) q (recordBytes e.2.tag e.2.ticket 3 0 0 noAgent 0#64)) s2
  modQueue s3 q fun y => { y with state := 3, layout := 3, husked := [], follows := [] }

/-- Whether an address lies in memory that the domain has (R151). -/
def areaThere (s : State) (a : Nat) : Bool := !(isHole a) && !(inPeer a && decide (s.dev.size ≤ peerDev a))

/-- A pre-emption begun: refused unless the queue is active, and where an argument is out of its range: the area 4 KiB aligned and in no
hole, the deadline 1 to 1,000,000 (log entry 49). -/
def startPreempt (s : State) (q : Nat) : State :=
  let a := localPa s (marg s 0)
  let d := marg s 1
  if queueState s q != 1 || a % 4096 != 0 || !(areaThere s a) || d == 0 || decide (1000000 < d) then mboxEnd s (some 1)
  else mboxEnd (modQueue s q fun x => { x with state := 2, save := a, deadline := s.uncore + 2250 * d }) none

/-- Whether a queue's strands are all husked, and what their records follow as releases has been performed (R193). -/
def saveReady (s : State) (q : Nat) : Bool :=
  (ownedStrands s q).isEmpty
    && !(s.quads.any fun p => p.2.feWaits.any fun w => w.op.writes && (queueOf s q).follows.contains w.serial)

/-- PREEMPT: the command, which stops the queue; then, once its strands are husked, the writing of the save area. -/
def execPreempt (queue : Nat) (s : State) : Host.Outcome State Fault Refusal :=
  .next (onQueue queue (fun s =>
    if mboxRuns s 3 queue then startPreempt s queue
    else if (queueOf s queue).state == 2 && saveReady s queue then saveQueue s queue
    else s) s)

/-- PREEMPT_DEADLINE: strands still unhusked as the deadline passes end the queue's launches with grade 1; nothing partly saved is kept, and
the queue waits for a reset (R297, R324). -/
def execPreemptDeadline (queue : Nat) (s : State) : Host.Outcome State Fault Refusal :=
  let x := queueOf s queue
  if x.state == 2 && decide (x.deadline ≤ s.uncore) && !(saveReady s queue) then
    let s1 := (launchesOf s queue).foldl (fun t e => endLaunch t e.1 2 1 0 noAgent 0#64) s
    .next (modQueue s1 queue fun y => { y with state := 0, husked := [], follows := [], stuck := true })
  else .next s

/-- The record addresses of a save area, from its header. -/
def savedRecords (a : Nat) (head : List Byte) : List Nat :=
  (List.range (pktField head 4 4)).map fun i => a + 64 + 320 * pktField head 2 2 + 64 * i

/-- A restore begun: refused unless the queue is saved and the area's layout restorable. -/
def startResume (s : State) (q : Nat) : State :=
  let a := localPa s (marg s 0)
  if (queueOf s q).state != 3 then mboxEnd s (some 2)
  else if a % 4096 != 0 then mboxEnd s (some 1)
  else
    readArea (.resumeq q) a 64 (fun s =>
      match physRead s a 64 with
      | none => mboxEnd s (some 1)
      | some b =>
        if s.dev.layouts.contains (pktField b 0 2) then
          let s1 := (launchesOf s q).foldl (fun t e => modLaunch t e.1 fun y => { y with saved := false }) s
          mboxEnd (modQueue s1 q fun x => { x with state := 1, layout := 0, restarts := savedRecords a b }) none
        else mboxEnd s (some 1)) s

/-- The first of the restarts of a queue done with. -/
def nextRestart (s : State) (q : Nat) : State :=
  modQueue s q fun x =>
    let r := x.restarts.drop 1
    if r.isEmpty && x.checking.isNone then { x with restarts := r, codeBuf := [], codeBad := [] } else { x with restarts := r }

/-- The 64 bytes of a saved record: of a peer's memory, those that the queue has read. -/
def savedRecord (s : State) (q a : Nat) : Option (List Byte) :=
  if inPeer a then heldBytes (queueOf s q).codeBuf a 64 else some (memBytes s.mem a 64)

/-- A restart that needs bytes of a peer's memory: they are asked for, unless they cannot be read. -/
def lacksBytes (s : State) (q a n : Nat) (lost : State) : State :=
  match lackingChunk (queueOf s q).codeBuf (queueOf s q).codeBad a n with
  | some c => askChunk s q c
  | none => lost

/-- The husk at a record address restarted by the supervisor of its cluster (R121, R326), with what the queue has read of a peer's memory at hand;
one that fails a check ends its launch with grade 1, and one that finds no free slot waits; one that meets a transfer under retry is taken up again
with what the beat left on its channel (R356). A record that cannot be read names no launch and is passed over. -/
def restartHusk (s : State) (q a : Nat) : State :=
  match savedRecord s q a with
  | none => lacksBytes s q a 64 (nextRestart s q)
  | some rec =>
    let l := pktField rec 16 4
    let k := keyOf (agentCluster (BitVec.ofNat 32 (pktField rec 12 4))) 64
    let old := (slotOf s k 0).peerBuf
    let buf := (queueOf s q).codeBuf
    let t0 := { s with cur := { core := k, slot := 0, pc := 0#64, h := 1 } }
    let t := if buf.isEmpty then t0 else modSlot t0 k 0 fun x => { x with peerBuf := buf }
    let back := fun (u : State) => if buf.isEmpty then { u with cur := s.cur } else modSlot { u with cur := s.cur } k 0 fun x => { x with peerBuf := old }
    let ended := fun (u : State) (c : Nat) (v : Word) => nextRestart (endLaunch u l 2 1 c noAgent v) q
    match (readWords a (BitVec.ofNat 64 a) 8 t).readThen fun ws u => huskFrom ws u with
    | .ok _ u => nextRestart (back u) q
    | .trap c v => ended s c v
    | .trapIn c v u => ended (back u) c v
    | .trapRead c v u => ended (keepReads s u) c v
    | .waitIn (.ahead b n) u => if inPeer b then lacksBytes (keepReads s u) q b n (ended (keepReads s u) 0x0F (BitVec.ofNat 64 b)) else keepReads s u
    | .waitIn _ u => keepReads s u
    | _ => s

/-- RESUMEQ: the command, which restores the queue; then a step for each husk of its area. -/
def execResumeq (queue : Nat) (s : State) : Host.Outcome State Fault Refusal :=
  .next (onQueue queue (fun s =>
    if mboxRuns s 4 queue then startResume s queue
    else match (queueOf s queue).restarts with
      | a :: _ => restartHusk s queue a
      | [] => s) s)

/-! ### Queue reset and draining (R327) -/

/-- A launch ended by a queue reset: its strands freed, its barriers returned, its record posted. What it has in flight still lands. -/
def resetLaunch (q : Nat) (s : State) (e : Nat × Launch) : State :=
  let s1 := returnBarriers (freeStrands s e.1) e.1
  let s2 := modLaunch s1 e.1 fun x => { x with posted := true, saved := false, ending := some (4, 1, 0, noAgent, 0#64) }
  postRecord s2 q (recordBytes e.2.tag e.2.ticket 4 1 0 noAgent 0#64)

/-- The end of a queue reset, once all its records are in the ring: the registers cleared, and the command done (R327). -/
def endReset (s : State) (q : Nat) : State :=
  let x := queueOf s q
  if x.state == 4 && x.records.isEmpty then
    mboxEnd (modQueue s q fun y =>
      { y with state := 0, head := 0#32, resv := 0#32, commitmap := [], enable := y.enable && !y.disable, disable := false }) none
  else s

/-- RESETQ. Launches that the front end holds and has not entered get their records like the entered ones. -/
def resetQueue (s : State) (q : Nat) : State :=
  let x := queueOf s q
  let s1 := (launchesOf s q).foldl (resetLaunch q) s
  let s2 := (x.held.filter fun m => pktKind m.2 == 2).foldl (fun t m =>
    postRecord t q (recordBytes (pktTag m.2) m.1 4 1 0 noAgent 0#64)) s1
  endReset (modQueue s2 q fun y =>
    { y with state := 4, held := [], sheaf := none, passed := false, stuck := false, asked := none, answer := none, save := 0, layout := 0,
             husked := [], follows := [], built := [], restarts := [], checking := none, codeBuf := [], codeBad := [], codeAsked := none }) q

/-- RESETQ. -/
def execResetq (queue : Nat) (s : State) : Host.Outcome State Fault Refusal := .next (onQueue queue (fun s => resetQueue s queue) s)

/-- DRAIN. -/
def execDrain (s : State) : Host.Outcome State Fault Refusal := .next (mboxEnd (modDev s fun d => { d with drain := bitsOf (marg s 0) 0 0 }) none)

/-! ### Seals (R321) -/

/-- The instructions of a code section, line by line; a head that does not decode is left out. -/
def codeInstrs (b : List Byte) : List Instr :=
  (List.range (b.length / 64)).flatMap fun i =>
    let ps := (List.range 32).map fun n => BitVec.ofNat 16 (pktField b (64 * i + 2 * n) 2)
    match validLine ps with
    | none => []
    | some h => (List.range h).filterMap fun j => let ht := lineHead ps (j + 1); decodeHead ht.1 ht.2

/-- Whether an instruction's immediate is one that R134 refuses by itself. -/
def immRefused (i : Instr) : Bool :=
  match i with
  | .depset _ subs idx => subs == 0#1 && decide (8 ≤ idx.toNat)
  | .skewset n => decide (15 < n.toNat)
  | .ringset _ ring _ => decide (4 ≤ ring.toNat)
  | _ => false

/-- Whether control never falls from an instruction to the next. -/
def breaksPath (i : Instr) : Bool :=
  match i with
  | .j _ | .jl _ _ | .jr _ | .jlr _ _ | .exit | .hret | .tret => true
  | _ => false

/-- Whether on some path through the code that falls from head to head a skew limit meets a ring too short for it (R134, TRAPVAL 3): the skew
limit and the ring depths in force so far are carried along. -/
def skewMeets (skew : Option Nat) (rings : List (Nat × Nat)) (l : List Instr) : Bool :=
  match l with
  | [] => false
  | i :: r =>
    let (sk, rs) := match i with
      | .skewset n => (some n.toNat, rings)
      | .ringset _ ring d => (skew, (ring.toNat, d.toNat) :: rings.filter fun e => e.1 != ring.toNat)
      | _ => if breaksPath i then (none, []) else (skew, rings)
    (match sk with | some n => rs.any fun e => decide (e.2 < n) | none => false) || skewMeets sk rs r

/-- Whether the skew limits and ring depths of a code section leave a ring short, should it have subscribers (R134; log entry 51). -/
def depthRefused (l : List Instr) : Bool :=
  (l.any fun i => match i with | .depset _ b _ => b == 1#1 | _ => false) && skewMeets none [] l

/-- Whether a .deps record breaks its form or R134: its count, or an agent id. -/
def badDeps (s : State) (b : List Byte) : Bool :=
  let c := pktField b 0 2
  let n := c % 32
  b.length != 2 + 4 * n || decide ((if c / 2 ^ 15 == 1 then 16 else 8) < n)
    || (fieldsOfBytes n 4 (b.drop 2)).any fun a => let t := BitVec.ofNat 32 a; !(agentValid s t && decide (agentUnit t < 64))

/-- Whether one of n note records from an offset cannot be read, is of no kind that R320 knows, or is a .deps record that breaks R134 (R321). -/
def badNotes (s : State) (rd : Nat → Nat → Option (List Byte)) (off n : Nat) : Bool :=
  match n with
  | 0 => false
  | m + 1 =>
    match rd off 4 with
    | none => true
    | some h =>
      let len := pktField h 2 2
      match rd (off + 4) len with
      | none => true
      | some b => (pktField h 0 2 != 1 && pktField h 0 2 != 2) || (pktField h 0 2 == 2 && badDeps s b) || badNotes s rd (off + (len + 11) / 8 * 8) m

/-- The map images of the entries that a launch may name, those that cannot be read as none. -/
def usedMaps (rd : Nat → Nat → Option (List Byte)) (o : CodeObject) : List (Option (Nat × List Parcel)) :=
  ((List.range o.entries.length).filter fun i => (badEntry o i 0).isNone).map fun i => mapParcels rd o (bitsOf (o.entries.getD i 0) 47 32)

/-- Whether a map image is invalid as a work strand's (R46). -/
def badMap (m : Option (Nat × List Parcel)) : Bool :=
  match m with
  | some (off, ps) => (match checkMap false off ps with | .inl _ => true | .inr _ => false)
  | none => false

/-- What SEAL refuses an object for, the first reason of R318 that applies: malformed under R320, or pacing immediates or .deps records that break
R134 (0x03); no place for a seal (0x04); a profile newer than the device's (0x05); an entry out of range or the map of one invalid (0x06). Which
entry a launch names for its handler map the object does not say, so that its maps are judged as maps of work strands (log entry 51). -/
def sealReason (s : State) (rd : Nat → Nat → Option (List Byte)) : Sum Nat CodeObject :=
  match readObject rd with
  | .inl _ => .inl 0x03
  | .inr o =>
    match rd o.head.codeoff o.head.codesize, rd 0 o.head.sealoff, rd o.head.sealoff 64 with
    | some code, some _, some _ =>
      let l := codeInstrs code
      if l.any immRefused || depthRefused l || (o.head.nnote == 0 && o.head.noteoff != 0) || badNotes s rd o.head.noteoff o.head.nnote then .inl 0x03
      else if (usedMaps rd o).any (·.isNone) then .inl 0x03
      else if o.head.sealoff == 0 then .inl 0x04
      else if (badProfile s o).isSome then .inl 0x05
      else if ((List.range o.entries.length).any fun i => (badEntry o i 0).isSome) || (usedMaps rd o).any badMap then .inl 0x06
      else .inr o
    | _, _, _ => .inl 0x03

/-- The 64 bytes of a seal. -/
def sealBytes (s : State) (body : List Byte) : List Byte :=
  (Config.kmac256 body ++ List.replicate 32 0#8).take 32 ++ toBytes 2 s.dev.fwrev ++ List.replicate 30 0#8

/-- SEAL. -/
def execSeal (s : State) : Host.Outcome State Fault Refusal :=
  let a := localPa s (marg s 0)
  let n := marg s 1
  .next (readArea .seal a n (fun s =>
    let rd := fun (off len : Nat) => if n < off + len then none else physRead s (a + off) len
    match sealReason s rd with
    | .inl r => mboxEnd s (some r)
    | .inr o => mboxEnd (writePhys s (a + o.head.sealoff) (sealBytes s ((rd 0 o.head.sealoff).getD []))) none) s)

/-! ### Firmware (R328, R329) -/

/-- A firmware image's manifest: FWREV, the lowest SIREV, the layouts. -/
def manifestOf (b : List Byte) : Nat × Nat × List Nat := (pktField b 0 2, pktField b 2 2, fieldsOfBytes (pktField b 4 2) 2 (b.drop 6))

/-- The reason for which an image is refused: its signature, its SIREV, its manifest. -/
def badImage (s : State) (b : List Byte) : Option Nat :=
  let body := b.take (b.length - 114)
  let n := pktField b 4 2
  if b.length < 114 || !(Config.vendorSigned (Config.shake256 body) (b.drop (b.length - 114))) then some 1
  else if s.dev.sirev < pktField body 2 2 then some 2
  else if body.length < 6 + 2 * n || n == 0 || decide (8 < n) then some 3
  else none

/-- FWSTAGE. An image that cannot be read fails its signature. The digest kept leaves the signature out (log entry 52). -/
def execFwstage (s : State) : Host.Outcome State Fault Refusal :=
  let a := localPa s (marg s 0)
  let n := marg s 1
  .next (readArea .fwstage a n (fun s =>
    match physRead s a n with
    | none => mboxEnd s (some 1)
    | some b =>
      match badImage s b with
      | some r => mboxEnd s (some r)
      | none =>
        let m := manifestOf b
        mboxEnd (modDev s fun d =>
          { d with staged := some (m.1, m.2.2), stagedDigest := Config.shake256 (b.take (b.length - 114)) }) none) s)

/-- The lowest saved queue whose layout a list lacks. -/
def layoutMissing (s : State) (l : List Nat) : Option Nat :=
  (List.range 64).find? fun q => (queueOf s q).state == 3 && !(l.contains (queueOf s q).layout)

/-- FWACTIVATE: its checks, and then, as a second step, the new revision. -/
def execFwactivate (s : State) : Host.Outcome State Fault Refusal :=
  match s.dev.staged with
  | none => .next (mboxEnd s (some 1))
  | some (rev, ls) =>
    if s.dev.activating then
      .next (mboxEnd (modDev s fun d => { d with fwrev := rev, fwDigest := some d.stagedDigest, layouts := ls, staged := none, activating := false }) none)
    else if launchesLive s != 0 then .next (mboxEnd s (some 2))
    else
      match layoutMissing s ls with
      | some q => .next (postRecord (mboxEnd s (some (0x100 + q))) q (recordBytes 0#32 0#32 4 1 0 noAgent 0#64))
      | none => .next (post (modDev s fun d => { d with activating := true }) .fwactivate)

/-! ### Attestation (R330) -/

/-- Bytes cut or padded with zeros to a length. -/
def exactly (n : Nat) (b : List Byte) : List Byte := (b ++ List.replicate n 0#8).take n

/-- Bytes 0 to 141 of an attestation. -/
def attestBody (s : State) (nonce : List Byte) : List Byte :=
  exactly 64 (s.dev.fwDigest.getD Config.bootDigest) ++ toBytes 8 (devId s) ++ nonce ++ List.replicate 6 0#8

/-- ATTEST: both areas lie in this device or the host, and are named by device-physical addresses (R151, R330). -/
def execAttest (s : State) : Host.Outcome State Fault Refusal :=
  let a := localPa s (marg s 0)
  let b := localPa s (marg s 1)
  if a % 64 != 0 || b % 64 != 0 || !(rangeHere b 256) || ((List.range 256).any fun i => sectorFails s (b + i)) then .next (mboxEnd s (some 1))
  else
    .next (onArea .attest a 64 (fun s =>
      match (if rangeHere a 64 then physRead s a 64 else none) with
      | none => mboxEnd s (some 1)
      | some nonce =>
        let body := attestBody s nonce
        mboxEnd (writePhys s b (body ++ exactly 114 (Config.signEd448 body))) none) s)

/-! ### SETMIGT and SECREGION -/

/-- SETMIGT. -/
def execSetmigt (s : State) : Host.Outcome State Fault Refusal :=
  let t := bitsOf (marg s 0) 7 0
  if t < 80 || 110 < t then .next (mboxEnd s (some 1)) else .next (mboxEnd (modDev s fun d => { d with migThreshold := t }) none)

/-- Whether a DEV.SECREG value breaks R370: a nonzero zero field, a SIZE out of range, a range not in one memory. -/
def badRegion (w : Word) : Bool :=
  let a := secBase w
  let n := secSize w
  bitsOf w.toNat 62 51 != 0 || bitsOf w.toNat 24 0 != 0 || n == 0 || decide (4608 < bitsOf w.toNat 50 38)
    || !((inSram a && inSram (a + n - 1)) || (inGddr a && inGddr (a + n - 1)))

/-- Whether two regions overlap. -/
def regionsMeet (v w : Word) : Bool := decide (secBase v < secBase w + secSize w) && decide (secBase w < secBase v + secSize v)

/-- Every byte that enters or leaves secure memory between two states cleared to zero (R370). -/
def clearMoved (old new : State) : State :=
  let stays := fun (a : Nat) => inSecure old a == inSecure new a
  { new with mem := new.mem.filter fun e => stays e.1, poison := new.poison.filter stays, flips := new.flips.filter fun f => stays f.1,
             tagBad := new.tagBad.filter stays, mediaBad := new.mediaBad.filter stays }

/-- SECREGION. -/
def execSecregion (s : State) : Host.Outcome State Fault Refusal :=
  let n := marg s 0
  let v := s.mbox.arg1
  if launchesLive s != 0 then .next (mboxEnd s (some 1))
  else if 8 ≤ n || badRegion v then .next (mboxEnd s (some 2))
  else if secEn v && ((List.range 8).any fun i => let w := tget s.dev.secreg 0#64 i; i != n && secEn w && regionsMeet v w) then
    .next (mboxEnd s (some 3))
  else .next (mboxEnd (clearMoved s (modDev s fun d => { d with secreg := tput d.secreg n v })) none)

end Sys2Proof.Machine
end

