-- ==== Sys2Proof/Machine/HostPort.lean ====
section
/-! DEFINITION. The host interface (R307 to R312): BAR0, the reserving of tickets, the enumeration shadow (R331), CXL.mem accesses (R303),
device reset (R157, R175, R370) and recovery (R324). -/

namespace Sys2Proof.Machine

/-! ### Writes -/

/-- COMMIT written (R311): the slot is committed. -/
def commitSlot (s : State) (q : Nat) (v : Word) : State :=
  modQueue s q fun x => { x with commitmap := sput x.commitmap (v.toNat % 2 ^ 16 % 2 ^ x.qsize) }

/-- Whether a queue holds launches (R309). -/
def holdsLaunches (s : State) (q : Nat) : Bool := !(launchesOf s q).isEmpty || (queueOf s q).held.any fun m => pktKind m.2 == 2

/-- QCTL written: only ENABLE; clearing it while the queue holds launches waits for a queue reset (R309). -/
def writeQctl (s : State) (q : Nat) (v : Word) : State :=
  let on := bitsOf v.toNat 0 0 == 1
  if on then modQueue s q fun x => { x with enable := true, disable := false }
  else if holdsLaunches s q then modQueue s q fun x => { x with disable := x.enable }
  else modQueue s q fun x => { x with enable := false }

/-- A write in the block of a queue (R309); offsets without a writable register have no effect. -/
def writeQueueReg (s : State) (q off : Nat) (v : Word) : State :=
  let x := queueOf s q
  if off == 0x000 then (if x.enable then s else modQueue s q fun y => { y with qbase := v &&& 0x800FFFFFFFFFF000#64 })
  else if off == 0x008 then
    let z := bitsOf v.toNat 4 0
    if x.enable || z < 6 || 16 < z then s else modQueue s q fun y => { y with qsize := z }
  else if off == 0x010 then writeQctl s q v
  else if off == 0x028 then commitSlot s q v
  else if off == 0x030 then (if x.enable then s else modQueue s q fun y => { y with cqbase := v })
  else if off == 0x038 then
    endReset (flushRecords x.records.length (modQueue s q fun y => { y with cqhead := v.setWidth 32 }) q) q
  else s

/-- MCMD written (R325): ignored while a command runs; an unlisted code is refused with 0xFFFF, a queue above 63 with 0xFFFE. -/
def writeMcmd (s : State) (v : Word) : State :=
  let code := bitsOf v.toNat 7 0
  let q := bitsOf v.toNat 15 8
  if s.mbox.state == 1 then s
  else
    let s1 := { s with mbox := { s.mbox with cmd := v &&& 0xFFFF#64, state := 1, reason := 0, buf := [], bad := [] } }
    match mboxStep code q with
    | none => mboxEnd s1 (some 0xFFFF)
    | some i => if decide (code ≤ 5) && decide (63 < q) then mboxEnd s1 (some 0xFFFE) else post s1 i

/-- A write to BAR0 (R308, R309, R325): 8 bytes, aligned; others have no effect. -/
def barWrite (s : State) (off : Nat) (v : Word) : State :=
  if off % 8 != 0 then s
  else if off == 0x10000 then writeMcmd s v
  else if off == 0x10010 then { s with mbox := { s.mbox with arg0 := v } }
  else if off == 0x10018 then { s with mbox := { s.mbox with arg1 := v } }
  else if off == 0x10020 then { s with mbox := { s.mbox with arg2 := v } }
  else if off == 0x10028 then { s with mbox := { s.mbox with arg3 := v } }
  else if 0x100000 ≤ off && off < 0x500000 then writeQueueReg s ((off - 0x100000) / 0x10000) (off % 0x10000) v
  else s

/-- REGISTER_WRITE: a write of the host to a register of BAR0. -/
def execRegisterWrite (off : Nat) (v : Word) (s : State) : Host.Outcome State Fault Refusal := .next (barWrite s off v)

/-- COMMIT. -/
def execCommit (queue : Nat) (v : Word) (s : State) : Host.Outcome State Fault Refusal :=
  .next (if queue < 64 then commitSlot s queue v else s)

/-! ### Reads -/

/-- What a read of RESV returns (R310). -/
def resvWord (x : Queue) : Word :=
  BitVec.ofNat 64 (x.resv.toNat + (if (x.resv - x.head).toNat < 2 ^ x.qsize then 0 else 2 ^ 63))

/-- RESV_READ: a ticket reserved and returned, or FULL (R310). -/
def execResvRead (queue : Nat) (s : State) : Host.Outcome State Fault Refusal :=
  if 63 < queue then .next s
  else
    let x := queueOf s queue
    let room := decide ((x.resv - x.head).toNat < 2 ^ x.qsize)
    let s1 := modDev s fun d => { d with hostData := toBytes 8 (resvWord x).toNat }
    .next (modQueue s1 queue fun y => { y with resv := if room then y.resv + 1#32 else y.resv })

/-- A read in the block of a queue, RESV apart (R309). -/
def readQueueReg (s : State) (q off : Nat) : Nat :=
  let x := queueOf s q
  if off == 0x000 then x.qbase.toNat
  else if off == 0x008 then x.qsize
  else if off == 0x010 then (if x.enable then 1 else 0) + (if x.secok then 2 else 0) + queueState s q % 8 * 256
  else if off == 0x020 then x.head.toNat
  else if off == 0x030 then x.cqbase.toNat
  else if off == 0x038 then x.cqhead.toNat
  else if off == 0x040 then x.cqtail.toNat
  else if 0x1000 ≤ off && off < 0x3000 then
    ((List.range 64).map fun b => if x.commitmap.contains (8 * (off - 0x1000) + b) then 2 ^ b else 0).sum
  else 0

/-- A read of BAR0, RESV apart: it has no side effect (R308, R309, R325, R331). -/
def barRead (s : State) (off : Nat) : Nat :=
  if off % 8 != 0 then 0
  else if off < 0x10000 then ofBytes (memBytes s.dev.shadow off 8)
  else if off == 0x10008 then s.mbox.state * 2 ^ 62 + s.mbox.reason % 2 ^ 16
  else if off == 0x10010 then s.mbox.arg0.toNat
  else if off == 0x10018 then s.mbox.arg1.toNat
  else if off == 0x10020 then s.mbox.arg2.toNat
  else if off == 0x10028 then s.mbox.arg3.toNat
  else if 0x100000 ≤ off && off < 0x500000 then readQueueReg s ((off - 0x100000) / 0x10000) (off % 0x10000)
  else 0

/-! ### The enumeration shadow (R331) -/

/-- The drain state that enumeration shows (R327, R331). -/
def drainState (s : State) : Nat :=
  if s.dev.drain == 0 then 0
  else if launchesLive s == 0 && !((List.range 64).any fun q => (queueOf s q).state == 2) then 2
  else 1

/-- The enumeration word of a cluster. -/
def clusterWord (s : State) (c : Nat) : Nat :=
  let cores := s.cores.filter fun e => isCore e.1 && clusterOfKey e.1 == c
  let sealed' := (cores.filter fun e => e.2.sealed).length
  let checked := (cores.filter fun e => e.2.checkerSealed).length
  let spares := ((List.range 16).map fun ch => (swaps (clusterOf s c) ch).length).sum
  let hot := (List.range 16).foldl (fun (m : Int) q => max m (quadTemp (quadOf s (16 * c + q)))) (quadTemp (quadOf s (16 * c)))
  sealed' % 256 + checked % 256 * 2 ^ 8 + spares % 256 * 2 ^ 16 + (if checked == 0 then 0 else 2 ^ 24) + (hot % 65536).toNat * 2 ^ 32

/-- The enumeration word of a queue. -/
def queueWord (s : State) (q : Nat) : Nat :=
  let x := queueOf s q
  queueState s q % 8 + x.weight % 256 * 2 ^ 8 + (ownedStrands s q).length % 2 ^ 16 * 2 ^ 16 + x.layout % 2 ^ 16 * 2 ^ 32

/-- The words of the enumeration region that a refresh writes, with their offsets; the error records oldest first (log entry 111). -/
def shadowWords (s : State) (gen : Word) : List (Nat × Nat) :=
  let d := s.dev
  [(0x0, gen.toNat), (0x8, devId s), (0x10, d.profile.toNat),
   (0x18, drainState s + (if d.staged.isSome then 4 else 0) + (if d.activating then 8 else 0)), (0x20, launchesLive s)]
    ++ (List.range 16).map (fun i => (0x80 + 8 * i, numRecord i))
    ++ (List.range 64).map (fun c => (0x100 + 8 * c, clusterWord s c))
    ++ (List.range 48).map (fun p => (0x400 + 8 * p, linkState s p))
    ++ (List.range 64).map (fun q => (0x600 + 8 * q, queueWord s q))
    ++ [(0x800, d.errCount)]
    ++ d.errLog.zipIdx.flatMap fun r => (List.range 4).map fun j => (0x808 + 32 * r.2 + 8 * j, (r.1.getD j 0#64).toNat)

/-- ENUM_REFRESH: GEN made odd; then, as a second step, the region written and GEN made even again. -/
def execEnumRefresh (s : State) : Host.Outcome State Fault Refusal :=
  let gen := s.dev.gen + 1#64
  .next (modDev s fun d =>
    if d.gen.toNat % 2 == 0 then { d with gen := gen, shadow := memPutWord d.shadow 0 gen }
    else { d with gen := gen, shadow := (shadowWords s gen).foldl (fun m e => memPutWord m e.1 (BitVec.ofNat 64 e.2)) [] })

/-! ### CXL.mem (R303, R307) -/

/-- HOST_CXL_MEM_ACCESS: bytes of GDDR 7 at a device offset written, or as many read as are given; a read of a word on which an atomic is parked
waits behind it (R205). -/
def execHostCxlMemAccess (write : Bool) (off : Nat) (data : List Byte) (s : State) : Host.Outcome State Fault Refusal :=
  let a := 0x1000000000 + off
  if 0x2400000000 < off + data.length then .next s
  else if write then
    let bs := (data.zipIdx.map fun e => ({ addr := a + e.2, val := e.1 } : MByte)).filter fun b => !(inSecure s b.addr)
    .next (if bs.isEmpty then s else emitOutside s (.store bs false) none)
  else
    .next (if wordBlocked s a data.length then emitOutside s (.read a data.length) none else hostTake s (quadOf s outsideQueue).wq a data.length)

/-! ### Reset and recovery -/

/-- Whether a byte of memory keeps its contents through a reset: not the quad stores (R157), the stores of the units above 63 and secure
GDDR 7 (R370). -/
def keptByte (s : State) (a : Nat) : Bool := !(inQuads a) && !(decide (2 ^ 52 ≤ a) && decide (a < 2 ^ 53)) && !(inSector s a)

/-- DEVICE_RESET: every register of the device at its reset value and the quad stores clear (R157, R175, R370). Other memory, the firmware
with its addresses and the numbers of the domain stay; the management core's records of the model's output begin anew. -/
def execDeviceReset (s : State) : Host.Outcome State Fault Refusal :=
  let r := State.reset
  let d := s.dev
  .next { r with
    mem := s.mem.filter fun e => keptByte s e.1
    poison := s.poison.filter (keptByte s), flips := s.flips.filter fun f => keptByte s f.1
    dev := { r.dev with num := d.num, size := d.size, sirev := d.sirev, fwrev := d.fwrev, profile := d.profile, fwDigest := d.fwDigest, layouts := d.layouts,
                        fwTrap := d.fwTrap, fwMigrate := d.fwMigrate, fwRequest := d.fwRequest, fwLog := d.fwLog, fwCopy := d.fwCopy, fwRoot := d.fwRoot }
    serial := s.serial, turns := s.turns, rot := s.rot, fresh := s.fresh }

/-- RECOVERY: a grade-2 record for every launch that the fatal fault ended, and then the queues reopen (R324). -/
def execRecovery (s : State) : Host.Outcome State Fault Refusal :=
  let s1 := s.dev.lostLaunches.foldl (fun t x => postRecord t x.queue (recordBytes x.tag x.ticket 2 2 0 noAgent 0#64)) s
  .next (modDev s1 fun d => { d with fatal := false, lostLaunches := [] })

end Sys2Proof.Machine
end

