-- ==== Sys2Proof/Machine/Sequencer.lean ====
section
/-! DEFINITION. The vector and conversion instructions as issued (R246, R255, R257), and the repetition sequencer (R254 to R259). -/

namespace Sys2Proof.Machine

/-! ### Every vector instruction's check and effect -/

/-- The checks of a vector instruction under a stagger offset (R238, R246), but for those on its encoding and on a VM's window. -/
def vecCheck (s : State) (σ : Nat) (i : Instr) : Check :=
  let n := vecId σ
  match i with
  | .vadd a b c => plainCheck s numericType [n a, n b, n c]
  | .vsub a b c => plainCheck s numericType [n a, n b, n c]
  | .vmul a b c => plainCheck s numericType [n a, n b, n c]
  | .vmin a b c => plainCheck s numericType [n a, n b, n c]
  | .vmax a b c => plainCheck s numericType [n a, n b, n c]
  | .vand a b c => plainCheck s anyType [n a, n b, n c]
  | .vor a b c => plainCheck s anyType [n a, n b, n c]
  | .vxor a b c => plainCheck s anyType [n a, n b, n c]
  | .vshl a b c => plainCheck s intType [n a, n b, n c]
  | .vshr a b c => plainCheck s intType [n a, n b, n c]
  | .vceq a b c => Check.also (undeclared s [n a, n b, n c]) (compareTypes s (n a) (n b) (n c))
  | .vclt a b c => Check.also (undeclared s [n a, n b, n c]) (compareTypes s (n a) (n b) (n c))
  | .vcle a b c => Check.also (undeclared s [n a, n b, n c]) (compareTypes s (n a) (n b) (n c))
  | .vfma a b c d => plainCheck s wideFloat [n a, n b, n c, n d]
  | .vfms a b c d => plainCheck s wideFloat [n a, n b, n c, n d]
  | .vsel a b c d => Check.also (undeclared s [n a, n b, n c, n d]) (selTypes s (n a) (n b) (n c) (n d))
  | .vmov a b => plainCheck s anyType [n a, n b]
  | .vabs a b => plainCheck s numericType [n a, n b]
  | .vneg a b => plainCheck s numericType [n a, n b]
  | .vexp2 a b => plainCheck s wideFloat [n a, n b]
  | .vlog2 a b => plainCheck s wideFloat [n a, n b]
  | .vrcp a b => plainCheck s wideFloat [n a, n b]
  | .vrsq a b => plainCheck s wideFloat [n a, n b]
  | .vfloor a b => plainCheck s wideFloat [n a, n b]
  | .vcvt a b t => vcvCheck s false (some t.toNat) anyType anyType (n a) (n b) none
  | .vqnt a b c t => vcvCheck s false (some t.toNat) narrowType wideFloat (n a) (n b) (some (n c, 5))
  | .vdqnt a b c => vcvCheck s false none wideFloat narrowType (n a) (n b) (some (n c, 5))
  | .voutl a b c => vcvCheck s true none (· == 8) wideFloat (n a) (n b) (some (n c, 8))
  | .vld a _ _ _ => undeclared s [n a]
  | .vst a _ _ _ => undeclared s [n a]
  | .vldb a _ _ _ => undeclared s [n a]
  | .vstb a _ _ _ => undeclared s [n a]
  | .vtoq _ v => undeclared s [n v]
  | .vfromq v _ => undeclared s [n v]
  | .vanyq _ v => undeclared s [n v]
  | .vallq _ v => undeclared s [n v]
  | _ => none

/-- The effect of a vector instruction whose checks hold. -/
def vecEffect (x : VExec) (i : Instr) (s : State) : Ans Unit :=
  match i with
  | .vadd a b c => binaryRow laneAdd a b c x s
  | .vsub a b c => binaryRow laneSub a b c x s
  | .vmul a b c => binaryRow laneMul a b c x s
  | .vmin a b c => binaryRow (lanePick true) a b c x s
  | .vmax a b c => binaryRow (lanePick false) a b c x s
  | .vand a b c => bitsRow (· &&& ·) a b c x s
  | .vor a b c => bitsRow (· ||| ·) a b c x s
  | .vxor a b c => bitsRow (· ^^^ ·) a b c x s
  | .vshl a b c => binaryRow laneShl a b c x s
  | .vshr a b c => binaryRow laneShr a b c x s
  | .vceq a b c => binaryRow (laneCompare (· == .eq)) a b c x s
  | .vclt a b c => binaryRow (laneCompare (· == .lt)) a b c x s
  | .vcle a b c => binaryRow (laneCompare (· != .gt)) a b c x s
  | .vfma a b c d => fmaRow false a b c d x s
  | .vfms a b c d => fmaRow true a b c d x s
  | .vsel a b c d => selRow a b c d x s
  | .vmov a b => .ok () (putVec s (vecId x.sigma a) (vecEntry s (vecId x.sigma b)).data)
  | .vabs a b => unaryRow laneAbs a b x s
  | .vneg a b => unaryRow laneNeg a b x s
  | .vexp2 a b => unaryRow laneExp2 a b x s
  | .vlog2 a b => unaryRow laneLog2 a b x s
  | .vrcp a b => unaryRow laneRcp a b x s
  | .vrsq a b => unaryRow laneRsq a b x s
  | .vfloor a b => unaryRow laneFloor a b x s
  | .vcvt a b _ => vcvtRow a b x s
  | .vqnt a b c _ => vqntRow a b c x s
  | .vdqnt a b c => vdqntRow a b c x s
  | .voutl a b c => voutlRow a b c x s
  | .vld a _ _ d => vldRow a d x s
  | .vst a _ _ d => vstRow a d x s
  | .vldb a _ _ d => vldbRow a d x s
  | .vstb a _ _ d => vstbRow a d x s
  | .vtoq q v => vtoqRow q v x s
  | .vfromq v q => vfromqRow v q x s
  | .vanyq q v => outcomeRow false q v x s
  | .vallq q v => outcomeRow true q v x s
  | _ => .ok () s

/-- Whether a vector instruction stores or pushes, so that a pending error is raised at it (R178). -/
def vecReleases (i : Instr) : Bool :=
  match i with
  | .vst _ _ _ _ | .vstb _ _ _ _ | .vtoq _ _ | .vanyq _ _ | .vallq _ _ | .voutl _ _ _ => true
  | _ => false

/-- Every vector id that an instruction reads or writes under a stagger offset, spans included (R72, R237). -/
def vecTouched (s : State) (σ : Nat) (i : Instr) : List Nat :=
  let ids := (operandVecs i).map (vecId σ)
  match i with
  | .vcvt a b _ | .vqnt a b _ _ | .vdqnt a b _ => let p := spansOf false s (vecId σ a) (vecId σ b); ids ++ p.1 ++ p.2
  | .voutl a b _ => let p := spansOf true s (vecId σ a) (vecId σ b); ids ++ p.1 ++ p.2
  | _ => ids

/-! ### Issue (R246, R255, R257) -/

/-- The sequencer of the issuing strand's core. -/
def curSeq (s : State) : Sequencer := (coreOf s s.cur.core).seq

/-- Whether the issuing strand owns its core's sequencer. -/
def ownsSeq (s : State) : Bool := (curSeq s).owner == some s.cur.slot

/-- The sequencer of the issuing strand's core changed. -/
def modSeq (f : Sequencer → Sequencer) (s : State) : State := modCore s s.cur.core fun c => { c with seq := f c.seq }

/-- The window and offset operands of a VM, checked (R246). -/
def vecWindow (b c : Name) (s : State) : Ans (Word × Int) :=
  (readName b s).bind fun w s => (readName c s).bind fun o s =>
    if rowWindow (wordOf w) then .ok (wordOf w, o) s else .trap 0x09 (wordOf w)

/-- An instruction appended to the buffer (R255). -/
def recordVec (i : Instr) (m : Word × Int) (s : State) : Ans Unit :=
  if 16 ≤ (curSeq s).buf.length then .trap 0x02 17#64
  else .ok () (modSeq (fun q => { q with buf := q.buf ++ [{ instr := i, win := m.1, off := m.2 }] }) s)

/-- A vector instruction issued by a strand: the checks, the wait for the strand's own run, recording, or the effect. -/
def issueVec (i : Instr) (operands : State → Ans (Word × Int)) (s : State) : Ans Unit :=
  let records := ownsSeq s && (curSeq s).recording
  if !(isCore s.cur.core) then .trap 0x02 0#64
  else if ownsSeq s && (curSeq s).run.isSome then .wait .run
  else
    (if vecReleases i && !records then raisePoint s else .ok () s).seq fun s =>
      match vecCheck s 0 i with
      | some (c, v) => .trap c v
      | none =>
        (operands s).bind fun m s =>
          if records then recordVec i m s
          else vecEffect { rm := (curSlot s).rm.toNat, win := m.1, off := m.2 } i s

/-- No operands but vector ids and queues. -/
def noOperands (s : State) : Ans (Word × Int) := .ok (0#64, 0) s

/-! ### VA, VF and VU (R248 to R250) -/

/-- VADD. -/
def execVadd (a b c : VRef) (s : State) : Host.Outcome State Fault Refusal := run (issueVec (.vadd a b c) noOperands) s
/-- VSUB. -/
def execVsub (a b c : VRef) (s : State) : Host.Outcome State Fault Refusal := run (issueVec (.vsub a b c) noOperands) s
/-- VMUL. -/
def execVmul (a b c : VRef) (s : State) : Host.Outcome State Fault Refusal := run (issueVec (.vmul a b c) noOperands) s
/-- VMIN. -/
def execVmin (a b c : VRef) (s : State) : Host.Outcome State Fault Refusal := run (issueVec (.vmin a b c) noOperands) s
/-- VMAX. -/
def execVmax (a b c : VRef) (s : State) : Host.Outcome State Fault Refusal := run (issueVec (.vmax a b c) noOperands) s
/-- VAND. -/
def execVand (a b c : VRef) (s : State) : Host.Outcome State Fault Refusal := run (issueVec (.vand a b c) noOperands) s
/-- VOR. -/
def execVor (a b c : VRef) (s : State) : Host.Outcome State Fault Refusal := run (issueVec (.vor a b c) noOperands) s
/-- VXOR. -/
def execVxor (a b c : VRef) (s : State) : Host.Outcome State Fault Refusal := run (issueVec (.vxor a b c) noOperands) s
/-- VSHL. -/
def execVshl (a b c : VRef) (s : State) : Host.Outcome State Fault Refusal := run (issueVec (.vshl a b c) noOperands) s
/-- VSHR. -/
def execVshr (a b c : VRef) (s : State) : Host.Outcome State Fault Refusal := run (issueVec (.vshr a b c) noOperands) s
/-- VCEQ. -/
def execVceq (a b c : VRef) (s : State) : Host.Outcome State Fault Refusal := run (issueVec (.vceq a b c) noOperands) s
/-- VCLT. -/
def execVclt (a b c : VRef) (s : State) : Host.Outcome State Fault Refusal := run (issueVec (.vclt a b c) noOperands) s
/-- VCLE. -/
def execVcle (a b c : VRef) (s : State) : Host.Outcome State Fault Refusal := run (issueVec (.vcle a b c) noOperands) s
/-- VFMA. -/
def execVfma (a b c d : VRef) (s : State) : Host.Outcome State Fault Refusal := run (issueVec (.vfma a b c d) noOperands) s
/-- VFMS. -/
def execVfms (a b c d : VRef) (s : State) : Host.Outcome State Fault Refusal := run (issueVec (.vfms a b c d) noOperands) s
/-- VSEL. -/
def execVsel (a b c d : VRef) (s : State) : Host.Outcome State Fault Refusal := run (issueVec (.vsel a b c d) noOperands) s
/-- VMOV. -/
def execVmov (a b : VRef) (s : State) : Host.Outcome State Fault Refusal := run (issueVec (.vmov a b) noOperands) s
/-- VABS. -/
def execVabs (a b : VRef) (s : State) : Host.Outcome State Fault Refusal := run (issueVec (.vabs a b) noOperands) s
/-- VNEG. -/
def execVneg (a b : VRef) (s : State) : Host.Outcome State Fault Refusal := run (issueVec (.vneg a b) noOperands) s
/-- VEXP2. -/
def execVexp2 (a b : VRef) (s : State) : Host.Outcome State Fault Refusal := run (issueVec (.vexp2 a b) noOperands) s
/-- VLOG2. -/
def execVlog2 (a b : VRef) (s : State) : Host.Outcome State Fault Refusal := run (issueVec (.vlog2 a b) noOperands) s
/-- VRCP. -/
def execVrcp (a b : VRef) (s : State) : Host.Outcome State Fault Refusal := run (issueVec (.vrcp a b) noOperands) s
/-- VRSQ. -/
def execVrsq (a b : VRef) (s : State) : Host.Outcome State Fault Refusal := run (issueVec (.vrsq a b) noOperands) s
/-- VFLOOR. -/
def execVfloor (a b : VRef) (s : State) : Host.Outcome State Fault Refusal := run (issueVec (.vfloor a b) noOperands) s

/-! ### VCV (R237) -/

/-- VCVT. -/
def execVcvt (a b : VRef) (ty : BitVec 4) (s : State) : Host.Outcome State Fault Refusal := run (issueVec (.vcvt a b ty) noOperands) s
/-- VQNT. -/
def execVqnt (a b c : VRef) (ty : BitVec 4) (s : State) : Host.Outcome State Fault Refusal := run (issueVec (.vqnt a b c ty) noOperands) s
/-- VDQNT. -/
def execVdqnt (a b c : VRef) (s : State) : Host.Outcome State Fault Refusal := run (issueVec (.vdqnt a b c) noOperands) s
/-- VOUTL. -/
def execVoutl (a b c : VRef) (s : State) : Host.Outcome State Fault Refusal := run (issueVec (.voutl a b c) noOperands) s

/-! ### VM and VQ (R251, R253) -/

/-- VLD. -/
def execVld (a : VRef) (b c : Name) (d : BitVec 8) (s : State) : Host.Outcome State Fault Refusal := run (issueVec (.vld a b c d) (vecWindow b c)) s
/-- VST. -/
def execVst (a : VRef) (b c : Name) (d : BitVec 8) (s : State) : Host.Outcome State Fault Refusal := run (issueVec (.vst a b c d) (vecWindow b c)) s
/-- VLDB. -/
def execVldb (a : VRef) (b c : Name) (d : BitVec 8) (s : State) : Host.Outcome State Fault Refusal := run (issueVec (.vldb a b c d) (vecWindow b c)) s
/-- VSTB. -/
def execVstb (a : VRef) (b c : Name) (d : BitVec 8) (s : State) : Host.Outcome State Fault Refusal := run (issueVec (.vstb a b c d) (vecWindow b c)) s
/-- VTOQ. -/
def execVtoq (q : Name) (v : VRef) (s : State) : Host.Outcome State Fault Refusal := run (issueVec (.vtoq q v) noOperands) s
/-- VFROMQ. -/
def execVfromq (v : VRef) (q : Name) (s : State) : Host.Outcome State Fault Refusal := run (issueVec (.vfromq v q) noOperands) s
/-- VANYQ. -/
def execVanyq (q : Name) (v : VRef) (s : State) : Host.Outcome State Fault Refusal := run (issueVec (.vanyq q v) noOperands) s
/-- VALLQ. -/
def execVallq (q : Name) (v : VRef) (s : State) : Host.Outcome State Fault Refusal := run (issueVec (.vallq q v) noOperands) s

/-! ### The RP group (R254 to R258) -/

/-- Whether the RP group may be issued here (R254). -/
def rpPlace (s : State) : Bool := isCore s.cur.core && decide (s.cur.slot < 14)

/-- An instruction of the owner: another strand's traps (R254). -/
def asOwner (f : State → Ans Unit) (s : State) : Ans Unit :=
  if !(rpPlace s) then .trap 0x02 0#64
  else if ownsSeq s then f s
  else .trap 0x15 0#64

/-- RPBEGIN. -/
def execRpbegin (s : State) : Host.Outcome State Fault Refusal :=
  run (fun s =>
    if !(rpPlace s) then .trap 0x02 0#64
    else
      match (curSeq s).owner with
      | some o =>
        if o != s.cur.slot then .trap 0x15 (BitVec.ofNat 64 o)
        else if (curSeq s).run.isSome then .wait .run
        else .ok () (modSeq (fun q => { q with buf := [], recording := true }) s)
      | none => .ok () (modSeq (fun _ => { owner := some s.cur.slot, recording := true }) s)) s

/-- RPEND. -/
def execRpend (s : State) : Host.Outcome State Fault Refusal :=
  run (asOwner fun s =>
    if (curSeq s).recording then .ok () (modSeq (fun q => { q with recording := false }) s)
    else if (curSeq s).run.isSome then .wait .run
    else .ok () (modSeq (fun _ => {}) s)) s

/-- The first word of a loop-nest record that R256 refuses, as its byte offset. -/
def badNest (ws : List Nat) : Option Nat :=
  let w := fun n => ws.getD n 0
  if bitsOf (w 0) 63 54 != 0 || bitsOf (w 0) 53 52 == 3 || bitsOf (w 0) 15 0 == 0 || bitsOf (w 0) 31 16 == 0
      || bitsOf (w 0) 47 32 == 0 then some 0
  else if bitsOf (w 2) 63 48 != 0 then some 16
  else if bitsOf (w 3) 63 48 != 0 then some 24
  else none

/-- The signed count in n bits of a record's word from a bit on. -/
def strideOf (n w lo : Nat) : Int := (BitVec.ofNat n (w / 2 ^ lo)).toInt

/-- The run that a record describes (R256), with its rounding mode (R233). -/
def nestRun (rm : BitVec 3) (ws : List Nat) : RpRun :=
  let w := fun n => ws.getD n 0
  { rm := rm, n0 := bitsOf (w 0) 15 0, n1 := bitsOf (w 0) 31 16, n2 := bitsOf (w 0) 47 32, slevel := bitsOf (w 0) 53 52,
    m := bitsOf (w 0) 51 48 + 1, t0 := strideOf 32 (w 1) 0, t1 := strideOf 32 (w 1) 32,
    t0s := [strideOf 16 (w 2) 0, strideOf 16 (w 2) 16, strideOf 16 (w 2) 32],
    t1s := [strideOf 16 (w 3) 0, strideOf 16 (w 3) 16, strideOf 16 (w 3) 32] }

/-- The first check of a buffered entry that fails under a stagger offset below m (R257). -/
def recheck (s : State) (m : Nat) (buf : List RpEntry) : Check :=
  match buf with
  | [] => none
  | e :: r => (List.range m).foldl (fun acc σ => acc.or (vecCheck s σ e.instr)) none |>.or (recheck s m r)

/-- A run started (R257, R258): the entries are checked, and the owner's earlier accesses are performed first. A run of nothing has
ended already. -/
def startRun (r : RpRun) (s : State) : Ans Unit :=
  match recheck s r.m (curSeq s).buf with
  | some (c, v) => .trap c v
  | none =>
    (awaitLoads s).seq fun s => (awaitDrained 3 s).seq fun s =>
      if (curSeq s).buf.isEmpty then .ok () s else .ok () (modSeq (fun q => { q with run := some r }) s)

/-- What RPRUN and RPRUNI wait for and refuse before they read their operands. -/
def beforeRun (f : State → Ans Unit) (s : State) : Ans Unit :=
  if (curSeq s).recording then .trap 0x02 1#64
  else if (curSeq s).run.isSome then .wait .run
  else f s

/-- RPRUN. -/
def execRprun (b c : Name) (disp : BitVec 16) (s : State) : Host.Outcome State Fault Refusal :=
  run (asOwner (beforeRun fun s =>
    (readWindow b false s).bind fun w s => (readName c s).bind fun o s =>
      (readWin w (o + disp.toInt) 32 s).readThen fun v s =>
        let ws := elems 64 4 v
        match badNest ws with
        | some o => .trap 0x02 (BitVec.ofNat 64 o)
        | none => startRun (nestRun (curSlot s).rm ws) s)) s

/-- RPRUNI. -/
def execRpruni (n : BitVec 16) (s : State) : Host.Outcome State Fault Refusal :=
  run (asOwner (beforeRun fun s =>
    if n == 0#16 then .trap 0x02 0#64
    else startRun (nestRun (curSlot s).rm [n.toNat + 2 ^ 16 + 2 ^ 32, 0, 0, 0]) s)) s

/-- RPWAIT: a run's writes are in memory when it ends, so nothing else is left to acquire (R258). -/
def execRpwait (s : State) : Host.Outcome State Fault Refusal :=
  run (asOwner fun s => if (curSeq s).run.isSome then .wait .run else .ok () s) s

/-! ### The run (R257) -/

/-- The strand of a slot put in the issue latch. -/
def atStrand (s : State) (k i : Nat) : State := { s with cur := { s.cur with core := k, slot := i } }

/-- A stream's offset at a run's place. -/
def streamAt (start : Int) (strides : List Int) (r : RpRun) : Int :=
  start + r.i0 * strides.getD 0 0 + r.i1 * strides.getD 1 0 + r.i2 * strides.getD 2 0

/-- The stagger offset at a run's place. -/
def runSigma (r : RpRun) : Nat := (if r.slevel == 0 then r.i0 else if r.slevel == 1 then r.i1 else r.i2) % r.m

/-- How a run executes an entry at its place. -/
def runExec (r : RpRun) (e : RpEntry) : VExec :=
  let off := match e.instr with
    | .vld _ _ _ _ => e.off + streamAt r.t0 r.t0s r
    | .vst _ _ _ _ => e.off + streamAt r.t1 r.t1s r
    | .vldb _ _ _ _ => e.off + 8 * streamAt r.t0 r.t0s r
    | .vstb _ _ _ _ => e.off + 8 * streamAt r.t1 r.t1s r
    | _ => 0
  { sigma := runSigma r, rm := r.rm.toNat, inRun := true, win := e.win, off := off }

/-- The place after an entry, in a buffer of n entries: past the last, i2 is N2. -/
def runNext (n : Nat) (r : RpRun) : RpRun :=
  if r.e + 1 < n then { r with e := r.e + 1 }
  else if r.i0 + 1 < r.n0 then { r with e := 0, i0 := r.i0 + 1 }
  else if r.i1 + 1 < r.n1 then { r with e := 0, i0 := 0, i1 := r.i1 + 1 }
  else { r with e := 0, i0 := 0, i1 := 0, i2 := r.i2 + 1 }

/-- Whether a VTOQ or VFROMQ of a core's run is incomplete. -/
def runMoving (c : Core) : Bool := c.queues.any fun d => d.2.vto.any (·.run) || d.2.vfrom.any (·.run)

/-- The run's place set. -/
def setRun (s : State) (k : Nat) (r : Option RpRun) : State := modCore s k fun c => { c with seq := { c.seq with run := r } }

/-- One entry of a run executed, if nothing makes it wait, an incomplete VTOQ or VFROMQ of the run included (R252); the run ends when its
last entry has completed (R257). -/
def runEntry (s : State) (k : Nat) : State :=
  let q := (coreOf s k).seq
  match q.owner, q.run with
  | some i, some r =>
    if runMoving (coreOf s k) then s
    else if r.n2 ≤ r.i2 then setRun s k none
    else
      match q.buf[r.e]? with
      | none => setRun s k none
      | some e =>
        let t := atStrand s k i
        let x := runExec r e
        if (vecTouched t x.sigma e.instr).any fun v => vecOutstanding t k i v then s
        else
          match vecEffect x e.instr t with
          | .ok _ u => setRun { u with cur := s.cur } k (some (runNext q.buf.length r))
          | _ => s
  | _, _ => s

/-- RP_RUN_ENTRY: the sequencer's run takes its next entry, or ends. -/
def execRpRunEntry (core : Nat) (s : State) : Host.Outcome State Fault Refusal := .next (runEntry s core)

end Sys2Proof.Machine
end

