-- ==== Sys2Proof/Machine/Issue.lean ====
section
/-! DEFINITION. The rotation (R102): which slot of a core may issue in a cycle, and the issue latch it fills. -/

namespace Sys2Proof.Machine

/-- Whether the interval since a slot's last issue has passed: 8 cycles, 16 after YIELD (R102). The heads of a streamer's inner loop run as a burst
(R222), and no interval holds a streamer's slot back. -/
def intervalOver (x : Slot) (t : Nat) : Bool :=
  match x.lastIssue with
  | none => true
  | some l => decide (l + (if x.lastYield then 16 else 8) ≤ t)

/-- Free entries of a unit's write queue (R204). -/
def queueRoom (s : State) (k : Nat) : Nat := 32 - (queueFor s k).length

/-- Whether a store through a window finds no place: in the write queue, or for word 7 of a command in the core's command queue (R204, R263). -/
def storeHeld (s : State) (k i : Nat) (b c : Name) (disp : BitVec 14) : Bool :=
  let t := atStrand s k i
  match readWindow b true t with
  | .ok w u =>
    if winKind w == 1 then
      (match readName c u with
       | .ok o _ => winOffset w (o + disp.toInt) 8 % 64 / 8 == 7 && decide (8 ≤ (coreOf s k).mx.queue.length)
       | _ => false)
    else queueRoom s k == 0
  | _ => false

/-- Whether an MMA that executes on the set a MACC would read passes the slot over (R279). -/
def maccHeld (s : State) (k i : Nat) (b : Name) : Bool :=
  let m := (coreOf s k).mx
  match readName b (atStrand s k i) with
  | .ok x _ => decide (0 ≤ x) && decide (x < 2 ^ 13) && setBusy m (accIndex x.toNat).1 && !(snapshotMode m)
  | _ => false

/-- Whether an instruction finds no room in what it would fill, so that its slot is not eligible (R204, R215, R218, R263, R279): a COPY for want of
a table entry only once it has read its record. A husk's spill
and record take at most five entries of the write queue. -/
def roomHeld (s : State) (k i : Nat) (ins : Instr) : Bool :=
  match ins with
  | .stq _ b c _ disp => storeHeld s k i b c disp
  | .stb _ _ _ _ _ | .stg _ _ _ _ _ | .strel _ _ _ _ _ | .stfe _ _ _ _ | .stff _ _ _ _ | .fefull _ _ _ _ | .amo _ _ _ _ _ _ _ | .cas _ _ _ _ _ _ _
  | .red _ _ _ _ _ _ | .puts _ _ _ => queueRoom s k == 0
  | .vst _ _ _ _ | .vstb _ _ _ _ => queueRoom s k == 0 && !((coreOf s k).seq.owner == some i && (coreOf s k).seq.recording)
  | .huskSave _ _ _ | .huskSaveg _ _ _ => decide (queueRoom s k < 5)
  | .send _ _ _ _ _ => !(outRoom s k i)
  | .copy _ _ _ _ => !(outRoom s k i) || !(slotOf s k i).snap.isEmpty && !(copyRoom (logicalOf s (clusterOfKey k) (unitId s k)))
  | .macc _ b _ => maccHeld s k i b
  | _ => false

/-- What passes a slot over although its instruction is ready (R72, R84, R192, R204): an interlock, the divider, an acquire under way, or
want of room. The divider holds a second DIV or REM of the issuing strand too (log entry 105). -/
def passedOver (s : State) (k i : Nat) (ins : Instr) : Bool :=
  interlocked s k i ins || ((vecTouched (atStrand s k i) 0 ins).any fun v => vecOutstanding s k i v) || acquiring s k i
    || roomHeld s k i ins ||
    (match ins with
     | .div _ _ _ | .rem _ _ _ => decide (cycOf s k < (coreOf s k).divFree)
     | _ => false)

/-- The instruction that a slot would issue: the late-fit trap first (R367), then the one at its PC. -/
def slotInstr (s : State) (k i : Nat) : Option Instr :=
  let x := slotOf s k i
  match lineFor s k i x.pc with
  | none => none
  | some b => some (if x.lateFit.isSome then .lateFitTrap else instrAt b x.pc)

/-- Eligibility of a slot in a cycle (R102). -/
def eligible (s : State) (k i t : Nat) : Bool :=
  let x := slotOf s k i
  x.status == .ready && (isStreamer k || intervalOver x t) &&
    (match slotInstr s k i with
     | none => false
     | some ins => ins == .lateFitTrap || !(passedOver s k i ins))

/-- The slot that the rotation picks (R102). -/
def pickSlot (s : State) (k t : Nat) : Option Nat :=
  ((List.range 16).map fun i => ((coreOf s k).last + 1 + i) % 16).find? fun i => eligible s k i t

/-- Whether a core may issue in a cycle: once at most (R102), but for the bursts of a streamer (R222), and not in a pause (R52), sealed (R293) or
halted for debug (R304). -/
def mayIssue (c : Core) (burst : Bool) (t : Nat) : Bool :=
  !c.sealed && !c.halted && (burst || decide (c.canIssue ≤ t)) && (match c.pauseTo with | none => true | some p => decide (p < t))

/-- Whether a strand takes the first head from the line of its PC (R96): it last issued from another line, or not at all. -/
def entersLine (x : Slot) : Bool := x.atLine != some (lineBase x.pc)

/-- The line after a strand's line requested ahead, if no buffer holds it (R96). -/
def prefetch (s : State) (k i : Nat) (pc : Word) : State :=
  let next := lineBase pc + 66#64
  if (lineFor s k i next).isSome then s else fetchAhead s k (fetchLaunch s k i) next

/-- Whether an instruction is one of the four heads of a burst (R222). -/
def burstHead (i : Instr) : Bool :=
  match i with
  | .ldg _ _ _ _ _ | .stg _ _ _ _ _ | .addi _ _ _ | .bne _ _ _ => true
  | _ => false

/-- The state in which a slot's instruction issues: the latch filled, the rotation moved on, its line used and the next one asked for. -/
def latch (s : State) (k i : Nat) (ins : Instr) : State :=
  let x := slotOf s k i
  let h := match lineFor s k i x.pc with | some b => headsAt b x.pc | none => 0
  let t := cycOf s k
  let s1 := modCore s k fun c =>
    { c with last := i, canIssue := t + 1, lines := match linePa s k i x.pc with | some pa => useLine c.lines pa | none => c.lines }
  let s2 := modSlot s1 k i fun y => { y with lastIssue := some t, lastYield := ins == .yield, atLine := some (lineBase x.pc), burst := if isStreamer k && !(burstHead ins) then y.burst + 1 else y.burst }
  let s3 := if entersLine x then prefetch s2 k i x.pc else s2
  { s3 with cur := { core := k, slot := i, pc := x.pc, h := h } }

/-- One issue cycle of a core: the instruction that issues, if any, and the state it issues in. -/
def issueTurn (s : State) (k : Nat) : Option Instr × State :=
  let t := cycOf s k
  if mayIssue (coreOf s k) (isStreamer k) t then
    match pickSlot s k t with
    | none => (none, s)
    | some i =>
      match slotInstr s k i with
      | none => (none, s)
      | some ins => (some ins, latch s k i ins)
  else (none, s)

end Sys2Proof.Machine
end

