-- ==== Sys2Proof/Machine/Waits.lean ====
section
/-! DEFINITION. The ends of waits (R5, R101): when what a parked strand waits for holds, and where hardware husks a waiting strand (R146,
R165, R209, R297). -/

namespace Sys2Proof.Machine

/-! ### Conditions -/

/-- Whether a strand waits in a reading full/empty operation: such a load also follows its strand's own queued stores (R190). -/
def waitsOnFe (s : State) (k i : Nat) : Bool :=
  match slotInstr s k i with
  | some (.ldfe _ _ _ _) | some (.ldff _ _ _ _) | some (.feempty _ _ _ _) | some (.festate _ _ _ _) => true
  | _ => false

/-- Whether a transfer under retry is to bring a block for a step that waits for it (R356). -/
def beatComing (s : State) (a : Nat) : Bool :=
  inSram a && (clusterOf s (sramCluster a)).beats.any fun b => b.wb == 0 && b.block == a

/-- Whether a load that something had to precede may go on: on this device nothing precedes it any more, and no transfer under retry; for a peer's memory its bytes
have come, or its device is unreachable, or nothing has been asked for and nothing queued is in the way (R190, R334). -/
def aheadOver (s : State) (k i a n : Nat) : Bool :=
  if inPeer a then
    (peerBytes (slotOf s k i) a n).isSome || unreachable s (peerDev a)
      || (clusterOf s (clusterOfKey k)).icache.any (fun b => b.pa == a)
      || (!(filling s k i) && !(lineAsked s (clusterOfKey k) a) && !((shownTo s k i).any fun e => e.op.touches a n))
  else if waitsOnFe s k i then !(feBehind (atStrand s k i) a)
  else !(loadBehind s k i a n) && !(beatComing s a)

/-- Whether what a parked strand waits for holds (R5). Waits that a port, barrier, gather or step ends are not ended here. -/
def waitOver (s : State) (k i : Nat) (w : Wait) : Bool :=
  let x := slotOf s k i
  let bound := x.fenced.getD s.serial
  match w with
  | .queueRead q need => decide (need ≤ poppable (tget (coreOf s k).queues {} q))
  | .queueWrite q need => decide (need ≤ queueCap q - (tget (coreOf s k).queues {} q).entries.length)
  | .fullEmpty _ | .gets _ | .step | .barrier | .align => false
  | .xwait id =>
    match tfind (logicalOf s (clusterOfKey k) (unitId s k)).xfers id.toNat with
    | none => true
    | some e => e.result.isSome
  | .name n => !(outstanding s k i n)
  | .names => namesQuiet s k i
  | .exit => exitReady s k i
  | .hret => !(pushing s k i)
  | .drained scope => !(drainBusy s k i scope bound)
  | .loads => !(readsOut s k i)
  | .acks => !(unacknowledged s k i)
  | .loadCheck => !(readsOut s k i) && !(unacknowledged s k i)
  | .run => !(runBusy s k i)
  | .slotFree c => (List.range 14).any fun j => (slotOf s c j).status == .free
  | .quiet => quiesced s k i
  | .husk => !(huskDue s k i) || huskable s k i
  | .tlbClean kind => !(accessesLeft s kind (clusterOfKey k) bound)
  | .ahead a n => aheadOver s k i a n

/-! ### Waiting strands that hardware husks -/

/-- Whether hardware husks a waiting strand now (R146, R165, R209, R296, R297): at a step boundary for a migration or pre-emption, and for a
pre-emption also in a full/empty, XWAIT, WFE, barrier or ALIGN wait (R95). -/
def huskPoint (s : State) (k i : Nat) : Bool :=
  huskDue s k i && huskable s k i &&
    (match (slotOf s k i).status with
     | .parked .step => (logicalOf s (clusterOfKey k) (unitId s k)).held
     | .parked (.fullEmpty _) | .parked (.xwait _) | .parked .barrier | .parked .align | .sleep => (preemptingQueue s k i).isSome
     | _ => false)

/-- A strand husked where it waits, to wait again when it is resumed; a pending error is raised instead (R178). -/
def huskWaiting (s : State) (k i : Nat) : State :=
  let x := slotOf s k i
  match x.pendErr with
  | some e => takeTrapAt (withdraw (modSlot s k i fun y => { y with pendErr := none }) k i) k i x.pc e.cause e.addr false false
  | none => let (pc, wait) := huskAt x; huskFor s k i pc wait

/-- A wait ended (R5, R101): the strand is ready at its instruction again; a checked load goes on behind it, or traps (R178). -/
def endWait (s : State) (k i : Nat) (w : Wait) : State :=
  let x := slotOf s k i
  match w with
  | .loadCheck =>
    match x.pendErr with
    | some e => takeTrapAt (modSlot s k i fun y => { y with pendErr := none }) k i x.pc e.cause e.addr false false
    | none => finishWait s k i
  | _ => wake s k i

/-- WAIT_END. -/
def execWaitEnd (core slot : Nat) (s : State) : Host.Outcome State Fault Refusal :=
  if huskPoint s core slot then .next (huskWaiting s core slot)
  else
    match (slotOf s core slot).status with
    | .parked w => .next (if waitOver s core slot w then endWait s core slot w else s)
    | _ => .next s

end Sys2Proof.Machine
end

