-- ==== Sys2Proof/Machine/WriteBack.lean ====
section
/-! DEFINITION. Write-backs: values that reach their names after their instruction has issued (R44, R53, R177, R222, R367). -/

namespace Sys2Proof.Machine

/-- A value that did not fit a trap-mode name is noted; the first is kept, and a waiting strand's wait ends: it traps at the waiting
instruction (R367). A checked load is complete, and what waits is the ERRFENCE that follows it (R178): its strand goes on behind it,
unless a pending error is to be raised there first. A strand that waited in STEP keeps its arrival mark in that step (log entry 20), and an idle
handler slot keeps the misfit for its next run (log entry 71). -/
def lateFit (s : State) (k i : Nat) (v : Word) : State :=
  let note := fun (t : State) => modSlot t k i fun x => { x with lateFit := some (x.lateFit.getD v) }
  match (slotOf s k i).status with
  | .parked .loadCheck => if (slotOf s k i).pendErr.isSome then note s else finishWait (note s) k i
  | .parked _ => wake (note (withdraw s k i)) k i
  | .sleep => wake (note s) k i
  | _ => note s

/-- The value filled into a reserved queue entry, which becomes poppable (R252), with its poison mark (R222), or with what tells the popper that
it came poisoned (R177). -/
def fillEntry (s : State) (k q id : Nat) (v : Word) (mark bad : Bool) : State :=
  let d := dqOf s k q
  settleQueue (setDq s k q
    { d with entries := d.entries.map fun e => if e.id == id then { e with val := some v, poison := mark, bad := bad } else e }) k q

/-- A value landed in a declared name through the seat table (R44, R367), with a poison mark on a streamer (R222). -/
def landName (s : State) (k i : Nat) (n : Name) (v : Int) (poison : Bool) : State :=
  match nameOf s k i n with
  | none => s
  | some e =>
    match fitTo v e.width e.signed e.mode with
    | some (u, sat) =>
      let s1 := raiseFlags s k i (if sat then flagSAT else 0#8)
      setName s1 k i n { e.store u with poison := poison }
    | none => lateFit s k i (wordOf v)

/-- A write-back landed: an error that came with it is recorded in its strand (R177), and its value goes to its name or queue entry. An entry keeps
that its data came poisoned, and its pop is an error of the popping strand too (log entry 114). The values of a strand that is gone go nowhere,
except to the names that handler slots keep (R116). In a handler slot the name is looked up in the map then in force, also when another launch's map
has been loaded since the value was asked for: the spec leaves that open (log entry 71). -/
def landWb (s : State) (k : Nat) (w : WriteBack) : State :=
  let x := slotOf s k w.slot
  let s1 := match w.err with
    | some (c, a) => recordErrAt s k w.slot w.uid c a
    | none => s
  let v := w.val.getD 0
  match w.entry with
  | some id => fillEntry s1 k (queueIdx w.name) id (if w.name == 245#8 then wordOf (v % 2) else wordOf v) w.poison (w.err.any (·.1 == 0x0E))
  | none =>
    if x.uid == w.uid || decide (14 ≤ w.slot) then
      if isFixed w.name then modSlot s1 k w.slot fun y => y.setFixed w.name.toNat (wordOf v) w.poison
      else landName s1 k w.slot w.name v w.poison
    else s1

/-- Whether a core is in a pause (R52). -/
def paused (s : State) (k : Nat) : Bool := (coreOf s k).pauseTo.isSome

/-- WRITE_BACK_ARRIVAL: the answered write-back at a position lands; while a pause lasts the core holds 16, and later ones wait in their
units, in arrival order (R53). An unanswered one does nothing yet. -/
def execWriteBackArrival (core idx : Nat) (s : State) : Host.Outcome State Fault Refusal :=
  let c := coreOf s core
  match c.wbs[idx]? with
  | none => .next s
  | some w =>
    if w.val.isNone then .next s
    else if paused s core then
      if c.held.length < 16 then
        .next (setCore s core { c with wbs := dropAt c.wbs idx, held := c.held ++ [w] })
      else .next (setCore s core { c with wbs := dropAt c.wbs idx, late := c.late ++ [w] })
    else .next (landWb (setCore s core { c with wbs := dropAt c.wbs idx }) core w)

/-- PAUSE_END: once the last pause cycle of a core has passed, the write-backs held during the pause are applied in order of arrival, and the
later ones after them (R53); a pause that is to follow begins (R52). -/
def execPauseEnd (core : Nat) (s : State) : Host.Outcome State Fault Refusal :=
  let c := coreOf s core
  match c.pauseTo with
  | none => .next s
  | some p =>
    if p < cycOf s core then
      .next ((c.held ++ c.late).foldl (fun t w => landWb t core w)
        (setCore s core { c with pauseTo := c.pauses.head?.map (p + ·), pauses := c.pauses.drop 1, held := [], late := [] }))
    else .next s

/-- LATE_FIT_TRAP: the strand traps with cause 0x04 at the instruction that would have issued, which takes no effect (R367). -/
def execLateFitTrap (s : State) : Host.Outcome State Fault Refusal :=
  match (curSlot s).lateFit with
  | none => .next s
  | some v => .next (takeTrap (modCur s fun x => { x with lateFit := none }) 0x04 v)

end Sys2Proof.Machine
end

