-- ==== Sys2Proof/Machine/Dispatch.lean ====
section
/-! DEFINITION. The dispatch: one arm for each constructor, each a direct call of that step's meaning. -/

namespace Sys2Proof.Machine

/-- The effect of an instruction or step. -/
def exec (i : Instr) (s : State) : Host.Outcome State Fault Refusal :=
  match i with
  | .nop => Sys2Proof.Machine.execNop s
  | .yield => Sys2Proof.Machine.execYield s
  | .exit => Sys2Proof.Machine.execExit s
  | .step => Sys2Proof.Machine.execStep s
  | .errfence => Sys2Proof.Machine.execErrfence s
  | .hret => Sys2Proof.Machine.execHret s
  | .wfe => Sys2Proof.Machine.execWfe s
  | .tret => Sys2Proof.Machine.execTret s
  | .bkpt => Sys2Proof.Machine.execBkpt s
  | .migpt => Sys2Proof.Machine.execMigpt s
  | .j t => Sys2Proof.Machine.execJ t s
  | .jl a t => Sys2Proof.Machine.execJl a t s
  | .jr a => Sys2Proof.Machine.execJr a s
  | .jlr a b => Sys2Proof.Machine.execJlr a b s
  | .beq b c t => Sys2Proof.Machine.execBeq b c t s
  | .bne b c t => Sys2Proof.Machine.execBne b c t s
  | .blt b c t => Sys2Proof.Machine.execBlt b c t s
  | .ble b c t => Sys2Proof.Machine.execBle b c t s
  | .bgt b c t => Sys2Proof.Machine.execBgt b c t s
  | .bge b c t => Sys2Proof.Machine.execBge b c t s
  | .bqt t => Sys2Proof.Machine.execBqt t s
  | .bqf t => Sys2Proof.Machine.execBqf t s
  | .bz a t => Sys2Proof.Machine.execBz a t s
  | .bnz a t => Sys2Proof.Machine.execBnz a t s
  | .loop a t => Sys2Proof.Machine.execLoop a t s
  | .align tag timeout => Sys2Proof.Machine.execAlign tag timeout s
  | .add a b c => Sys2Proof.Machine.execAdd a b c s
  | .sub a b c => Sys2Proof.Machine.execSub a b c s
  | .and a b c => Sys2Proof.Machine.execAnd a b c s
  | .or a b c => Sys2Proof.Machine.execOr a b c s
  | .xor a b c => Sys2Proof.Machine.execXor a b c s
  | .shl a b c => Sys2Proof.Machine.execShl a b c s
  | .shr a b c => Sys2Proof.Machine.execShr a b c s
  | .mul a b c => Sys2Proof.Machine.execMul a b c s
  | .mov a b => Sys2Proof.Machine.execMov a b s
  | .addi a b imm => Sys2Proof.Machine.execAddi a b imm s
  | .rsubi a b imm => Sys2Proof.Machine.execRsubi a b imm s
  | .andi a b imm => Sys2Proof.Machine.execAndi a b imm s
  | .ori a b imm => Sys2Proof.Machine.execOri a b imm s
  | .xori a b imm => Sys2Proof.Machine.execXori a b imm s
  | .shli a b count => Sys2Proof.Machine.execShli a b count s
  | .shri a b count => Sys2Proof.Machine.execShri a b count s
  | .muli a b imm => Sys2Proof.Machine.execMuli a b imm s
  | .mini a b imm => Sys2Proof.Machine.execMini a b imm s
  | .maxi a b imm => Sys2Proof.Machine.execMaxi a b imm s
  | .ceqi a b imm => Sys2Proof.Machine.execCeqi a b imm s
  | .cnei a b imm => Sys2Proof.Machine.execCnei a b imm s
  | .clti a b imm => Sys2Proof.Machine.execClti a b imm s
  | .clei a b imm => Sys2Proof.Machine.execClei a b imm s
  | .cgti a b imm => Sys2Proof.Machine.execCgti a b imm s
  | .cgei a b imm => Sys2Proof.Machine.execCgei a b imm s
  | .mulh a b c => Sys2Proof.Machine.execMulh a b c s
  | .div a b c => Sys2Proof.Machine.execDiv a b c s
  | .rem a b c => Sys2Proof.Machine.execRem a b c s
  | .andn a b c => Sys2Proof.Machine.execAndn a b c s
  | .rot a b c => Sys2Proof.Machine.execRot a b c s
  | .min a b c => Sys2Proof.Machine.execMin a b c s
  | .max a b c => Sys2Proof.Machine.execMax a b c s
  | .abs a b => Sys2Proof.Machine.execAbs a b s
  | .neg a b => Sys2Proof.Machine.execNeg a b s
  | .clz a b => Sys2Proof.Machine.execClz a b s
  | .ctz a b => Sys2Proof.Machine.execCtz a b s
  | .popc a b => Sys2Proof.Machine.execPopc a b s
  | .bfx a b c d => Sys2Proof.Machine.execBfx a b c d s
  | .bfi a b c d => Sys2Proof.Machine.execBfi a b c d s
  | .sel a b c d => Sys2Proof.Machine.execSel a b c d s
  | .lea a b c sh => Sys2Proof.Machine.execLea a b c sh s
  | .ceq a b c => Sys2Proof.Machine.execCeq a b c s
  | .cne a b c => Sys2Proof.Machine.execCne a b c s
  | .clt a b c => Sys2Proof.Machine.execClt a b c s
  | .cle a b c => Sys2Proof.Machine.execCle a b c s
  | .cgt a b c => Sys2Proof.Machine.execCgt a b c s
  | .cge a b c => Sys2Proof.Machine.execCge a b c s
  | .movi a imm => Sys2Proof.Machine.execMovi a imm s
  | .mapld b c disp => Sys2Proof.Machine.execMapld b c disp s
  | .maprel => Sys2Proof.Machine.execMaprel s
  | .resize b width => Sys2Proof.Machine.execResize b width s
  | .resizev v count => Sys2Proof.Machine.execResizev v count s
  | .setmode b sgn mode => Sys2Proof.Machine.execSetmode b sgn mode s
  | .widthof b c => Sys2Proof.Machine.execWidthof b c s
  | .modeof b c => Sys2Proof.Machine.execModeof b c s
  | .seatof b c => Sys2Proof.Machine.execSeatof b c s
  | .fork a b t => Sys2Proof.Machine.execFork a b t s
  | .huskSave b c disp => Sys2Proof.Machine.execHuskSave b c disp s
  | .huskRun b c disp => Sys2Proof.Machine.execHuskRun b c disp s
  | .huskSaveg b c disp => Sys2Proof.Machine.execHuskSaveg b c disp s
  | .huskRung b c disp => Sys2Proof.Machine.execHuskRung b c disp s
  | .evsend a => Sys2Proof.Machine.execEvsend a s
  | .depset b subs idx => Sys2Proof.Machine.execDepset b subs idx s
  | .skewset limit => Sys2Proof.Machine.execSkewset limit s
  | .ringset b ring depth => Sys2Proof.Machine.execRingset b ring depth s
  | .pace => Sys2Proof.Machine.execPace s
  | .unpace => Sys2Proof.Machine.execUnpace s
  | .puts a ring off => Sys2Proof.Machine.execPuts a ring off s
  | .gets a b c ring off => Sys2Proof.Machine.execGets a b c ring off s
  | .ldq a b c size disp => Sys2Proof.Machine.execLdq a b c size disp s
  | .stq a b c size disp => Sys2Proof.Machine.execStq a b c size disp s
  | .ldb a b c disp bits => Sys2Proof.Machine.execLdb a b c disp bits s
  | .stb a b c disp bits => Sys2Proof.Machine.execStb a b c disp bits s
  | .ldg a b c size disp => Sys2Proof.Machine.execLdg a b c size disp s
  | .stg a b c size disp => Sys2Proof.Machine.execStg a b c size disp s
  | .ldfe a b c d => Sys2Proof.Machine.execLdfe a b c d s
  | .ldff a b c d => Sys2Proof.Machine.execLdff a b c d s
  | .stfe a b c d => Sys2Proof.Machine.execStfe a b c d s
  | .stff a b c d => Sys2Proof.Machine.execStff a b c d s
  | .fefull a b c d => Sys2Proof.Machine.execFefull a b c d s
  | .feempty a b c d => Sys2Proof.Machine.execFeempty a b c d s
  | .festate a b c d => Sys2Proof.Machine.execFestate a b c d s
  | .win a b c kind size => Sys2Proof.Machine.execWin a b c kind size s
  | .fence kind scope => Sys2Proof.Machine.execFence kind scope s
  | .ldacq a b size scope disp => Sys2Proof.Machine.execLdacq a b size scope disp s
  | .strel a b size scope disp => Sys2Proof.Machine.execStrel a b size scope disp s
  | .amo a b c op size order scope => Sys2Proof.Machine.execAmo a b c op size order scope s
  | .cas a b c d size order scope => Sys2Proof.Machine.execCas a b c d size order scope s
  | .red a b op size order scope => Sys2Proof.Machine.execRed a b op size order scope s
  | .bar nowait id => Sys2Proof.Machine.execBar nowait id s
  | .send scope rel b c n => Sys2Proof.Machine.execSend scope rel b c n s
  | .copy a b c disp => Sys2Proof.Machine.execCopy a b c disp s
  | .xwait a => Sys2Proof.Machine.execXwait a s
  | .rpbegin => Sys2Proof.Machine.execRpbegin s
  | .rpend => Sys2Proof.Machine.execRpend s
  | .rprun b c disp => Sys2Proof.Machine.execRprun b c disp s
  | .rpruni n => Sys2Proof.Machine.execRpruni n s
  | .rpwait => Sys2Proof.Machine.execRpwait s
  | .vadd a b c => Sys2Proof.Machine.execVadd a b c s
  | .vsub a b c => Sys2Proof.Machine.execVsub a b c s
  | .vmul a b c => Sys2Proof.Machine.execVmul a b c s
  | .vmin a b c => Sys2Proof.Machine.execVmin a b c s
  | .vmax a b c => Sys2Proof.Machine.execVmax a b c s
  | .vand a b c => Sys2Proof.Machine.execVand a b c s
  | .vor a b c => Sys2Proof.Machine.execVor a b c s
  | .vxor a b c => Sys2Proof.Machine.execVxor a b c s
  | .vshl a b c => Sys2Proof.Machine.execVshl a b c s
  | .vshr a b c => Sys2Proof.Machine.execVshr a b c s
  | .vceq a b c => Sys2Proof.Machine.execVceq a b c s
  | .vclt a b c => Sys2Proof.Machine.execVclt a b c s
  | .vcle a b c => Sys2Proof.Machine.execVcle a b c s
  | .vfma a b c d => Sys2Proof.Machine.execVfma a b c d s
  | .vfms a b c d => Sys2Proof.Machine.execVfms a b c d s
  | .vsel a b c d => Sys2Proof.Machine.execVsel a b c d s
  | .vmov a b => Sys2Proof.Machine.execVmov a b s
  | .vabs a b => Sys2Proof.Machine.execVabs a b s
  | .vneg a b => Sys2Proof.Machine.execVneg a b s
  | .vexp2 a b => Sys2Proof.Machine.execVexp2 a b s
  | .vlog2 a b => Sys2Proof.Machine.execVlog2 a b s
  | .vrcp a b => Sys2Proof.Machine.execVrcp a b s
  | .vrsq a b => Sys2Proof.Machine.execVrsq a b s
  | .vfloor a b => Sys2Proof.Machine.execVfloor a b s
  | .vcvt a b ty => Sys2Proof.Machine.execVcvt a b ty s
  | .vqnt a b c ty => Sys2Proof.Machine.execVqnt a b c ty s
  | .vdqnt a b c => Sys2Proof.Machine.execVdqnt a b c s
  | .voutl a b c => Sys2Proof.Machine.execVoutl a b c s
  | .vld a b c d => Sys2Proof.Machine.execVld a b c d s
  | .vst a b c d => Sys2Proof.Machine.execVst a b c d s
  | .vldb a b c d => Sys2Proof.Machine.execVldb a b c d s
  | .vstb a b c d => Sys2Proof.Machine.execVstb a b c d s
  | .vtoq q v => Sys2Proof.Machine.execVtoq q v s
  | .vfromq v q => Sys2Proof.Machine.execVfromq v q s
  | .vanyq q v => Sys2Proof.Machine.execVanyq q v s
  | .vallq q v => Sys2Proof.Machine.execVallq q v s
  | .macc a b c => Sys2Proof.Machine.execMacc a b c s
  | .mstat a => Sys2Proof.Machine.execMstat a s
  | .sysrd a n => Sys2Proof.Machine.execSysrd a n s
  | .syswr a n => Sys2Proof.Machine.execSyswr a n s
  | .trap imm => Sys2Proof.Machine.execTrap imm s
  | .tlbinv b kind => Sys2Proof.Machine.execTlbinv b kind s
  | .quiesce => Sys2Proof.Machine.execQuiesce s
  | .setrm mode => Sys2Proof.Machine.execSetrm mode s
  | .flagrd b => Sys2Proof.Machine.execFlagrd b s
  | .flagclr mask => Sys2Proof.Machine.execFlagclr mask s
  | .trapMessage cluster => Sys2Proof.Machine.execTrapMessage cluster s
  | .lateFitTrap => Sys2Proof.Machine.execLateFitTrap s
  | .writeBackArrival core idx => Sys2Proof.Machine.execWriteBackArrival core idx s
  | .waitEnd core slot => Sys2Proof.Machine.execWaitEnd core slot s
  | .pauseEnd core => Sys2Proof.Machine.execPauseEnd core s
  | .checkerReplay => Sys2Proof.Machine.execCheckerReplay s
  | .lineFill core slot => Sys2Proof.Machine.execLineFill core slot s
  | .alignDeadline cluster idx => Sys2Proof.Machine.execAlignDeadline cluster idx s
  | .slotArbiterBoundary core => Sys2Proof.Machine.execSlotArbiterBoundary core s
  | .launchPlacement launch core => Sys2Proof.Machine.execLaunchPlacement launch core s
  | .launchCompletion launch => Sys2Proof.Machine.execLaunchCompletion launch s
  | .handlerStart core slot => Sys2Proof.Machine.execHandlerStart core slot s
  | .messageArrival m => Sys2Proof.Machine.execMessageArrival m s
  | .messageRetry core => Sys2Proof.Machine.execMessageRetry core s
  | .eventArrival target => Sys2Proof.Machine.execEventArrival target s
  | .copyRequest core entry => Sys2Proof.Machine.execCopyRequest core entry s
  | .resumePacket core slot zero verdict pc value => Sys2Proof.Machine.execResumePacket core slot zero verdict pc value s
  | .completionArrival target handler xid status => Sys2Proof.Machine.execCompletionArrival target handler xid status s
  | .announceArrival dst producer count restart ended => Sys2Proof.Machine.execAnnounceArrival dst producer count restart ended s
  | .countRequest dst subscriber => Sys2Proof.Machine.execCountRequest dst subscriber s
  | .stepFinish core => Sys2Proof.Machine.execStepFinish core s
  | .stepBegin core => Sys2Proof.Machine.execStepBegin core s
  | .getsArrival g => Sys2Proof.Machine.execGetsArrival g s
  | .getsRetry g => Sys2Proof.Machine.execGetsRetry g s
  | .feopRetry core slot => Sys2Proof.Machine.execFeopRetry core slot s
  | .storePerformed quad idx => Sys2Proof.Machine.execStorePerformed quad idx s
  | .atomicPerform quad idx => Sys2Proof.Machine.execAtomicPerform quad idx s
  | .faultQueueRetry quad idx => Sys2Proof.Machine.execFaultQueueRetry quad idx s
  | .vbusRetryAttempt cluster channel => Sys2Proof.Machine.execVbusRetryAttempt cluster channel s
  | .laneSwap cluster channel lane => Sys2Proof.Machine.execLaneSwap cluster channel lane s
  | .rpRunEntry core => Sys2Proof.Machine.execRpRunEntry core s
  | .mctx core => Sys2Proof.Machine.execMctx core s
  | .mzero core => Sys2Proof.Machine.execMzero core s
  | .mtile core => Sys2Proof.Machine.execMtile core s
  | .mma core => Sys2Proof.Machine.execMma core s
  | .mread core => Sys2Proof.Machine.execMread core s
  | .mfence core => Sys2Proof.Machine.execMfence core s
  | .resumeSlot core slot => Sys2Proof.Machine.execResumeSlot core slot s
  | .freeSlot core slot => Sys2Proof.Machine.execFreeSlot core slot s
  | .huskSlot core slot addr => Sys2Proof.Machine.execHuskSlot core slot addr s
  | .haltCore core => Sys2Proof.Machine.execHaltCore core s
  | .releaseCore core => Sys2Proof.Machine.execReleaseCore core s
  | .resetAndUnsealCore core => Sys2Proof.Machine.execResetAndUnsealCore core s
  | .migreq cluster v => Sys2Proof.Machine.execMigreq cluster v s
  | .coremapSwap cluster logical phys => Sys2Proof.Machine.execCoremapSwap cluster logical phys s
  | .barcfg cluster v => Sys2Proof.Machine.execBarcfg cluster v s
  | .barcancel cluster v => Sys2Proof.Machine.execBarcancel cluster v s
  | .flagunionClear cluster v => Sys2Proof.Machine.execFlagunionClear cluster v s
  | .logEntryRemove cluster vbus v => Sys2Proof.Machine.execLogEntryRemove cluster vbus v s
  | .inject cluster v => Sys2Proof.Machine.execInject cluster v s
  | .storehold cluster v => Sys2Proof.Machine.execStorehold cluster v s
  | .oppointRequest core v => Sys2Proof.Machine.execOppointRequest core v s
  | .energyLoRead core slot => Sys2Proof.Machine.execEnergyLoRead core slot s
  | .registerWrite off v => Sys2Proof.Machine.execRegisterWrite off v s
  | .resvRead queue => Sys2Proof.Machine.execResvRead queue s
  | .commit queue v => Sys2Proof.Machine.execCommit queue v s
  | .nopPacket queue => Sys2Proof.Machine.execNopPacket queue s
  | .launch queue => Sys2Proof.Machine.execLaunch queue s
  | .launchExt queue => Sys2Proof.Machine.execLaunchExt queue s
  | .sheafBegin queue => Sys2Proof.Machine.execSheafBegin queue s
  | .sheafCommit queue => Sys2Proof.Machine.execSheafCommit queue s
  | .signal queue => Sys2Proof.Machine.execSignal queue s
  | .waitPacket queue => Sys2Proof.Machine.execWaitPacket queue s
  | .waitPoll queue => Sys2Proof.Machine.execWaitPoll queue s
  | .setweight queue => Sys2Proof.Machine.execSetweight queue s
  | .setsec queue => Sys2Proof.Machine.execSetsec queue s
  | .preempt queue => Sys2Proof.Machine.execPreempt queue s
  | .preemptDeadline queue => Sys2Proof.Machine.execPreemptDeadline queue s
  | .resumeq queue => Sys2Proof.Machine.execResumeq queue s
  | .resetq queue => Sys2Proof.Machine.execResetq queue s
  | .drain => Sys2Proof.Machine.execDrain s
  | .seal => Sys2Proof.Machine.execSeal s
  | .fwstage => Sys2Proof.Machine.execFwstage s
  | .fwactivate => Sys2Proof.Machine.execFwactivate s
  | .attest => Sys2Proof.Machine.execAttest s
  | .setmigt => Sys2Proof.Machine.execSetmigt s
  | .secregion => Sys2Proof.Machine.execSecregion s
  | .migrationRequest cluster logical target => Sys2Proof.Machine.execMigrationRequest cluster logical target s
  | .budgetPeriod uncore demand => Sys2Proof.Machine.execBudgetPeriod uncore demand s
  | .voltageTrim quad slack => Sys2Proof.Machine.execVoltageTrim quad slack s
  | .thermalSample quad sensor => Sys2Proof.Machine.execThermalSample quad sensor s
  | .enumRefresh => Sys2Proof.Machine.execEnumRefresh s
  | .hostCxlMemAccess write off data => Sys2Proof.Machine.execHostCxlMemAccess write off data s
  | .deviceReset => Sys2Proof.Machine.execDeviceReset s
  | .flit port data crc side => Sys2Proof.Machine.execFlit port data crc side s
  | .linkDead port => Sys2Proof.Machine.execLinkDead port s
  | .laneFailure port good => Sys2Proof.Machine.execLaneFailure port good s
  | .portUp port peer peerPort good => Sys2Proof.Machine.execPortUp port peer peerPort good s
  | .read p => Sys2Proof.Machine.execRead p s
  | .write p => Sys2Proof.Machine.execWrite p s
  | .atomic p => Sys2Proof.Machine.execAtomic p s
  | .msg p => Sys2Proof.Machine.execMsg p s
  | .steprd p => Sys2Proof.Machine.execSteprd p s
  | .resp p => Sys2Proof.Machine.execResp p s
  | .ack p => Sys2Proof.Machine.execAck p s
  | .standaloneAck peer cls => Sys2Proof.Machine.execStandaloneAck peer cls s
  | .replayTimeout peer cls => Sys2Proof.Machine.execReplayTimeout peer cls s
  | .installNotice version table => Sys2Proof.Machine.execInstallNotice version table s
  | .activateNotice version => Sys2Proof.Machine.execActivateNotice version s
  | .unreachableNotice device => Sys2Proof.Machine.execUnreachableNotice device s
  | .illegalEncoding => Sys2Proof.Machine.execIllegalEncoding s
  | .kBlockCompletion core => Sys2Proof.Machine.execKBlockCompletion core s
  | .fabricManagerTold device port up => Sys2Proof.Machine.execFabricManagerTold device port up s
  | .installAck device version => Sys2Proof.Machine.execInstallAck device version s
  | .domainFormation self size links => Sys2Proof.Machine.execDomainFormation self size links s
  | .recovery => Sys2Proof.Machine.execRecovery s

end Sys2Proof.Machine
end

