-- ==== Sys2Proof/Machine/Pending.lean ====
section
/-! DEFINITION. What happens next (log entry 4): the turns listed, then the agenda and the steps whose conditions hold, then issue. -/

namespace Sys2Proof.Machine

/-! ### The steps whose conditions hold -/

/-- A step offered when its condition holds. -/
def offer (b : Bool) (i : Instr) : List Instr := if b then [i] else []

/-- Whether the line of a slot's PC has been asked of a peer and has not come, or waits behind a parked atomic (R205). -/
def lineComing (s : State) (k i : Nat) (pc : Word) : Bool :=
  match lineAt s k i pc with
  | some pa => lineAsked s (clusterOfKey k) pa || wordBlocked s pa 64
  | none => false

/-- Whether a transfer under retry is to bring something for a step that waits for it. -/
def transferring (s : State) : Bool := s.clusters.any fun e => e.2.beats.any fun b => b.wb == 0

/-- The steps of one slot: its line, the end of its wait, its next handler run. -/
def slotSteps (s : State) (k : Nat) (c : Core) (i : Nat) (x : Slot) : List Instr :=
  match x.status with
  | .ready => offer (!c.sealed && wantsLine s k i && !(lineComing s k i x.pc)) (.lineFill k i)
  | .parked w => offer (waitOver s k i w || huskPoint s k i) (.waitEnd k i)
  | .sleep => offer (huskPoint s k i) (.waitEnd k i)
  | _ => []

/-- Whether the last pause cycle of a core has passed (R52). -/
def pauseOver (s : State) (k : Nat) (c : Core) : Bool :=
  match c.pauseTo with
  | some p => decide (p < cycOf s k)
  | none => false

/-- Whether the executing MMA of a core may go on to its next block (R205). -/
def blockGoes (s : State) (k : Nat) (m : Matrix) : Bool :=
  match m.exec, m.ctx with
  | some e, some x => !(anyBlocked s (blockWords k x e))
  | _, _ => false

/-- The steps of one core, supervisor or streamer. -/
def coreSteps (s : State) (k : Nat) (c : Core) : List Instr :=
  let cl := clusterOfKey k
  let l := unitId s k
  c.slots.flatMap (fun e => slotSteps s k c e.1 e.2)
    ++ offer (!c.wanted.isEmpty && !(transferring s)) (.lineFill k 16)
    ++ (match indexWhere (fun w : WriteBack => w.val.isSome) c.wbs with
        | some j => [.writeBackArrival k j]
        | none => [])
    ++ offer (!c.sealed && !c.halted && !(isStreamer k) && (nextInbox c).isSome && (slotOf s k 15).status == .free) (.handlerStart k 15)
    ++ offer (!c.sealed && !c.halted && !(isStreamer k) && !(logicalOf s cl l).comps.isEmpty && (slotOf s k 14).status == .free) (.handlerStart k 14)
    ++ (if isStreamer k && (freeWork s k).isSome then (nextInbox c).toList.map fun e => .copyRequest k e.entry else [])
    ++ (c.outbuf.filter fun e => !e.retrying && !e.sent && !(earlierTo s c.outbuf e.msg)).map (fun e => .messageArrival e.msg)
    ++ offer (c.outbuf.any fun e => e.retrying && decide (e.due ≤ s.uncore)) (.messageRetry k)
    ++ offer (isCore k && canFinish s cl l) (.stepFinish k)
    ++ offer (isCore k && canBegin s cl l) (.stepBegin k)
    ++ offer c.seq.run.isSome (.rpRunEntry k)
    ++ offer (blockGoes s k c.mx) (.kBlockCompletion k)

/-- The step that takes a core's next matrix command. -/
def matrixStep (s : State) (k : Nat) : List Instr :=
  match (coreOf s k).mx.queue with
  | [] => []
  | c :: _ =>
    let n := cmdKind c.words
    offer (!(cmdHeld s k c)) <|
     if n == 2 then .mzero k else if n == 3 then .mma k else if n == 4 then .mread k else if n == 5 then .mfence k else if n == 6 then .mtile k
     else .mctx k

/-- The quads that have a core with matrix commands. -/
def matrixQuads (s : State) : List Nat :=
  (s.cores.filter fun e => isCore e.1 && !e.2.mx.queue.isEmpty).foldl (fun l e => sput l (quadOfKey e.1)) []

/-- The steps of one write queue and port. -/
def quadSteps (s : State) (q : Nat) (x : Quad) : List Instr :=
  (match (List.range x.wq.length).find? (canPerform s q) with
   | none => []
   | some j =>
     match x.wq[j]? with
     | none => []
     | some e => (match e.op with | .atomic _ => [.atomicPerform q j] | _ => [.storePerformed q j]))
    ++ (match (List.range x.feWaits.length).find? (heldGoes s q) with
        | some j => [.storePerformed q (x.wq.length + j)]
        | none => [])
    ++ (x.feRetry.filter fun w => decide (w.due ≤ s.uncore)).map (fun w => .feopRetry w.core w.slot)
    ++ (x.stepRetry.filter fun e => decide (e.1 ≤ s.uncore)).map fun e => .getsRetry e.2

/-- Whether the SLOTCTL action in progress can go on now. -/
def slotctlGoes (s : State) (i : Instr) : Bool :=
  match i with
  | .huskSlot k j _ => huskRefused s k j || (slotOf s k j).pendErr.isSome || huskable s k j
  | .resumeSlot k j => !(lineComing s k j (slotOf s k j).trapPc)
  | _ => true

/-- The steps of one cluster. -/
def clusterSteps (s : State) (c : Nat) (x : Cluster) : List Instr :=
  offer (!x.lineWaits.isEmpty && portFree s c) (.lineFill (keyOf c 64) 0)
    ++ offer (!x.trapWaits.isEmpty && (freeEntry s (keyOf c 64) 16 64).isSome) (.trapMessage c)
    ++ x.slotctlOp.toList.filter (slotctlGoes s)
    ++ (x.beats.filter fun b => b.swapAt.isNone && decide (b.due ≤ s.uncore)).map (fun b => .vbusRetryAttempt c b.chan)
    ++ (x.beats.filter fun b => match b.swapAt with | some t => decide (t ≤ s.uncore) | none => false).map fun b => .laneSwap c b.chan (b.lane.getD 0)

/-- The step of one launch on one core: its placement. Its strands are seeded at the arbiter's boundaries. -/
def placeSteps (s : State) (id : Nat) (x : Launch) (c l : Nat) : List Instr :=
  let k := physKey s c l
  if (coreOf s k).sealed || placedOn x c l then []
  else
    match takeBarriers s id x c with
    | none => []
    | some _ => offer ((!x.bars.isEmpty && !(x.barClusters.contains c)) || coreReady s k x) (.launchPlacement id k)

/-- The steps of one launch. -/
def launchSteps (s : State) (id : Nat) (x : Launch) : List Instr :=
  offer ((x.ending.isSome && !(strandsOf s id).isEmpty) || launchDone s id x || restartFailed s id) (.launchCompletion id)
    ++ (if placeable s x && !(allStarted x) then (launchCores x).flatMap fun e => placeSteps s id x e.1 e.2 else [])

/-- The step of a packet of a kind. -/
def packetInstr (q kind : Nat) : Instr :=
  if kind == 2 then .launch q else if kind == 3 then .sheafBegin q else if kind == 4 then .sheafCommit q else if kind == 5 then .signal q
  else if kind == 6 then .waitPacket q else if kind == 7 then .launchExt q else .nopPacket q

/-- The step of the packet that a queue's front end deals with next. -/
def queueSteps (s : State) (q : Nat) (x : Queue) : List Instr :=
  (if x.checking.isSome then offer x.codeAsked.isNone (packetInstr q (pktKind ((x.held.head?.map (·.2)).getD [])))
   else if mayAct s q then
     match x.held with
     | [] => []
     | m :: _ =>
       let n := pktKind m.2
       if n == 6 then [.waitPoll q]
       else offer ((n != 2 && n != 5 && n != 7) || (n == 5 && signalReady s q) || (n == 2 && (wantsExt m.2 || mayEnter s q)) || (n == 7 && mayEnter s q))
         (packetInstr q n)
   else if mayConsume s q then [packetInstr q (pktKind (headPacket s q))] else [])
    ++ offer (x.state == 2 && saveReady s q) (.preempt q)
    ++ offer (x.state == 2 && decide (x.deadline ≤ s.uncore) && !(saveReady s q)) (.preemptDeadline q)
    ++ offer (!x.restarts.isEmpty && x.codeAsked.isNone) (.resumeq q)

/-- The refusals of runs that their bursts left short of their sectors (R176). -/
def runSteps (s : State) : List Instr :=
  ((List.range s.runs.length).zip s.runs).filterMap fun e =>
    let q := queueKey e.2.entry.core
    if runOver s e.2 then some (.storePerformed q ((quadOf s q).wq.length + (quadOf s q).feWaits.length + e.1)) else none

/-- The steps whose conditions hold in a state. The enumeration shadow is refreshed every millisecond of 2,250,000 uncore cycles (R331). -/
def enabled (s : State) : List Instr :=
  s.cores.flatMap (fun e => coreSteps s e.1 e.2)
    ++ (matrixQuads s).flatMap (fun q => (mxNext s q).toList.flatMap (matrixStep s))
    ++ s.quads.flatMap (fun e => quadSteps s e.1 e.2)
    ++ runSteps s
    ++ (s.fab.flows.filter fun e => replayDue s e.2).map (fun e => .replayTimeout (e.1 / 2) (e.1 % 2))
    ++ (s.fab.flows.filter fun e => ackDue s e.2).map (fun e => .standaloneAck (e.1 / 2) (e.1 % 2))
    ++ s.clusters.flatMap (fun e => clusterSteps s e.1 e.2)
    ++ ((s.hwMsgs.filter (hwReady s)).map fun h => .messageArrival h.msg)
    ++ s.queues.flatMap (fun e => queueSteps s e.1 e.2)
    ++ s.launches.flatMap (fun e => launchSteps s e.1 e.2)
    ++ offer (decide (s.dev.gen.toNat / 2 < s.uncore / 2250000) || s.dev.gen.toNat % 2 == 1) .enumRefresh

/-! ### Steps that an uncore cycle does not pass by (log entry 81) -/

/-- The retries and lane swaps of a cluster that are due: each comes in its own cycle (R174, R356, R359). -/
def dueBeats (s : State) (c : Nat) (x : Cluster) : List Instr :=
  x.beats.filterMap fun b =>
    match b.swapAt with
    | none => if b.due ≤ s.uncore then some (.vbusRetryAttempt c b.chan) else none
    | some t => if t ≤ s.uncore then some (.laneSwap c b.chan (b.lane.getD 0)) else none

/-- The gather of a cluster that is to be released in this cycle (R95): its deadline has come, or a strand that was no member has left its launch's
live strands in the cluster, and all that are left are members. -/
def dueGather (s : State) (c : Nat) (x : Cluster) : Option Instr :=
  (indexWhere (fun g : Gather => decide (g.deadline ≤ s.uncore) || gatherFull s c g) x.gathers).map (.alignDeadline c)

/-- The steps that belong to this cycle: channel retries and swaps, the ends of pauses (R53), the releases of gathers (R95), and what the arbiters
do (R49, R105). -/
def dueNow (s : State) : Option Instr :=
  ((((s.clusters.flatMap fun e => dueBeats s e.1 e.2).head?
    <|> (s.cores.find? fun e => pauseOver s e.1 e.2).map fun e => .pauseEnd e.1)
    <|> s.clusters.findSome? fun e => dueGather s e.1 e.2)
    <|> ((boundaryCores s).find? (boundaryDue s)).map .slotArbiterBoundary)

/-- The bounded COPYs whose reads are to be hurried on: the core and the streamer of each (R354). -/
def hurried (s : State) : List (Nat × Nat) :=
  s.clusters.flatMap fun c => c.2.logicals.flatMap fun l => l.2.xfers.filterMap fun e =>
    match e.2.hurry with
    | some (k, t) => if e.2.result.isNone && decide (t ≤ s.uncore) then some (physKey s c.1 l.1, k) else none
    | none => none

/-- The steps that such a COPY may need: its request's, its streamer's, and those of the streamer's write queue. -/
def hurrySteps (s : State) (core k : Nat) : List Instr :=
  let c := coreOf s core
  ((c.outbuf.filter fun e => decide (64 < agentUnit e.msg.target) && !e.retrying && !e.sent && !(earlierTo s c.outbuf e.msg)).map fun e =>
      Instr.messageArrival e.msg)
    ++ offer (c.outbuf.any fun e => e.retrying && decide (e.due ≤ s.uncore)) (.messageRetry core)
    ++ coreSteps s k (coreOf s k) ++ quadSteps s (queueKey k) (quadOf s (queueKey k))

/-- Steps taken in one uncore cycle on behalf of bounded COPYs, at most: a step that makes no progress must not keep time from passing (log entry
81). -/
def hasteLimit : Nat := 1048576

/-- Whether a step is the arrival of a COPY's completion. -/
def isCompletion (i : Instr) : Bool := match i with | .completionArrival _ _ _ _ => true | _ => false

/-- An agenda entry taken. -/
def takeAgenda (s : State) (n : Nat) : Option Instr × State :=
  match s.agenda[n]? with
  | some i => (some i, { s with agenda := dropAt s.agenda n })
  | none => (none, s)

/-- A step of a bounded COPY, of each in its turn: by turns one that is enabled and an issue of its streamer; completions that have arrived come
first. None when no COPY is to be hurried, or the cycle has had its share. -/
def haste (s : State) : Option (Option Instr × State) :=
  let h := hurried s
  match h[s.haste / 2 % h.length]? with
  | none => none
  | some (core, k) =>
    if hasteLimit ≤ s.haste then none
    else
      let s1 := { s with haste := s.haste + 1 }
      let l := hurrySteps s core k
      match indexWhere isCompletion s.agenda with
      | some n => some (takeAgenda s1 n)
      | none =>
        match l[s.haste / 2 / h.length % l.length]? with
        | some i => if s.haste % 2 == 0 then some (some i, s1) else some (issueTurn s1 k)
        | none => some (issueTurn s1 k)

/-! ### Turns -/

/-- A new uncore cycle. -/
def tick (s : State) : State := { s with uncore := s.uncore + 1, haste := 0 }

/-- A core that has something to issue or a clock to advance: a strand, or a pause. -/
def activeCore (c : Core) : Bool := c.pauseTo.isSome || c.slots.any fun e => live e.2

/-- The cores that take issue cycles, in order of keys. -/
def activeCores (s : State) : List Nat := (s.cores.filter fun e => activeCore e.2).map (·.1)

/-- Whether a step is one that no encoding names and that acts on its own operands, not on the issue latch. -/
def standsAlone (i : Instr) : Bool :=
  i.fields.isNone && i != .lateFitTrap && i != .illegalEncoding && i != .checkerReplay

/-- An issue cycle in which the checker finds a mismatch (R292). -/
def replayTurn (s : State) (k : Nat) : Option Instr × State :=
  match issueTurn s k with
  | (some _, t) => (some .checkerReplay, t)
  | r => r

/-- A listed turn. -/
def takeTurn (t : Turn) (s : State) : Option Instr × State :=
  match t with
  | .issue k => issueTurn s k
  | .replay k => replayTurn s k
  | .agenda n => takeAgenda s n
  | .act i => if standsAlone i then (some i, s) else (none, s)
  | .host a bs p => (none, replayParked (performStore s (bs.zipIdx.map fun e => { addr := hostPa (a + e.2), val := e.1 }) p))
  | .flip wa bit => (none, flipBit s wa bit)
  | .sector a media => (none, if media then { s with mediaBad := sput s.mediaBad (sectorOf a) } else { s with tagBad := sput s.tagBad (sectorOf a) })

/-- Whether a core has a slot eligible in this cycle and has not had its issue (R102). -/
def owesIssue (s : State) (k : Nat) : Bool := decide ((coreOf s k).canIssue ≤ cycOf s k) && (issueTurn s k).1.isSome

/-- The line of a slot that waits for one that no peer and no transfer under retry is to bring. -/
def owedFill (s : State) : Option Instr :=
  if transferring s then none
  else s.cores.findSome? fun e => e.2.slots.findSome? fun x =>
    if x.2.status == .ready && !e.2.sealed && wantsLine s e.1 x.1 && !(lineComing s e.1 x.1 x.2.pc) then some (.lineFill e.1 x.1) else none

/-- What an uncore cycle does not end without (R97, R102): the lines that slots wait for, and an issue of every core that has a slot eligible. -/
def owed (s : State) : Option (Option Instr × State) :=
  match owedFill s with
  | some i => some (some i, s)
  | none => ((activeCores s).find? (owesIssue s)).map (issueTurn s)

/-- A listed issue cycle of a core: its issue of this cycle, if it has yet to have it, else of the next, once this one has had what is owed and the
next what belongs to it. -/
def listedIssue (s : State) (k : Nat) (t : Turn) (r : List Turn) : Option Instr × State :=
  if owesIssue s k then takeTurn t { s with turns := r }
  else
    match owed s with
    | some x => x
    | none =>
      let u := tick s
      match dueNow u with
      | some i => (some i, u)
      | none => takeTurn t { u with turns := r }

/-- The next issue: one that this cycle owes, else what belongs to the next cycle, or its first issue. -/
def issueNext (s : State) : Option Instr × State :=
  match owed s with
  | some x => x
  | none =>
    let t := tick s
    match dueNow t with
    | some i => (some i, t)
    | none =>
      match (activeCores t).find? (owesIssue t) with
      | some k => issueTurn t k
      | none => (none, t)

/-- The turn taken when none is listed: by turns an agenda entry or a step whose condition holds, and an issue cycle. -/
def defaultTurn (s : State) : Option Instr × State :=
  let s1 := { s with rot := s.rot + 1 }
  if s.rot % 2 == 0 then
    match s1.agenda with
    | _ :: _ => takeAgenda s1 0
    | [] =>
      let l := enabled s1
      match l[s1.rot / 2 % l.length]? with
      | some i => (some i, s1)
      | none => issueNext s1
  else issueNext s1

/-- The turn of a step: what this cycle must not pass by, else the first of those listed, of which only a core's issue cycle can begin another uncore
cycle, or the default turn. -/
def choose (s : State) : Option Instr × State :=
  match dueNow s with
  | some i => (some i, s)
  | none =>
    match haste s with
    | some r => r
    | none =>
      match s.turns with
      | .issue k :: r => listedIssue s k (.issue k) r
      | .replay k :: r => listedIssue s k (.replay k) r
      | t :: r => takeTurn t { s with turns := r }
      | [] => defaultTurn s

end Sys2Proof.Machine
end

