-- ==== Sys2Proof/Machine/Step.lean ====
section
/-! DEFINITION. The step function: it takes one turn (log entry 4) and runs the instruction or step that the turn gives. -/

namespace Sys2Proof.Machine

/-- One step: the turn's instruction in the state the turn leaves, or an idle cycle. -/
def step (s : State) : Host.Outcome State Fault Refusal :=
  match choose s with
  | (none, t) => .next t
  | (some i, t) => exec i t

/-- A state whose very next step runs an instruction given as the opcode table numbers it: the line that holds it stands in memory and
in core 0's buffers, slot 0 of core 0 is ready at its first head, and the next turn is core 0's issue (log entry 8). -/
def State.withFetchWord (s : State) (nbits w : Nat) : State :=
  let pa := 0x1000
  let ps := lineOf (tableParcels nbits w)
  let m := memPuts s.mem pa (ps.flatMap fun p => toBytes 2 p.toNat)
  let x := slotOf s 0 0
  let e : TlbEntry := { launch := x.launch, va := pa, log2 := 12, pa := pa, rd := false, wr := false, ex := true, sec := false }
  let s1 := modCore { s with mem := m, turns := [.issue 0] } 0 fun c =>
    { c with last := 15, canIssue := 0, pauseTo := none, pauses := [], sealed := false, halted := false, wbs := [], held := [], late := [],
             lines := [⟨pa, ps, false⟩], tlb := [e] }
  setSlot s1 0 0 { x.settled with status := .ready, pc := 0x1002#64, from' := 0x1002#64, atLine := some 0x1000#64, lateFit := none, lastIssue := none }

end Sys2Proof.Machine
end

