-- ==== Sys2Proof/Safety.lean ====
section
/-! DEFINITION. What counts as a safe run, and the vocabulary in which the statements are written: the canonical state, what a
completed instruction leaves its strand, what stays as it was, and the tables of instructions of one shape. -/

namespace Sys2Proof.Claims

open Sys2Proof.Machine

/-! ### Safe runs -/

/-- The invariant of every step: memory is in its canonical form, so that equal memories are equal data. -/
def Canonical (s : State) : Prop := Memory.wf s.mem = true

/-- A step that is safe: it answers a next state, and that state is canonical. -/
def SafeStep (s : State) : Prop := ∃ t, step s = .next t ∧ Canonical t

/-! ### Ends -/

/-- An instruction completes: it answers a next state, and no other. -/
def Completes (i : Instr) (s t : State) : Prop := exec i s = .next t

/-- The slot of a strand whose instruction at `from'` is complete and which goes on at `pc` (R25, R26): what the instruction popped poisoned is in its
record of errors (R177). -/
def settled (x : Slot) (pc from' : Word) : Slot :=
  { x with pc := pc, from' := from', mismatches := 0, fenced := none, peerBuf := [], snap := [], kept := [], taken := [], sampled := none,
           pendErr := popErrs x.pendErr (badIds (x.kept ++ x.taken)) }

/-- The strand of the issue latch replaced. -/
def withStrand (s : State) (x : Slot) : State := setSlot s s.cur.core s.cur.slot x

/-! ### What stays as it was -/

/-- No byte of memory and no mark on a word differs. -/
def SameMemory (s t : State) : Prop :=
  (∀ a, memByte t.mem a = memByte s.mem a) ∧ t.full = s.full ∧ t.poison = s.poison ∧ t.flips = s.flips ∧ t.tagBad = s.tagBad
    ∧ t.mediaBad = s.mediaBad ∧ t.parked = s.parked ∧ t.runs = s.runs

/-- Nothing of the device outside its cores and clusters differs, but the serial counter. -/
def SameDevice (s t : State) : Prop :=
  SameMemory s t ∧ t.quads = s.quads ∧ t.dev = s.dev ∧ t.fab = s.fab ∧ t.queues = s.queues ∧ t.mbox = s.mbox
    ∧ t.launches = s.launches ∧ t.nextLaunch = s.nextLaunch ∧ t.uncore = s.uncore ∧ t.hwMsgs = s.hwMsgs ∧ t.cur = s.cur
    ∧ t.turns = s.turns ∧ t.agenda = s.agenda ∧ t.rot = s.rot ∧ t.haste = s.haste ∧ t.stall = s.stall

/-- Only the cores, the clusters and the serial counter differ. -/
def StrandSide (s t : State) : Prop := t = { s with cores := t.cores, clusters := t.clusters, serial := t.serial }

/-- No core but one differs. -/
def SameCores (s t : State) (k : Nat) : Prop := ∀ j, j ≠ k → coreOf t j = coreOf s j

/-- No slot of a core but one differs. -/
def SameSlots (s t : State) (k i : Nat) : Prop := ∀ j, j ≠ i → slotOf t k j = slotOf s k j

/-- No declared name of a strand differs, but those of a list. -/
def SameNames (x y : Slot) (but : List Name) : Prop :=
  ∀ n : Name, n ∉ but → tfind y.names n.toNat = tfind x.names n.toNat

/-- No writable fixed name of a strand differs, but those of a list (R31). -/
def SameFixed (x y : Slot) (but : List Name) : Prop :=
  (250#8 ∉ but → y.lnk = x.lnk) ∧ (251#8 ∉ but → y.w0 = x.w0) ∧ (252#8 ∉ but → y.w1 = x.w1) ∧ (253#8 ∉ but → y.w2 = x.w2)
    ∧ (254#8 ∉ but → y.w3 = x.w3)

/-- What no instruction of a strand but the ones made for it changes: identity, mode and vector, and its vectors. -/
def SameStrand (x y : Slot) : Prop :=
  y.uid = x.uid ∧ y.vecs = x.vecs ∧ y.msg = x.msg ∧ y.xid = x.xid ∧ y.rm = x.rm ∧ y.tvec = x.tvec ∧ y.event = x.event
    ∧ y.owner = x.owner ∧ y.launch = x.launch ∧ y.mapIdx = x.mapIdx ∧ y.pendErr = x.pendErr ∧ y.lateFit = x.lateFit
    ∧ y.stage = x.stage ∧ y.barWait = x.barWait ∧ y.barCounted = x.barCounted ∧ y.handling = x.handling ∧ y.sender = x.sender
    ∧ y.shadow = x.shadow

/-- No cluster differs, but in one the copies of the strand flags and the trap messages that wait. -/
def SameClusters (s t : State) (c : Nat) : Prop :=
  (∀ d, d ≠ c → clusterOf t d = clusterOf s d) ∧
    { clusterOf t c with flagUnion := (clusterOf s c).flagUnion, trapWaits := (clusterOf s c).trapWaits } = clusterOf s c

/-- The trap registers of a strand (R284). -/
def SameTrapRegs (x y : Slot) : Prop :=
  y.cause = x.cause ∧ y.active = x.active ∧ y.resume = x.resume ∧ y.trapVal = x.trapVal ∧ y.trapPc = x.trapPc

/-! ### Operands on the state alone -/

/-- A name id that is a queue (R31). -/
def namesQueue (n : Name) : Prop := 241 ≤ n.toNat ∧ n.toNat ≤ 245

/-- A source that reads without a pop: no queue, and declared if it is no fixed name (R31, R71). -/
def Steady (s : State) (n : Name) : Prop :=
  ¬namesQueue n ∧ (n.toNat < 240 → (nameOf s s.cur.core s.cur.slot n).isSome = true)

/-- What a steady source reads (R5). -/
def sourceValue (s : State) (n : Name) : Int :=
  match readName n s with
  | .ok x _ => x
  | _ => 0

/-- A destination that takes every value at once: $zero, $lnk, $w0 to $w3, or a declared name that does not trap on a misfit (R31, R68). -/
def TakesAny (s : State) (a : Name) : Prop :=
  a ∈ [240#8, 250#8, 251#8, 252#8, 253#8, 254#8] ∨
    (a.toNat < 240 ∧ ∃ e, nameOf s s.cur.core s.cur.slot a = some e ∧ e.mode ≠ .trap)

/-- A destination whose value may come later without a wait: $zero, $lnk, $w0 to $w3, or a declared name (R31, R72). -/
def TakesLate (s : State) (a : Name) : Prop :=
  a ∈ [240#8, 250#8, 251#8, 252#8, 253#8, 254#8] ∨
    (a.toNat < 240 ∧ (nameOf s s.cur.core s.cur.slot a).isSome = true)

/-- The instruction completes, and its strand goes on at next (R26). -/
def GoesOn (i : Instr) (s : State) : Prop :=
  ∃ t, Completes i s t ∧ (curSlot t).pc = nextPc s.cur.pc s.cur.h

/-! ### The integer class (R67 to R81) -/

/-- The count of a shift (R74). -/
def shiftBy (c : Int) : Nat := (min (max c 0) 127).toNat

/-- Two-source instructions and the exact value of each (R73, R74, R76). -/
def binaryRows : List ((Name → Name → Name → Instr) × (Int → Int → Int)) :=
  [(.add, fun x y => x + y), (.sub, fun x y => x - y), (.mul, fun x y => x * y),
   (.and, bitwise fun x y => x &&& y), (.or, bitwise fun x y => x ||| y), (.xor, bitwise fun x y => x ^^^ y),
   (.andn, bitwise fun x y => x &&& ~~~y),
   (.shl, fun x y => x * 2 ^ shiftBy y), (.shr, fun x y => x.fdiv (2 ^ shiftBy y)),
   (.min, fun x y => if x ≤ y then x else y), (.max, fun x y => if x ≤ y then y else x)]

/-- LEA by its scale (R76). -/
def leaRow (sh : BitVec 3) : (Name → Name → Name → Instr) × (Int → Int → Int) :=
  (fun a b c => .lea a b c sh, fun x y => x + y * 2 ^ sh.toNat)

/-- One-source instructions and the exact value of each (R73, R76). -/
def unaryRows : List ((Name → Name → Instr) × (Int → Int)) :=
  [(.mov, fun x => x), (.abs, fun x => if x < 0 then -x else x), (.neg, fun x => -x)]

/-- Immediate instructions and the exact value of each (R75). -/
def immediateRows : List ((Name → Name → BitVec 16 → Instr) × (Int → BitVec 16 → Int)) :=
  [(.addi, fun x m => x + m.toInt), (.rsubi, fun x m => m.toInt - x), (.muli, fun x m => x * m.toInt),
   (.mini, fun x m => if x ≤ m.toInt then x else m.toInt), (.maxi, fun x m => if x ≤ m.toInt then m.toInt else x),
   (.andi, fun x m => bitwise (fun p q => p &&& q) x m.toNat), (.ori, fun x m => bitwise (fun p q => p ||| q) x m.toNat),
   (.xori, fun x m => bitwise (fun p q => p ^^^ q) x m.toNat)]

/-- Immediate shifts and the exact value of each (R75). -/
def shiftRows : List ((Name → Name → BitVec 7 → Instr) × (Int → BitVec 7 → Int)) :=
  [(.shli, fun x c => x * 2 ^ c.toNat), (.shri, fun x c => x.fdiv (2 ^ c.toNat))]

/-- Compares and their relations (R80). -/
def compareRows : List ((Name → Name → Name → Instr) × (Int → Int → Bool)) :=
  [(.ceq, fun x y => decide (x = y)), (.cne, fun x y => decide (x ≠ y)), (.clt, fun x y => decide (x < y)),
   (.cle, fun x y => decide (x ≤ y)), (.cgt, fun x y => decide (y < x)), (.cge, fun x y => decide (y ≤ x))]

/-- Compares with an immediate and their relations (R75, R80). -/
def compareImmRows : List ((Name → Name → BitVec 16 → Instr) × (Int → Int → Bool)) :=
  [(.ceqi, fun x y => decide (x = y)), (.cnei, fun x y => decide (x ≠ y)), (.clti, fun x y => decide (x < y)),
   (.clei, fun x y => decide (x ≤ y)), (.cgti, fun x y => decide (y < x)), (.cgei, fun x y => decide (y ≤ x))]

/-- What a compare writes to a name (R80): 0, or 1, or -1 to a declared signed 1-bit name. -/
def truthFor (s : State) (a : Name) (b : Bool) : Int :=
  if b then
    match nameOf s s.cur.core s.cur.slot a with
    | some e => if a.toNat < 240 ∧ e.signed = true ∧ e.width = 1 then -1 else 1
    | none => 1
  else 0

/-- Every instruction of the integer class with the operands given (R67). -/
def integerClass (a b c d : Name) (m : BitVec 16) (n : BitVec 7) (sh : BitVec 3) (w : BitVec 64) : List Instr :=
  (leaRow sh :: binaryRows).map (fun r => r.1 a b c) ++ unaryRows.map (fun r => r.1 a b)
    ++ immediateRows.map (fun r => r.1 a b m) ++ shiftRows.map (fun r => r.1 a b n)
    ++ compareRows.map (fun r => r.1 a b c) ++ compareImmRows.map (fun r => r.1 a b m)
    ++ [.mulh a b c, .rot a b c, .clz a b, .ctz a b, .popc a b, .bfx a b c d, .bfi a b c d, .sel a b c d, .movi a w,
        .div a b c, .rem a b c]

/-- Bit j of the infinite two's-complement form of an integer (R69). -/
def bitOf (x : Int) (j : Nat) : Bool := decide (x.fdiv (2 ^ j) % 2 = 1)

/-! ### The control class (R86 to R93) -/

/-- Branches on two names and their conditions (R91). -/
def branchRows : List ((Name → Name → Target → Instr) × (Int → Int → Bool)) :=
  [(.beq, fun x y => decide (x = y)), (.bne, fun x y => decide (x ≠ y)), (.blt, fun x y => decide (x < y)),
   (.ble, fun x y => decide (x ≤ y)), (.bgt, fun x y => decide (y < x)), (.bge, fun x y => decide (y ≤ x))]

/-- The target of a branch immediate (R86): base + 64 × L + 2 × j, on 64-bit addresses. -/
def targetOf (pc : Word) (t : Target) : Word :=
  BitVec.ofInt 64 ((pc.toNat / 64 * 64 : Nat) + 64 * t.line.toInt + 2 * (t.head.toNat : Int))

/-- next (R26): the next head of the line, or head 1 of the line at base + 64. -/
def nextOf (pc : Word) (h : Nat) : Word :=
  if pc.toNat % 64 / 2 < h then BitVec.ofNat 64 (pc.toNat + 2) else BitVec.ofNat 64 (pc.toNat / 64 * 64 + 64 + 2)

/-- The state t with the strand of s's issue latch gone on at next (R26). -/
def goes (s t : State) : State := withStrand t (settled (curSlot t) (nextOf s.cur.pc s.cur.h) s.cur.pc)

/-! ### Writes on their way (R188, R204) -/

/-- The entry that a write of the strand of the issue latch makes in its unit's write queue. -/
def sentEntry (s : State) (o : WOp) (va : Word) (rel held : Bool) : WEntry :=
  { serial := s.serial, op := o, core := s.cur.core, slot := s.cur.slot, uid := (curSlot s).uid, va := va,
    holdTo := if held then holdUntil s s.cur.core else 0, rel := rel, queues := workQueue s s.cur.core s.cur.slot, burst := (curSlot s).burst,
    after := if rel then releaseSet s s.cur.core s.cur.slot (curSlot s).uid else [] }

/-- The state with a write of the strand at the end of its unit's write queue. -/
def sent (s : State) (o : WOp) (va : Word) (rel held : Bool) : State :=
  { modQuad s (queueKey s.cur.core) (fun q => { q with wq := q.wq ++ [sentEntry s o va rel held] }) with serial := s.serial + 1 }

/-- Whether the strand's unit has room in its write queue. -/
def hasRoom (s : State) : Prop := (quadOf s (queueKey s.cur.core)).wq.length < 32

/-- The n bytes of a value at an address. -/
def bytesAt (a n : Nat) (v : Word) : List MByte :=
  (List.range n).map fun i => { addr := a + i, val := BitVec.ofNat 8 (v.toNat / 256 ^ i) }

/-! ### Rows (R246 to R253) -/

/-- A vector instruction of the strand takes effect: it is on a core, and the sequencer neither records it nor runs for its strand (R246, R255, R257). -/
def vectorFree (s : State) : Prop :=
  isCore s.cur.core = true ∧ (ownsSeq s = true → (curSeq s).run = none ∧ (curSeq s).recording = false)

/-- Nothing of a strand but its flags and the rows of some vector ids differs, nor anything of the device outside cores and clusters. -/
def OnlyRows (s t : State) (ids : List Nat) : Prop :=
  (∀ j, j ∉ ids → tfind (curSlot t).vecs j = tfind (curSlot s).vecs j) ∧
    (∀ j, (tfind (curSlot t).vecs j).map (fun e => (e.row, e.ty, e.first)) = (tfind (curSlot s).vecs j).map fun e => (e.row, e.ty, e.first)) ∧
    (curSlot t).names = (curSlot s).names ∧ SameFixed (curSlot s) (curSlot t) [] ∧ SameDevice s t ∧
    SameCores s t s.cur.core ∧ SameSlots s t s.cur.core s.cur.slot

/-- Vector ids of one type received element results in order, each in the bits of its element, and the strand their flags. -/
def RowsGot (s t : State) (ids : List Nat) (rs : List (Nat × BitVec 8)) : Prop :=
  spanElems t ids = rs.map (fun r => r.1 % 2 ^ typeBits (vecTy s (ids.headD 0))) ∧
    (curSlot t).flags = (curSlot s).flags ||| allFlags (rs.map (·.2)) ∧ OnlyRows s t ids

/-- VA members that work element by element: the types each takes, and what it does to two elements (R248). -/
def vaRows : List ((VRef → VRef → VRef → Instr) × (Nat → Bool) × (Nat → Nat → Nat → Nat → Nat × BitVec 8)) :=
  [(.vadd, numericType, laneAdd), (.vsub, numericType, laneSub), (.vmul, numericType, laneMul), (.vmin, numericType, lanePick true),
   (.vmax, numericType, lanePick false), (.vshl, intType, laneShl), (.vshr, intType, laneShr)]

/-- VA members on the bits of rows (R248). -/
def vbRows : List ((VRef → VRef → VRef → Instr) × (BitVec 1024 → BitVec 1024 → BitVec 1024)) :=
  [(.vand, fun x y => x &&& y), (.vor, fun x y => x ||| y), (.vxor, fun x y => x ^^^ y)]

/-- Vector compares and their relations (R248). -/
def vcRows : List ((VRef → VRef → VRef → Instr) × (Ordering → Bool)) :=
  [(.vceq, fun o => o == .eq), (.vclt, fun o => o == .lt), (.vcle, fun o => o != .gt)]

/-- VU members: the types each takes, and what it does to an element (R250). -/
def vuRows : List ((VRef → VRef → Instr) × (Nat → Bool) × (Nat → Nat → Nat → Nat × BitVec 8)) :=
  [(.vabs, numericType, laneAbs), (.vneg, numericType, laneNeg), (.vexp2, wideFloat, laneExp2), (.vlog2, wideFloat, laneLog2),
   (.vrcp, wideFloat, laneRcp), (.vrsq, wideFloat, laneRsq), (.vfloor, wideFloat, laneFloor)]

/-! ### Commands, packets and the fabric (R264, R312, R334) -/

/-- The matrix unit takes the head command of a core, of a kind, none of its checks fails, and no word that it reaches waits behind a parked
atomic (R205, R264, R266). -/
def Takes (s : State) (k kind : Nat) (c : MCmd) (r : List MCmd) : Prop :=
  isCore k = true ∧ mxNext s (quadOfKey k) = some k ∧ (coreOf s k).mx.queue = c :: r ∧ cmdKind c.words = kind ∧
    cmdDetail (coreOf s k).mx c.words = none ∧ anyBlocked s (cmdWords (coreOf s k).mx k c.words) = false

/-- The product of two operand elements, as a count of 2^lsb, when it is finite and a whole number of them (R272). -/
def wholeProduct (lsb : Int) (p : Opnd × Opnd) : Option Int :=
  match (numMul p.1.v p.2.v).1 with
  | .fin n m x _ => if lsb ≤ x then some ((if n then -1 else 1) * (m : Int) * 2 ^ (x - lsb).toNat) else none
  | _ => none

/-- The front-end steps and the packet kinds that they take (R313). -/
def packetRows (q : Nat) : List (Instr × Nat) :=
  [(.nopPacket q, 1), (.launch q, 2), (.sheafBegin q, 3), (.sheafCommit q, 4), (.signal q, 5), (.waitPacket q, 6), (.launchExt q, 7)]

/-- A mailbox command's read of n bytes of physical memory is at hand: of a peer's memory all that was asked for has come, of this device or the
host it is read from its arrays into u, with no transfer of it under retry (R151, R173, R356). -/
def AreaRead (s : State) (a n : Nat) (u : State) : Prop :=
  (inPeer a = true → a + n ≤ 2 ^ 52 → lackingChunk s.mbox.buf s.mbox.bad a n = none) ∧ u = fetchArea s a n ∧ stalledOn s u = none

/-- The mailbox's command codes, each with the step of its command on a queue (R325). -/
def mailRows (q : Nat) : List (Nat × Instr) :=
  [(1, .setweight q), (2, .setsec q), (3, .preempt q), (4, .resumeq q), (5, .resetq q), (6, .drain), (7, .seal), (8, .fwstage), (9, .fwactivate),
   (10, .attest), (11, .setmigt), (12, .secregion)]

/-- A mailbox command ended: done, its reason zero, and vector 64 raised (R325). -/
def MailDone (s t : State) : Prop := t.mbox.state = 2 ∧ t.mbox.reason = 0 ∧ 64 ∈ t.dev.msix ∧ t.mbox.cmd = s.mbox.cmd

/-- A mailbox command refused with a reason (R325). -/
def MailRefused (s t : State) (r : Nat) : Prop := t.mbox.state = 3 ∧ t.mbox.reason = r ∧ SameMemory s t ∧ t.queues = s.queues

/-- A well-formed packet of a kind and class for this device, without an acknowledgement, stamped with the current version, from a device that it can reach (R333, R334, R340). -/
def Arrives (s : State) (p : Packet) (kind cls : Nat) : Prop :=
  p.kind = kind ∧ p.cls = cls ∧ badPacket p = false ∧ p.src < 1024 ∧ p.ver = s.fab.cur ∧ p.dst = s.dev.num ∧ p.av = false ∧
    (flowOf s p.src p.cls).closed = false ∧ unreachable s p.src = false

/-- The receiver of a flow past one packet, with an acknowledgement owed (R334, R336). -/
def passedOne (s : State) (p : Packet) : State := modFlow s p.src p.cls fun x =>
  { x with exp := x.exp + 1#32, owed := true, owedAt := if x.owed then x.owedAt else s.uncore }

/-- The steps that receive a packet, with the kind and class of each (R334). -/
def Receives (p : Packet) (i : Instr) (kind cls : Nat) : Prop :=
  (i = .read p ∧ kind = 1 ∧ cls = 0) ∨ (i = .write p ∧ kind = 2 ∧ cls = 0) ∨ (i = .atomic p ∧ kind = 3 ∧ cls = 0) ∨
    (i = .msg p ∧ kind = 4 ∧ cls = 0) ∨ (i = .steprd p ∧ kind = 5 ∧ cls = 0) ∨ (i = .resp p ∧ kind = 6 ∧ cls = 1)

end Sys2Proof.Claims
end

