-- ==== Sys2Proof/Certificates/Slice0/Obligations.lean ====
section
/-! DEFINITION. The statements for the provers. Each formalises rules of the spec, or what follows from them in this model. -/

section

open Sys2Proof Sys2Proof.Machine Sys2Proof.Claims

/-! ### Operands (R31, R67, R68, R71) -/

/-- R68: when write(A, x) fits x to a declared name A, the mode of A decides. A value that is representable is stored and raises no flag. In wrap
mode x mod 2^w is stored, read back under A's signedness; in saturate mode the nearest bound is stored and SAT is set; in trap mode the write traps
with cause 0x04 and x mod 2^64, and nothing is stored. And no two-name or three-name integer instruction that goes on sets NV, DZ, OF, UF, NX, OUT
or ILC in its strand. -/
def Obligations.FitModes : Prop :=
  (∀ (s : State) (a : Name) (e : NameEntry) (x : Int), a.toNat < 240 → nameOf s s.cur.core s.cur.slot a = some e →
    1 ≤ e.width → e.width ≤ 64 →
    let lo : Int := if e.signed then -2 ^ (e.width - 1) else 0;
    let hi : Int := if e.signed then 2 ^ (e.width - 1) - 1 else 2 ^ e.width - 1;
    (lo ≤ x ∧ x ≤ hi →
      ∃ t f, writeName a x s = .ok () t ∧ t = setName s s.cur.core s.cur.slot a f ∧ f.value = x
        ∧ f = { e with bits := f.bits, poison := false }) ∧
    (¬(lo ≤ x ∧ x ≤ hi) → e.mode = .wrap →
      ∃ t f, writeName a x s = .ok () t ∧ t = setName s s.cur.core s.cur.slot a f ∧ (f.value - x) % 2 ^ e.width = 0
        ∧ lo ≤ f.value ∧ f.value ≤ hi ∧ f = { e with bits := f.bits, poison := false }) ∧
    (¬(lo ≤ x ∧ x ≤ hi) → e.mode = .sat →
      ∃ t f, writeName a x s = .ok () t ∧ t = raiseFlags (setName s s.cur.core s.cur.slot a f) s.cur.core s.cur.slot flagSAT
        ∧ f.value = (if x < lo then lo else hi) ∧ f = { e with bits := f.bits, poison := false }
        ∧ (curSlot t).flags = (curSlot s).flags ||| flagSAT) ∧
    (¬(lo ≤ x ∧ x ≤ hi) → e.mode = .trap → writeName a x s = .trap 0x04 (BitVec.ofInt 64 x))) ∧
  (∀ (s t : State) (a b c d : Name) (m : BitVec 16) (n : BitVec 7) (sh : BitVec 3) (w : BitVec 64), ∀ i ∈ integerClass a b c d m n sh w,
    exec i s = .next t → (curSlot t).flags &&& ~~~flagSAT = (curSlot s).flags &&& ~~~flagSAT)

/-- R31, R67 and R71: what a source field reads. A declared name gives its bits as two's complement if it is signed and unsigned otherwise; $zero
gives 0; $lnk, $w0 to $w3, $msg, $step, $self, $xid and $cyc give their values, unsigned; and $q0 to $q3 and $bq give the entry at the head of their
queue, which is popped; an empty queue parks the reader; and an instruction that is executed again reads the entry, the $cyc and the $step that it
took before. A declared id that the strand's map does not give traps with cause 0x03. None of the reads but a pop changes anything. The clock of
$cyc of a supervisor core and a streamer is the model's choice (log entry 69). -/
def Obligations.SourceReads : Prop :=
  ∀ (s : State) (n : Name),
    (∀ e, n.toNat < 240 → nameOf s s.cur.core s.cur.slot n = some e →
      readName n s = .ok (if e.signed then (e.bits.setWidth e.width).toInt else ((e.bits.setWidth e.width).toNat : Int)) s) ∧
    (n.toNat < 240 → nameOf s s.cur.core s.cur.slot n = none → readName n s = .trap 0x03 (BitVec.ofNat 64 n.toNat)) ∧
    (n = 240#8 → readName n s = .ok 0 s) ∧
    ((curSlot s).sampled = none →
      (n = 246#8 → readName n s = .ok ((logicalOf s (s.cur.core / 128) (unitId s s.cur.core)).s.toNat : Int) s) ∧
      (n = 255#8 → readName n s = .ok ((cycOf s s.cur.core % 2 ^ 64 : Nat) : Int) s)) ∧
    (∀ c st, (curSlot s).sampled = some (c, st) → (n = 246#8 → readName n s = .ok (st.toNat : Int) s) ∧ (n = 255#8 → readName n s = .ok (c.toNat : Int) s)) ∧
    (n = 247#8 → readName n s = .ok ((selfAgent s s.cur.core s.cur.slot).toNat : Int) s) ∧
    (n = 248#8 → readName n s = .ok ((curSlot s).xid.toNat : Int) s) ∧
    (n = 249#8 → readName n s = .ok ((curSlot s).msg.toNat : Int) s) ∧
    (n = 250#8 → readName n s = .ok ((curSlot s).lnk.toNat : Int) s) ∧
    (n = 251#8 → readName n s = .ok ((curSlot s).w0.toNat : Int) s) ∧
    (n = 252#8 → readName n s = .ok ((curSlot s).w1.toNat : Int) s) ∧
    (n = 253#8 → readName n s = .ok ((curSlot s).w2.toNat : Int) s) ∧
    (n = 254#8 → readName n s = .ok ((curSlot s).w3.toNat : Int) s) ∧
    (∀ d id w p b es, namesQueue n → (∀ e ∈ (curSlot s).kept, e.1 ≠ n.toNat - 241) → dqOf s s.cur.core (n.toNat - 241) = d → d.vto = [] → d.vfrom = [] →
      d.entries = ⟨id, some w, p, b⟩ :: es →
      readName n s = .ok (w.toNat : Int) (modCur (setDq s s.cur.core (n.toNat - 241) { d with entries := es }) fun x =>
        { x with taken := x.taken ++ [(n.toNat - 241, ⟨id, some w, p, b⟩)] })) ∧
    (∀ id w p b es, namesQueue n → (curSlot s).kept = (n.toNat - 241, ⟨id, some w, p, b⟩) :: es →
      readName n s = .ok (w.toNat : Int) (withStrand s
        { curSlot s with kept := es, taken := (curSlot s).taken ++ [(n.toNat - 241, ⟨id, some w, p, b⟩)] })) ∧
    (namesQueue n → (∀ e ∈ (curSlot s).kept, e.1 ≠ n.toNat - 241) → (dqOf s s.cur.core (n.toNat - 241)).entries = [] →
      readName n s = .wait (.queueRead (n.toNat - 241) 0))

/-- R31, R71 and R178: what a destination that is a fixed name receives. $zero discards; $lnk and $w0 to $w3 take the value modulo 2^64; $q0 to $q3 push
it modulo 2^64 and $bq pushes it modulo 2, a full queue parks the writer, and a pending error is raised in place of the push; $step, $self, $xid, $msg and $cyc trap with cause 0x02; and a declared
id that the strand's map does not give traps with cause 0x03. -/
def Obligations.FixedDestinations : Prop :=
  ∀ (s : State) (n : Name) (x : Int),
    (n = 240#8 → ∃ t, writeName n x s = .ok () t ∧ curSlot t = curSlot s ∧ t = withStrand s (curSlot s)) ∧
    (n = 250#8 → writeName n x s = .ok () (withStrand s { curSlot s with lnk := BitVec.ofInt 64 x, marks := sdel (curSlot s).marks 250 })) ∧
    (n = 251#8 → writeName n x s = .ok () (withStrand s { curSlot s with w0 := BitVec.ofInt 64 x, marks := sdel (curSlot s).marks 251 })) ∧
    (n = 252#8 → writeName n x s = .ok () (withStrand s { curSlot s with w1 := BitVec.ofInt 64 x, marks := sdel (curSlot s).marks 252 })) ∧
    (n = 253#8 → writeName n x s = .ok () (withStrand s { curSlot s with w2 := BitVec.ofInt 64 x, marks := sdel (curSlot s).marks 253 })) ∧
    (n = 254#8 → writeName n x s = .ok () (withStrand s { curSlot s with w3 := BitVec.ofInt 64 x, marks := sdel (curSlot s).marks 254 })) ∧
    (n ∈ [246#8, 247#8, 248#8, 249#8, 255#8] → writeName n x s = .trap 0x02 0#64) ∧
    (∀ d, namesQueue n → (curSlot s).pendErr = none → dqOf s s.cur.core (n.toNat - 241) = d → d.vto = [] → d.vfrom = [] →
      d.entries.length < (if n = 245#8 then 16 else 8) →
      writeName n x s = .ok () { setDq s s.cur.core (n.toNat - 241)
        { d with entries := d.entries ++ [⟨s.serial, some (BitVec.ofInt 64 (if n = 245#8 then x % 2 else x)), false, false⟩] } with serial := s.serial + 1 }) ∧
    (∀ e, namesQueue n → (curSlot s).pendErr = some e → writeName n x s = .raise e.cause e.addr (withStrand s { curSlot s with pendErr := none })) ∧
    (∀ d, namesQueue n → (curSlot s).pendErr = none → dqOf s s.cur.core (n.toNat - 241) = d →
      (if n = 245#8 then 16 else 8) ≤ d.entries.length → writeName n x s = .wait (.queueWrite (n.toNat - 241) 1)) ∧
    (n.toNat < 240 → nameOf s s.cur.core s.cur.slot n = none → writeName n x s = .trap 0x03 (BitVec.ofNat 64 n.toNat))

/-! ### The integer class (R67 to R84) -/

/-- R67, R73, R74, R75 and R76: ADD, SUB, MUL, AND, OR, XOR, ANDN, SHL, SHR, MIN, MAX and LEA complete for every operand that reads and every
destination that takes the exact value: B is read, then C, the exact value is written to A, and the strand goes on at next. MOV, ABS, NEG, ADDI,
RSUBI, MULI, MINI, MAXI, ANDI, ORI, XORI, SHLI and SHRI complete for every operand that reads and every destination that takes the exact value. -/
def Obligations.IntegerResult : Prop :=
  (∀ (sh : BitVec 3), ∀ r ∈ leaRow sh :: binaryRows, ∀ (a b c : Name) (s t u v : State) (x y : Int),
     readName b s = .ok x t → readName c t = .ok y u → writeName a (r.2 x y) u = .ok () v →
     Completes (r.1 a b c) s (goes s v)) ∧
  (∀ (a b : Name) (m : BitVec 16) (n : BitVec 7) (s t v : State) (x : Int), readName b s = .ok x t →
     (∀ r ∈ unaryRows, writeName a (r.2 x) t = .ok () v →
       Completes (r.1 a b) s (goes s v)) ∧
     (∀ r ∈ immediateRows, writeName a (r.2 x m) t = .ok () v →
       Completes (r.1 a b m) s (goes s v)) ∧
     (∀ r ∈ shiftRows, writeName a (r.2 x n) t = .ok () v →
       Completes (r.1 a b n) s (goes s v)))

/-- R80: CEQ, CNE, CLT, CLE, CGT, CGE and CEQI, CNEI, CLTI, CLEI, CGTI, CGEI compare exact values and write 0 if the result is false, and 1 if it is
true, except that a signed 1-bit destination receives -1. They complete whenever the sources read and the destination is declared or takes a word;
and writing 0, 1 or -1 so to a declared name neither traps nor sets SAT. -/
def Obligations.CompareResult : Prop :=
  (∀ (a b : Name) (s t v : State) (x : Int), readName b s = .ok x t →
    (∀ r ∈ compareRows, ∀ (c : Name) (u : State) (y : Int), readName c t = .ok y u →
      writeName a (truthFor u a (r.2 x y)) u = .ok () v →
      Completes (r.1 a b c) s (goes s v)) ∧
    (∀ r ∈ compareImmRows, ∀ (m : BitVec 16), writeName a (truthFor t a (r.2 x m.toInt)) t = .ok () v →
      Completes (r.1 a b m) s (goes s v))) ∧
  (∀ (a : Name) (s : State) (e : NameEntry) (b : Bool), a.toNat < 240 → nameOf s s.cur.core s.cur.slot a = some e →
    1 ≤ e.width → e.width ≤ 64 → ∃ v f, writeName a (truthFor s a b) s = .ok () v ∧ v = setName s s.cur.core s.cur.slot a f ∧
      (f.value ≠ 0 ↔ b = true))

/-- R70, R76, R77, R79 and R81: MULH, ROT, CLZ, CTZ, POPC, BFX, BFI, SEL and MOVI complete for every operand that reads and every destination that
takes the value that the rules give. CLZ and CTZ are given by the bits of the pattern, and POPC by a count of them. BFI puts the n low
bits of B at position p into A's pattern, dropping what falls at or above A's width, and its pattern is written to a declared A without a trap or a
flag, whatever A's mode; MOVI reads its immediate under A's signedness. -/
def Obligations.IntegerFieldResult : Prop :=
  (∀ (a b : Name) (s t : State) (x : Int), readName b s = .ok x t →
     (∀ (c : Name) (u v : State) (y : Int), readName c t = .ok y u →
       (∀ wa, widthOfName a u = .ok wa u → writeName a ((x * y).fdiv (2 ^ wa)) u = .ok () v →
         Completes (.mulh a b c) s (goes s v)) ∧
       (∀ wb g, widthOfName b s = .ok wb s → signedOfName b s = .ok g s → 0 < wb →
         writeName a (readAs wb g ((BitVec.ofInt wb x).rotateLeft (y % wb).toNat).toNat) u = .ok () v →
         Completes (.rot a b c) s (goes s v)) ∧
       (∀ (d : Name) (z : State) (w : Int), readName d u = .ok w z →
         (writeName a (if x = 0 then w else y) z = .ok () v →
           Completes (.sel a b c d) s (goes s v)) ∧
         (∀ g f, signedOfName a z = .ok g z → f = (x.fdiv (2 ^ (y % 128).toNat)) % 2 ^ (min (max w 0) 64).toNat →
           writeName a (if g = true ∧ 0 < w ∧ 2 ^ ((min w 64).toNat - 1) ≤ f then f - 2 ^ (min w 64).toNat else f) z = .ok () v →
           Completes (.bfx a b c d) s (goes s v)))) ∧
     (∀ (wb z : Nat) (v : State), widthOfName b s = .ok wb s → 
       (z ≤ wb ∧ (∀ j, j < z → (BitVec.ofInt wb x).getLsbD (wb - 1 - j) = false) ∧
           (z < wb → (BitVec.ofInt wb x).getLsbD (wb - 1 - z) = true) → writeName a (z : Int) t = .ok () v →
         Completes (.clz a b) s (goes s v)) ∧
       (z ≤ wb ∧ (∀ j, j < z → (BitVec.ofInt wb x).getLsbD j = false) ∧ (z < wb → (BitVec.ofInt wb x).getLsbD z = true) →
           writeName a (z : Int) t = .ok () v →
         Completes (.ctz a b) s (goes s v)) ∧
       (z = ((List.range wb).filter fun j => (BitVec.ofInt wb x).getLsbD j).length → writeName a (z : Int) t = .ok () v →
         Completes (.popc a b) s (goes s v)))) ∧
  ((∀ (a b c d : Name) (s t u z q v : State) (old x y w : Int) (wa : Nat) (g : Bool) (p : BitVec wa), 
     readName a s = .ok old t → readName b t = .ok x u → readName c u = .ok y z → readName d z = .ok w q →
     widthOfName a q = .ok wa q → signedOfName a q = .ok g q → 
     (∀ j, j < wa → p.getLsbD j =
       if (y % 128).toNat ≤ j ∧ j < (y % 128).toNat + (min (max w 0) 64).toNat then (BitVec.ofInt 64 x).getLsbD (j - (y % 128).toNat)
       else (BitVec.ofInt wa old).getLsbD j) →
     writeName a (if g then p.toInt else (p.toNat : Int)) q = .ok () v →
     Completes (.bfi a b c d) s (goes s v)) ∧
   (∀ (a : Name) (q : State) (e : NameEntry) (p : BitVec e.width), a.toNat < 240 → nameOf q q.cur.core q.cur.slot a = some e → 1 ≤ e.width → e.width ≤ 64 →
     ∃ v f, writeName a (if e.signed then p.toInt else (p.toNat : Int)) q = .ok () v ∧ v = setName q q.cur.core q.cur.slot a f ∧
       f.value = (if e.signed then p.toInt else (p.toNat : Int))) ∧
   (∀ (a : Name) (m : BitVec 64) (s v : State) (g : Bool), signedOfName a s = .ok g s →
     writeName a (if g then m.toInt else (m.toNat : Int)) s = .ok () v →
     Completes (.movi a m) s (goes s v)))

/-- R69: AND, OR, XOR, ANDN and their immediate forms act on the infinite two's-complement form of each operand: bit j of the result, for every j, is
the bitwise combination of the operands' bits j, and is then fitted into the destination; stated for all values that names of at most 64 bits hold. -/
def Obligations.BitwiseIsInfinite : Prop :=
  (∀ (x y : Int) (j : Nat), -2 ^ 63 ≤ x → x < 2 ^ 64 → -2 ^ 63 ≤ y → y < 2 ^ 64 →
    bitOf (bitwise (fun p q => p &&& q) x y) j = (bitOf x j && bitOf y j) ∧
    bitOf (bitwise (fun p q => p ||| q) x y) j = (bitOf x j || bitOf y j) ∧
    bitOf (bitwise (fun p q => p ^^^ q) x y) j = (bitOf x j != bitOf y j) ∧
    bitOf (bitwise (fun p q => p &&& ~~~q) x y) j = (bitOf x j && !bitOf y j)) ∧
  (∀ (a b c : Name) (m : BitVec 16) (s t u v : State) (x y z : Int), readName b s = .ok x t → -2 ^ 63 ≤ x → x < 2 ^ 64 →
    (readName c t = .ok y u → -2 ^ 63 ≤ y → y < 2 ^ 64 → writeName a z u = .ok () v →
      ((∀ j, bitOf z j = (bitOf x j && bitOf y j)) → Completes (.and a b c) s (goes s v)) ∧
      ((∀ j, bitOf z j = (bitOf x j || bitOf y j)) → Completes (.or a b c) s (goes s v)) ∧
      ((∀ j, bitOf z j = (bitOf x j != bitOf y j)) → Completes (.xor a b c) s (goes s v)) ∧
      ((∀ j, bitOf z j = (bitOf x j && !bitOf y j)) → Completes (.andn a b c) s (goes s v))) ∧
    (writeName a z t = .ok () v →
      ((∀ j, bitOf z j = (bitOf x j && m.getLsbD j)) → Completes (.andi a b m) s (goes s v)) ∧
      ((∀ j, bitOf z j = (bitOf x j || m.getLsbD j)) → Completes (.ori a b m) s (goes s v)) ∧
      ((∀ j, bitOf z j = (bitOf x j != m.getLsbD j)) → Completes (.xori a b m) s (goes s v))))

/-- R31, R72, R178 and R252: what a destination does whose value arrives later. A declared name, $zero, $lnk and $w0 to $w3 have a write-back
outstanding, and nothing is written yet; without a pending error, which is raised first, $q0 to $q3 and $bq have the next entry of their queue reserved for the value, and a full queue parks the
strand; a read-only name traps with cause 0x02, and an undeclared id with cause 0x03. -/
def Obligations.LateDestinations : Prop :=
  ∀ (s : State) (a : Name) (x : Option Int) (err : Option (Nat × Word)) (p : Bool),
    let wb : WriteBack := { serial := s.serial, slot := s.cur.slot, uid := (curSlot s).uid, name := a, val := x, err := err, poison := p };
    ((a ∈ [240#8, 250#8, 251#8, 252#8, 253#8, 254#8] ∨ (a.toNat < 240 ∧ (nameOf s s.cur.core s.cur.slot a).isSome)) →
      deferWrite a x err p s = .ok s.serial (modCore { s with serial := s.serial + 1 } s.cur.core fun c => { c with wbs := c.wbs ++ [wb] })) ∧
    (∀ e, namesQueue a → (curSlot s).pendErr = some e → deferWrite a x err p s = .raise e.cause e.addr (withStrand s { curSlot s with pendErr := none })) ∧
    (∀ d, namesQueue a → (curSlot s).pendErr = none → dqOf s s.cur.core (a.toNat - 241) = d → d.vto = [] → d.entries.length < (if a = 245#8 then 16 else 8) →
      deferWrite a x err p s = .ok (s.serial + 1) (modCore { setDq s s.cur.core (a.toNat - 241) { d with entries := d.entries ++ [⟨s.serial, none, false, false⟩] }
          with serial := s.serial + 2 } s.cur.core fun c => { c with wbs := c.wbs ++ [{ wb with serial := s.serial + 1, entry := some s.serial }] })) ∧
    (namesQueue a → (curSlot s).pendErr = none → (if a = 245#8 then 16 else 8) ≤ (dqOf s s.cur.core (a.toNat - 241)).entries.length →
      deferWrite a x err p s = .wait (.queueWrite (a.toNat - 241) 1)) ∧
    (a ∈ [246#8, 247#8, 248#8, 249#8, 255#8] → deferWrite a x err p s = .trap 0x02 0#64) ∧
    (a.toNat < 240 → nameOf s s.cur.core s.cur.slot a = none → deferWrite a x err p s = .trap 0x03 (BitVec.ofNat 64 a.toNat))

/-- R78 and R84: DIV and REM. With the divider free and a nonzero divisor, the instruction completes, the divider is taken for 32 cycles, and the
exact quotient, rounded toward zero, or the remainder, which has the dividend's sign, is on its way to the destination; a zero divisor traps with
cause 0x07 and the dividend modulo 2^64; and a busy divider passes the slot over with nothing done. -/
def Obligations.DivideResult : Prop :=
  ∀ (a b c : Name) (s t u : State) (x y : Int), readName b s = .ok x t → readName c t = .ok y u →
    ((coreOf s s.cur.core).divFree ≤ cycOf s s.cur.core → y ≠ 0 →
      ∃ q r : Int, x = y * q + r ∧ (r = 0 ∨ (0 < r ↔ 0 < x)) ∧ r.natAbs < y.natAbs ∧
        (∀ z w, (z, w) ∈ [(Instr.div a b c, q), (Instr.rem a b c, r)] → ∀ n v, deferWrite a (some w) none false u = .ok n v →
          Completes z s (withStrand (modCore v s.cur.core fun k => { k with divFree := cycOf v s.cur.core + 32 })
            (settled (curSlot v) (nextOf s.cur.pc s.cur.h) s.cur.pc)))) ∧
    ((coreOf s s.cur.core).divFree ≤ cycOf s s.cur.core → y = 0 →
      ∀ r ∈ [Instr.div a b c, Instr.rem a b c], exec r s = .next (takeTrap s 0x07 (BitVec.ofInt 64 x))) ∧
    (cycOf s s.cur.core < (coreOf s s.cur.core).divFree → ∀ r ∈ [Instr.div a b c, Instr.rem a b c], exec r s = .next s)

/-- R31, R67 and R68 (frame): an instruction of the integer class, none of whose names is a queue and that has popped nothing, changes nothing but its strand, its destination
name, SAT and the cluster's copy of it, the divider and its write-back, whether it completes or traps: every byte of memory, every other name, every
other strand, core and part of the device is as it was. -/
def Obligations.IntegerFrame : Prop :=
  ∀ (s t : State) (a b c d : Name) (m : BitVec 16) (n : BitVec 7) (sh : BitVec 3) (w : BitVec 64), ∀ i ∈ integerClass a b c d m n sh w,
    ¬namesQueue a → ¬namesQueue b → ¬namesQueue c → ¬namesQueue d → (curSlot s).taken = [] → (curSlot s).kept = [] → exec i s = .next t →
    SameDevice s t ∧ SameCores s t s.cur.core ∧ SameSlots s t s.cur.core s.cur.slot ∧
      { coreOf t s.cur.core with slots := (coreOf s s.cur.core).slots, divFree := (coreOf s s.cur.core).divFree,
                                 wbs := (coreOf s s.cur.core).wbs } = coreOf s s.cur.core ∧
      SameStrand (curSlot s) (curSlot t) ∧ SameNames (curSlot s) (curSlot t) [a] ∧ SameFixed (curSlot s) (curSlot t) [a] ∧
      SameClusters s t (clusterOfKey s.cur.core)

/-! ### The control class (R86 to R95) -/

/-- R26: the PC after a head that does not transfer control is the next head of its line, and after the last head it is head 1 of the line at base +
64; from a PC that is a head's address, bits 5 to 0 of the next PC are never zero and bit 0 is zero. -/
def Obligations.NextHead : Prop :=
  ∀ (pc : Word) (h i b : Nat), pc.toNat = 64 * b + 2 * i → 1 ≤ i → i ≤ h → h ≤ 31 → 64 * b + 128 ≤ 2 ^ 64 →
    (i < h → (nextPc pc h).toNat = 64 * b + 2 * (i + 1)) ∧ (i = h → (nextPc pc h).toNat = 64 * (b + 1) + 2) ∧
    (nextPc pc h).toNat % 64 ≠ 0 ∧ (nextPc pc h).toNat % 2 = 0

/-- R86, R89, R90, R91, R92 and R93: The jumps. J goes to its target; JL writes next to its link and goes to its target; JR goes to the value of its
name; JLR reads its target before it writes its link. BEQ, BNE, BLT, BLE, BGT, BGE, BZ, BNZ, BQT and BQF go to their target when their condition
holds and to next when it does not. BQT and BQF pop one outcome either way. LOOP decrements a declared counter under its own mode and branches while
the value just stored is nonzero; an A of 240 or more traps with cause 0x02. -/
def Obligations.ControlResult : Prop :=
  ((∀ (t : Target) (s : State), Completes (.j t) s (withStrand s (settled (curSlot s) (targetOf s.cur.pc t) s.cur.pc))) ∧
   (∀ (a : Name) (t : Target) (s v : State), writeName a ((nextOf s.cur.pc s.cur.h).toNat : Int) s = .ok () v →
     Completes (.jl a t) s (withStrand v (settled (curSlot v) (targetOf s.cur.pc t) s.cur.pc))) ∧
   (∀ (a : Name) (s v : State) (x : Int), readName a s = .ok x v →
     Completes (.jr a) s (withStrand v (settled (curSlot v) (BitVec.ofInt 64 x) s.cur.pc))) ∧
   (∀ (a b : Name) (s u v : State) (x : Int), readName b s = .ok x u → writeName a ((nextOf s.cur.pc s.cur.h).toNat : Int) u = .ok () v →
     Completes (.jlr a b) s (withStrand v (settled (curSlot v) (BitVec.ofInt 64 x) s.cur.pc)))) ∧
  ((∀ r ∈ branchRows, ∀ (b c : Name) (t : Target) (s u v : State) (x y : Int), readName b s = .ok x u → readName c u = .ok y v →
     Completes (r.1 b c t) s (withStrand v (settled (curSlot v) (if r.2 x y then targetOf s.cur.pc t else nextOf s.cur.pc s.cur.h) s.cur.pc))) ∧
   (∀ (a : Name) (t : Target) (s v : State) (x : Int), readName a s = .ok x v →
     Completes (.bz a t) s (withStrand v (settled (curSlot v) (if x = 0 then targetOf s.cur.pc t else nextOf s.cur.pc s.cur.h) s.cur.pc)) ∧
     Completes (.bnz a t) s (withStrand v (settled (curSlot v) (if x = 0 then nextOf s.cur.pc s.cur.h else targetOf s.cur.pc t) s.cur.pc))) ∧
   (∀ (t : Target) (s v : State) (x : Int), readName 245#8 s = .ok x v →
     Completes (.bqt t) s (withStrand v (settled (curSlot v) (if x = 1 then targetOf s.cur.pc t else nextOf s.cur.pc s.cur.h) s.cur.pc)) ∧
     Completes (.bqf t) s (withStrand v (settled (curSlot v) (if x = 0 then targetOf s.cur.pc t else nextOf s.cur.pc s.cur.h) s.cur.pc)))) ∧
  (∀ (a : Name) (t : Target) (s : State),
     (∀ (u v : State) (x y : Int), a.toNat < 240 → readName a s = .ok x u → writeName a (x - 1) u = .ok () v → readName a v = .ok y v →
       Completes (.loop a t) s (withStrand v (settled (curSlot v) (if y ≠ 0 then targetOf s.cur.pc t else nextOf s.cur.pc s.cur.h) s.cur.pc))) ∧
     (240 ≤ a.toNat → exec (.loop a t) s = .next (takeTrap s 0x02 0#64)))

/-! ### The strand class (R101 to R122) -/

/-- R33, R102, R111, R112, R115 and R116: NOP has no effect. YIELD has no effect on names, memory or state: it only makes its slot ineligible for 16
cycles from its issue, in place of 8. WFE clears a set event latch and goes on; on a clear one the strand sleeps. The ends of strands. EXIT, with no
pending error and nothing of its strand outstanding, leaves its slot FREE with no strand, names or vectors in it, and changes no byte of memory;
HRET, with no words left to push, leaves its slot FREE, its names and their values as they are, frees the inbox entry that the run handled and the
failed transfers of the run, leaves those in flight without a strand (R224), and changes nothing else: that flags, rounding mode, trap vector, $lnk,
windows and event latch stay is the model's choice (log entry 98). In the other slots each traps with cause 0x02. -/
def Obligations.StrandResult : Prop :=
  ((∀ s : State, Completes .nop s (goes s s)) ∧
   (∀ s : State, Completes .yield s (goes s s)) ∧
   (∀ (s : State) (k i t : Nat) (ins : Instr), let u := latch s k i ins;
     intervalOver (slotOf u k i) t = decide (cycOf s k + (if ins = .yield then 16 else 8) ≤ t)) ∧
   (∀ s : State, s.cur.slot < 14 →
     ((curSlot s).event = true →
       Completes .wfe s (withStrand s (settled { curSlot s with event := false } (nextOf s.cur.pc s.cur.h) s.cur.pc))) ∧
     ((curSlot s).event = false →
       Completes .wfe s (withStrand s { curSlot s with status := .sleep, nextPc := nextOf s.cur.pc s.cur.h, fenced := some s.serial })))) ∧
  (∀ s : State, (curSlot s).pendErr = none →
     (s.cur.slot < 14 → exitReady (unpaceStrand s s.cur.core s.cur.slot) s.cur.core s.cur.slot = true →
       ∃ t l y, Completes .exit s t ∧ curSlot t = { lastIssue := l, lastYield := y, stage := (curSlot s).stage } ∧ ∀ a, memByte t.mem a = memByte s.mem a) ∧
     (14 ≤ s.cur.slot → pushing s s.cur.core s.cur.slot = false →
       ∃ t, Completes .hret s t ∧ curSlot t = { curSlot s with status := .free, handling := none, launch := none } ∧
         (∀ e, (curSlot s).handling = some e →
           (coreOf t s.cur.core).inbox = (coreOf s s.cur.core).inbox.filter fun x => x.entry != e) ∧
         (let mine := fun (e : Xfer) => e.slot = s.cur.slot ∧ e.uid = (curSlot s).uid ∧ e.gone = false;
          t.clusters = (modLogical s (clusterOfKey s.cur.core) (unitId s s.cur.core) fun x =>
            { x with xfers := (x.xfers.filter fun e => !decide (mine e.2 ∧ e.2.result.isSome = true)).map fun e =>
                if mine e.2 then (e.1, { e.2 with gone := true }) else e }).clusters) ∧
         SameDevice s t ∧ SameCores s t s.cur.core ∧ SameSlots s t s.cur.core s.cur.slot) ∧
     (14 ≤ s.cur.slot → exec .exit s = .next (takeTrap s 0x02 0#64)) ∧
     (s.cur.slot < 14 → exec .hret s = .next (takeTrap s 0x02 0#64)))

/-- R114 and R115: EVSEND sends an event to a valid agent and goes on; an id that names no agent of the domain traps with cause 0x0F. An event that
arrives sets the latch of its slot, wakes a sleeping strand, which takes it (and stays STOPPED while its core is halted), and is lost in a FREE slot. -/
def Obligations.EventResult : Prop :=
  (∀ (a : Name) (s u : State) (v : Int), (curSlot s).pendErr = none → readName a s = .ok v u →
    let g : Agent := BitVec.ofInt 32 v;
    (agentValid u g = true → agentHere u g = true →
      Completes (.evsend a) s (withStrand { u with agenda := u.agenda ++ [.eventArrival g] }
        (settled (curSlot u) (nextOf s.cur.pc s.cur.h) s.cur.pc))) ∧
    (agentValid u g = true → agentHere u g = false → unreachable u (agentDev u g) = false →
      ∃ t, Completes (.evsend a) s t ∧ curSlot t = settled (curSlot u) (nextOf s.cur.pc s.cur.h) s.cur.pc ∧
        t.hwMsgs.length = u.hwMsgs.length + 1) ∧
    (agentValid u g = false → exec (.evsend a) s = .next (takeTrap s 0x0F (BitVec.ofInt 64 v)))) ∧
  (∀ (g : Agent) (s : State), let k := agentKey s g; let i := agentSlot g;
    ((slotOf s k i).status = .free → Completes (.eventArrival g) s s) ∧
    ((slotOf s k i).status = .sleep →
      Completes (.eventArrival g) s (setSlot s k i { settled (slotOf s k i) (slotOf s k i).nextPc (slotOf s k i).pc with
        status := if (coreOf s k).halted then .stopped .halted else .ready })) ∧
    ((slotOf s k i).status ≠ .free → (slotOf s k i).status ≠ .sleep →
      Completes (.eventArrival g) s (setSlot s k i { slotOf s k i with event := true })))

/-- R113: FORK. Its name 0 takes the value of B, or B is $zero where the map has no name 0, and the strand's full/empty writes are performed. With a
FREE work slot, quota left and places for its declarations, the child is READY at the target with its parent's windows, rounding mode, trap vector,
owner, launch and map, and its parent's declared names and vector ids: every name zero but name 0, which holds the value of B fitted to it under its
mode. A receives the child's agent id; without a slot or quota A receives 0xFFFFFFFF, and without a place 0xFFFFFFFE, and nothing else changes but
the strand. FORK so completes for every B that reads without a pop and every A that takes any value. -/
def Obligations.ForkResult : Prop :=
  (∀ (a b : Name) (g : Target) (s u : State) (v : Int), s.cur.slot < 14 → readName b s = .ok v u →
    ((tfind (curSlot s).names 0 = none ∧ b = 240#8) ∨ ∃ e, tfind (curSlot s).names 0 = some e ∧ (fitTo v e.width e.signed e.mode).isSome) →
    drainBusy u s.cur.core s.cur.slot 1 ((curSlot u).fenced.getD u.serial) = false →
    let i? := if quotaLeft u s.cur.core (curSlot u).launch then freeWork u s.cur.core else none;
    (∀ i t w, i? = some i → placeChild u i v (targetOf s.cur.pc g) = some t →
      (let c := slotOf t s.cur.core i;
       c.status = .ready ∧ c.pc = targetOf s.cur.pc g ∧ c.from' = s.cur.pc ∧ c.w0 = (curSlot u).w0 ∧ c.w1 = (curSlot u).w1 ∧ c.w2 = (curSlot u).w2 ∧
       c.w3 = (curSlot u).w3 ∧ c.rm = (curSlot u).rm ∧ c.tvec = (curSlot u).tvec ∧ c.owner = (curSlot u).owner ∧
       c.launch = (curSlot u).launch ∧ c.mapIdx = (curSlot u).mapIdx ∧ c.flags = 0#8 ∧ c.event = false ∧
       (∀ n, (tfind c.names n).map (fun e => (e.width, e.signed, e.mode, e.poison)) =
         (tfind (curSlot u).names n).map fun e => (e.width, e.signed, e.mode, false)) ∧
       (∀ n e, tfind c.names n = some e → if n = 0 then ∃ x sat, fitTo v e.width e.signed e.mode = some (x, sat) ∧
         e.bits = (BitVec.ofInt e.width x).setWidth 64 else e.bits = 0#64) ∧
       (∀ j, (tfind c.vecs j).map (fun e => (e.ty, e.first)) = (tfind (curSlot u).vecs j).map fun e => (e.ty, e.first))) ∧
      (writeName a ((selfAgent t s.cur.core i).toNat : Int) t = .ok () w →
        Completes (.fork a b g) s (goes s w))) ∧
    (∀ w, i? = none → writeName a 0xFFFFFFFF u = .ok () w →
      Completes (.fork a b g) s (goes s w)) ∧
    (∀ i w, i? = some i → placeChild u i v (targetOf s.cur.pc g) = none → writeName a 0xFFFFFFFE u = .ok () w →
      Completes (.fork a b g) s (goes s w))) ∧
  (∀ (a b : Name) (g : Target) (s : State), s.cur.slot < 14 → Steady s b → TakesAny s a →
    ((tfind (curSlot s).names 0 = none ∧ b = 240#8) ∨
      ∃ e, tfind (curSlot s).names 0 = some e ∧ (fitTo (sourceValue s b) e.width e.signed e.mode).isSome) →
    drainBusy s s.cur.core s.cur.slot 1 ((curSlot s).fenced.getD s.serial) = false → GoesOn (.fork a b g) s)

/-- R109, R117, R118, R122, R297, R361 and R363: MIGPT counts as issued in every slot, and in a handler slot, or in a work slot that nothing wants to
husk, goes on. A strand that a migration wants, with its values in and its writes on their way, leaves its slot FREE: its quad's write queue holds the
spill, for H + 1024 + 11264 * slot of the area of the request, and after it, as a release, for H + 64 * slot, the words of its record, with the
following PC and the husk marked as made by hardware; and a message for the cluster's supervisor, sent by the strand's slot, holds the migration handler's address, the strand's agent id, the record's address
and the number of strands left. A strand that a pre-emption wants leaves its slot FREE, and its husk, with the following PC, is kept for its queue.
That the record is a release in the write queue is the model's reading (log entry 86). -/
def Obligations.MigrationPoint : Prop :=
  ∀ s : State,
    (14 ≤ s.cur.slot ∨ ((curSlot s).pendErr = none ∧ huskDue s s.cur.core s.cur.slot = false) →
      Completes .migpt s (withStrand (modCore s s.cur.core fun c => { c with migpts := c.migpts + 1 })
        (settled (curSlot s) (nextOf s.cur.pc s.cur.h) s.cur.pc))) ∧
    (∀ q, s.cur.slot < 14 → (curSlot s).pendErr = none → migrationDue s s.cur.core = false →
      preemptingQueue s s.cur.core s.cur.slot = some q → huskable s s.cur.core s.cur.slot = true →
      ∃ t r b, Completes .migpt s t ∧ (curSlot t).status = .free ∧ (curSlot t).names = [] ∧
        (queueOf t q).husked = (queueOf s q).husked ++ [(r, b)] ∧ b = spillBytes (curSlot s) ∧
        r.take 8 = toBytes 8 (nextOf s.cur.pc s.cur.h).toNat ∧ SameMemory s t) ∧
    (s.cur.slot < 14 → (curSlot s).pendErr = none → migrationDue s s.cur.core = true → huskable s s.cur.core s.cur.slot = true →
      let c := clusterOfKey s.cur.core; let h := (clusterOf s c).migArea; let ra := h + 64 * s.cur.slot; let sp := h + 1024 + 11264 * s.cur.slot; let q := queueKey s.cur.core;
      let b := spillBytes (curSlot s); let me := selfAgent s s.cur.core s.cur.slot;
      let ws := huskRecord s s.cur.core s.cur.slot (nextOf s.cur.pc s.cur.h) 0 true (!(curSlot s).barWait.isEmpty || (curSlot s).barCounted) (BitVec.ofNat 64 sp);
      let bytes := fun (a : Nat) (l : List Byte) => l.zipIdx.map fun e => ({ addr := localPa s a + e.2, val := e.1 } : MByte);
      ∃ t x y, Completes .migpt s t ∧ (curSlot t).status = .free ∧ (curSlot t).names = [] ∧ SameMemory s t ∧ (quadOf t q).wq = (quadOf s q).wq ++ [x, y] ∧
        x.op = .store (bytes sp b) false ∧ x.rel = false ∧ y.op = .store (bytes ra (ws.flatMap fun w => toBytes 8 w.toNat)) false ∧ y.rel = true ∧ x.serial < y.serial ∧
        t.hwMsgs = s.hwMsgs ++ [{ msg := { core := 0, serial := 0, target := mkAgent 15 s.dev.num c 64, sender := me, launch := none,
                                           words := [s.dev.fwMigrate, me.setWidth 64, BitVec.ofNat 64 ra, BitVec.ofNat 64 (workStrands t s.cur.core)] },
                                  strand := some (s.cur.core, s.cur.slot, (curSlot s).uid) }])

/-! ### Write-backs, waits and pauses (R44, R52, R53, R101, R367) -/

/-- R5, R52, R53, R101, R177 and R367: The answered write-back at a position of a core that is not in a pause lands: its strand's declared name
holds the fitted value, and a value that a trap-mode name cannot hold is noted, the name unchanged. In a pause it is held in arrival order, up to
sixteen, and what comes later waits behind those. A pause ends after its last cycle, the write-backs that came during it land in order of arrival, and a pause that a placement has asked for since
begins; a value that did not fit traps its strand with
cause 0x04 where it would have issued; and a parked strand whose condition holds is READY at the instruction that waited, or STOPPED there while its
core is halted for debug. -/
def Obligations.LateValuesLand : Prop :=
  (∀ (k n : Nat) (s : State) (w : WriteBack) (v : Int), (coreOf s k).wbs[n]? = some w → w.val = some v →
     (∀ e, (coreOf s k).pauseTo = none → w.entry = none → w.err = none → (slotOf s k w.slot).uid = w.uid → w.name.toNat < 240 →
       nameOf s k w.slot w.name = some e →
       (∀ x sat, fitTo v e.width e.signed e.mode = some (x, sat) →
         ∃ t f, Completes (.writeBackArrival k n) s t ∧ nameOf t k w.slot w.name = some f ∧ f = { e with bits := f.bits, poison := w.poison } ∧
           (1 ≤ e.width → e.width ≤ 64 → f.value = x) ∧ (coreOf t k).wbs = dropAt (coreOf s k).wbs n ∧
           (∀ m, m ≠ w.name.toNat → tfind (slotOf t k w.slot).names m = tfind (slotOf s k w.slot).names m) ∧ SameDevice s t) ∧
       (fitTo v e.width e.signed e.mode = none → (slotOf s k w.slot).status = .ready →
         ∃ t, Completes (.writeBackArrival k n) s t ∧ (slotOf t k w.slot).names = (slotOf s k w.slot).names ∧
           (slotOf t k w.slot).lateFit = some ((slotOf s k w.slot).lateFit.getD (BitVec.ofInt 64 v)))) ∧
     ((coreOf s k).pauseTo.isSome → (coreOf s k).held.length < 16 →
       Completes (.writeBackArrival k n) s
         (setCore s k { coreOf s k with wbs := dropAt (coreOf s k).wbs n, held := (coreOf s k).held ++ [w] })) ∧
     ((coreOf s k).pauseTo.isSome → 16 ≤ (coreOf s k).held.length →
       Completes (.writeBackArrival k n) s
         (setCore s k { coreOf s k with wbs := dropAt (coreOf s k).wbs n, late := (coreOf s k).late ++ [w] }))) ∧
  ((∀ (k p : Nat) (s : State), (coreOf s k).pauseTo = some p → p < cycOf s k →
     ∃ t, Completes (.pauseEnd k) s t ∧
       t = ((coreOf s k).held ++ (coreOf s k).late).foldl (fun u w => landWb u k w) (setCore s k
         { coreOf s k with pauseTo := (coreOf s k).pauses.head?.map (p + ·), pauses := (coreOf s k).pauses.drop 1, held := [], late := [] })) ∧
   (∀ (s : State) (v : Word), (curSlot s).lateFit = some v → (curSlot s).tvec ≠ 0#64 → (curSlot s).active = false →
     ∃ t, Completes .lateFitTrap s t ∧ (curSlot t).pc = (curSlot s).tvec ∧ (curSlot t).cause = 0x04#8 ∧ (curSlot t).trapVal = v ∧
       (curSlot t).trapPc = s.cur.pc ∧ (curSlot t).active = true ∧ (curSlot t).lateFit = none ∧ (curSlot t).names = (curSlot s).names) ∧
   (∀ (k i : Nat) (s : State) (w : Wait), (slotOf s k i).status = .parked w → w ≠ .loadCheck → huskPoint s k i = false → waitOver s k i w = true →
     Completes (.waitEnd k i) s (setSlot s k i { slotOf s k i with status := if (coreOf s k).halted then .stopped .halted else .ready })))

/-! ### The map class (R58 to R65) -/

/-- R54, R60 and R61: MAPLD replaces the strand's map whole: with its image read and valid, its names quiet and places found, the strand has the
declared names of the image, with their widths, signedness and modes, all zero, and goes on; MAPREL releases every declared name and vector id. No
byte of memory changes. -/
def Obligations.MapReplaced : Prop :=
  (∀ (b c : Name) (disp : BitVec 16) (s s1 s2 s3 s4 s5 : State) (w : Word) (x : Int) (hd ps : List Parcel) (img : Image),
    readWindow b false s = .ok w s1 → readName c s1 = .ok x s2 → readParcels w (x + disp.toInt) 2 s2 = .ok hd s3 →
    readParcels w (x + disp.toInt) (imageLength (hd.getD 0 0#16).toNat (hd.getD 1 0#16).toNat) s3 = .ok ps s4 →
    parseImage false (decide (14 ≤ s.cur.slot)) ps = .inr img → namesQuiet s4 s.cur.core s.cur.slot = true →
    placeMap s4 s.cur.core s.cur.slot img = .inr s5 →
    ∃ t, Completes (.mapld b c disp) s t ∧ (curSlot t).pc = nextOf s.cur.pc s.cur.h ∧ (∀ a, memByte t.mem a = memByte s.mem a) ∧
      ∀ n, (tfind (curSlot t).names n).map (fun e => (e.width, e.signed, e.mode, e.bits)) =
        (img.scalars[n]?).map fun d => (d.width, d.signed, d.mode, 0#64)) ∧
  (∀ s : State, namesQuiet s s.cur.core s.cur.slot = true →
    ∃ t, Completes .maprel s t ∧ curSlot t = settled { curSlot s with names := [], vecs := [] } (nextOf s.cur.pc s.cur.h) s.cur.pc ∧
      SameDevice s t ∧ t.clusters = s.clusters ∧ SameSlots s t s.cur.core s.cur.slot)

/-- R57, R62, R63, R64 and R65: RESIZE and SETMODE of a declared name with no write-back outstanding. A narrower width holds the value fitted to it,
or traps with cause 0x05 in trap mode; a wider one keeps the value: in place if there is room beyond the name's own seat, else by a move to the lowest
free place of the slot's domain, with a pause of 6 cycles, else by a compaction, with one of 8 cycles and 2 for every seat that it changes, in which
every other name keeps its declaration and value, and else it traps with cause 0x06 and the width; the same width changes nothing. SETMODE sets signedness and mode and leaves the bits. RESIZEV of an array to no more rows than it has releases the ids past the new count, upon which seeds that found
no place are tried again (R49);
to more, it places the new ids, or traps with cause 0x02 and an id past 63 or already declared, or, where free rows do not suffice, with cause 0x06
and the first id left without one; WIDTHOF, MODEOF and SEATOF write what the declaration of C gives: for a fixed name its
width, 0 and 0xFFFF. -/
def Obligations.NamesReshapedAndQueried : Prop :=
  (∀ (b : Name) (s : State) (e : NameEntry), b.toNat < 240 → nameOf s s.cur.core s.cur.slot b = some e →
     outstanding s s.cur.core s.cur.slot b = false → 
     (∀ w : BitVec 7, 1 ≤ w.toNat → w.toNat ≤ 64 → 1 ≤ e.width → e.width ≤ 64 →
       (∀ x sat, w.toNat < e.width → fitTo e.value w.toNat e.signed e.mode = some (x, sat) →
         ∃ t f, Completes (.resize b w) s t ∧ nameOf t s.cur.core s.cur.slot b = some f ∧ f.value = x ∧
           f = { e with width := w.toNat, bits := f.bits, poison := false } ∧ (curSlot t).pc = nextOf s.cur.pc s.cur.h ∧
           SameNames (curSlot s) (curSlot t) [b] ∧ SameDevice s t) ∧
       (w.toNat < e.width → fitTo e.value w.toNat e.signed e.mode = none →
         exec (.resize b w) s = .next (takeTrap s 0x05 (BitVec.ofInt 64 e.value))) ∧
       (e.width < w.toNat → freeRun (occExcept s s.cur.core s.cur.slot b) e.row e.bit w.toNat = true →
         ∃ t f, Completes (.resize b w) s t ∧ nameOf t s.cur.core s.cur.slot b = some f ∧ f.value = e.value ∧
           f = { e with width := w.toNat, bits := f.bits } ∧ (curSlot t).pc = nextOf s.cur.pc s.cur.h ∧
           SameNames (curSlot s) (curSlot t) [b] ∧ SameDevice s t) ∧
       (let occ := occExcept s s.cur.core s.cur.slot b; let dom := domainOf s.cur.slot;
        let pauses := fun (t : State) (p : Nat) =>
          ((coreOf s s.cur.core).pauseTo = none → (coreOf t s.cur.core).pauseTo = some (cycOf s s.cur.core + p)) ∧
          ((coreOf s s.cur.core).pauseTo ≠ none → (coreOf t s.cur.core).pauseTo = (coreOf s s.cur.core).pauseTo ∧
            (coreOf t s.cur.core).pauses = (coreOf s s.cur.core).pauses ++ [p]);
        e.width < w.toNat → freeRun occ e.row e.bit w.toNat = false →
        (∀ r p, dom.1 ≤ r → r < dom.1 + dom.2 → freeRun occ r p w.toNat = true →
          (∀ r' p', dom.1 ≤ r' → (r' < r ∨ (r' = r ∧ p' < p)) → freeRun occ r' p' w.toNat = false) →
          ∃ t f, Completes (.resize b w) s t ∧ nameOf t s.cur.core s.cur.slot b = some f ∧ f.value = e.value ∧
            f = { e with width := w.toNat, bits := f.bits, row := r, bit := p } ∧ (curSlot t).pc = nextOf s.cur.pc s.cur.h ∧ pauses t 6 ∧
            SameNames (curSlot s) (curSlot t) [b] ∧ SameDevice s t) ∧
        ((∀ r p, dom.1 ≤ r → r < dom.1 + dom.2 → freeRun occ r p w.toNat = false) →
          let c := compact (coreOf s s.cur.core) s.cur.slot
            (tput (curSlot s).names b.toNat { e with width := w.toNat, bits := (BitVec.ofInt w.toNat e.value).setWidth 64 });
          (∀ new m, c = some (new, m) → ∃ t f, Completes (.resize b w) s t ∧ nameOf t s.cur.core s.cur.slot b = some f ∧ f.value = e.value ∧
            f = { e with width := w.toNat, bits := f.bits, row := f.row, bit := f.bit } ∧ (curSlot t).pc = nextOf s.cur.pc s.cur.h ∧ pauses t (8 + 2 * m) ∧
            (∀ i n, (i ≠ s.cur.slot ∨ n ≠ b.toNat) → (tfind (slotOf t s.cur.core i).names n).map (fun z => { z with row := 0, bit := 0 }) =
              (tfind (slotOf s s.cur.core i).names n).map fun z => { z with row := 0, bit := 0 }) ∧ SameDevice s t) ∧
          (c = none → exec (.resize b w) s = .next (takeTrap s 0x06 (BitVec.ofNat 64 w.toNat))))) ∧
       (w.toNat = e.width → Completes (.resize b w) s (goes s s))) ∧
     (∀ (g : BitVec 1) (m : BitVec 2), m.toNat < 3 →
       ∃ t, Completes (.setmode b g m) s t ∧ nameOf t s.cur.core s.cur.slot b =
           some { e with signed := decide (g = 1#1), mode := if m = 0#2 then .wrap else if m = 1#2 then .sat else .trap } ∧
         (curSlot t).pc = nextOf s.cur.pc s.cur.h ∧ SameNames (curSlot s) (curSlot t) [b] ∧ SameDevice s t)) ∧
  ((∀ (v : BitVec 6) (n : BitVec 7) (s : State) (e : VecEntry), tfind (curSlot s).vecs v.toNat = some e → e.first = v.toNat →
     namesQuiet s s.cur.core s.cur.slot = true →
     (n.toNat ≤ (arrayIds (curSlot s).vecs v.toNat).length →
       Completes (.resizev v n) s (withStrand (if n.toNat < (arrayIds (curSlot s).vecs v.toNat).length then namesFreed s s.cur.core else s)
         (settled { curSlot s with
           vecs := (curSlot s).vecs.filter fun x => x.2.first != v.toNat || decide (x.1 < v.toNat + n.toNat) }
         (nextOf s.cur.pc s.cur.h) s.cur.pc))) ∧
     (∀ u, (arrayIds (curSlot s).vecs v.toNat).length < n.toNat → resizeArray v.toNat n.toNat e.ty s = .ok () u →
       Completes (.resizev v n) s (goes s u) ∧
         (∀ j, j < n.toNat → (arrayIds (curSlot s).vecs v.toNat).length ≤ j → (tfind (curSlot u).vecs (v.toNat + j)).isSome)) ∧
     (let old := (arrayIds (curSlot s).vecs v.toNat).length; let free := rowsFree (rowsTaken s (quadOfKey s.cur.core) s.cur.core s.cur.slot false);
      let clash := fun j => 63 < v.toNat + j ∨ (tfind (curSlot s).vecs (v.toNat + j)).isSome = true;
      (∀ j, old ≤ j → j < n.toNat → clash j → (∀ j', old ≤ j' → j' < j → ¬clash j') →
        exec (.resizev v n) s = .next (takeTrap s 0x02 (BitVec.ofNat 64 (min (v.toNat + j) 64)))) ∧
      (old + free.length < n.toNat → (∀ j, old ≤ j → j < n.toNat → ¬clash j) →
        exec (.resizev v n) s = .next (takeTrap s 0x06 (BitVec.ofNat 64 (v.toNat + old + free.length)))) ∧
      (old < n.toNat → n.toNat ≤ old + free.length → (∀ j, old ≤ j → j < n.toNat → ¬clash j) → GoesOn (.resizev v n) s))) ∧
   (∀ (b c : Name) (s u : State),
     (∀ w, widthOfName c s = .ok w s → writeName b (w : Int) s = .ok () u →
       Completes (.widthof b c) s (goes s u)) ∧
     (∀ e, c.toNat < 240 → nameOf s s.cur.core s.cur.slot c = some e →
       (writeName b ((match e.mode with | .wrap => 0 | .sat => 1 | .trap => 2) + (if e.signed then 4 else 0)) s = .ok () u →
         Completes (.modeof b c) s (goes s u)) ∧
       (writeName b ((128 * e.row + e.bit : Nat) : Int) s = .ok () u →
         Completes (.seatof b c) s (goes s u))) ∧
     (240 ≤ c.toNat →
       (writeName b 0 s = .ok () u → Completes (.modeof b c) s (goes s u)) ∧
       (writeName b 0xFFFF s = .ok () u → Completes (.seatof b c) s (goes s u)))))

/-- R117, R120 and R121: HUSK.SAVE and HUSK.SAVEG, in a work slot without a pending error and with its names quiet, complete once the record's
place, its SPILL address, a multiple of 64, and every block of the spill translate and the runs are sent: the spill first, then, as a release, the
record with the following PC. HUSK.RUN and HUSK.RUNG in a work slot make the strand the one that the record and its spill give: it stands at the
record's PC with the record's link, trap vector, rounding mode, flags and windows, come from the PC of the instruction. On a supervisor core they
start the strand on the core that AGENT names, in the slot that it names if that is FREE, else in the lowest FREE work slot: it is READY at the record's
PC, or STOPPED there while that core is halted for debug, with what the record and its spill give it, for the record's launch, which has one husk
fewer, and the supervisor goes on at next; with no slot FREE there it waits for one. -/
def Obligations.HuskSaveAndRun : Prop :=
  (∀ (glob : Bool) (b c : Name) (disp : BitVec 16) (s s1 s2 s3 s4 s5 : State) (ra : Nat × Word) (sp : Nat) (ps : List Nat),
    s.cur.slot < 14 → (curSlot s).pendErr = none → namesQuiet s s.cur.core s.cur.slot = true →
    huskPlace glob b c disp .store s = .ok ra s1 → readClean (ra.1 + 56) 8 (ra.2 + 56#64) s1 = .ok sp s2 → sp % 64 = 0 →
    translateBlocks (BitVec.ofNat 64 sp) (((spillBytes (curSlot s2)).length + 63) / 64) .store s2 = .ok ps s3 →
    emitRuns (joinRuns (ps.zip (cut64 (((spillBytes (curSlot s2)).length + 63) / 64) (spillBytes (curSlot s2))))) (BitVec.ofNat 64 sp) false s3 = .ok () s4 →
    emitRuns [(ra.1, (huskRecord s4 s4.cur.core s4.cur.slot (curNext s4) 0 false false (BitVec.ofNat 64 sp)).flatMap fun w => toBytes 8 w.toNat)]
      ra.2 true s4 = .ok () s5 →
    Completes (if glob then .huskSaveg b c disp else .huskSave b c disp) s (goTo s5 (curNext s5))) ∧
  (∀ (glob : Bool) (b c : Name) (disp : BitVec 16) (s s1 s2 s3 s4 t : State) (ra : Nat × Word) (ws : List Word) (sp : SpillAt) (d : HuskData),
    s.cur.slot < 14 → isSupervisor s.cur.core = false → huskPlace glob b c disp .load s = .ok ra s1 → readWords ra.1 ra.2 8 s1 = .ok ws s2 →
    badHuskWord ws = none → huskLaunch ws s2 = .ok sp s2 → readSpill ws sp s2 = .ok d s3 → s3.cur = s.cur → s2.cur = s.cur →
    namesQuiet s3 s.cur.core s.cur.slot = true → placeMap s3 s.cur.core s.cur.slot d.img = .inr s4 → s4.cur = s.cur →
    becomeHusk d s3 = .ok () t →
    Completes (if glob then .huskRung b c disp else .huskRun b c disp) s t ∧ d.words = ws ∧
      (curSlot t).pc = ws.getD 0 0#64 ∧ (curSlot t).from' = s.cur.pc ∧ (curSlot t).rm = BitVec.ofNat 3 ((ws.getD 4 0#64).toNat / 256 % 8) ∧ (curSlot t).lnk = ws.getD 3 0#64 ∧ (curSlot t).tvec = ws.getD 5 0#64 ∧
      (curSlot t).flags = BitVec.ofNat 8 ((ws.getD 4 0#64).toNat % 256) ∧ (curSlot t).w0 = d.wins.getD 0 0#64 ∧ (curSlot t).w1 = d.wins.getD 1 0#64 ∧
      (curSlot t).w2 = d.wins.getD 2 0#64 ∧ (curSlot t).w3 = d.wins.getD 3 0#64) ∧
  (∀ (glob : Bool) (b c : Name) (disp : BitVec 16) (s s1 s2 s3 : State) (ra : Nat × Word) (ws : List Word) (sp : SpillAt) (d : HuskData),
    s.cur.slot < 14 → isSupervisor s.cur.core = true → huskPlace glob b c disp .load s = .ok ra s1 → readWords ra.1 ra.2 8 s1 = .ok ws s2 →
    badHuskWord ws = none → huskLaunch ws s2 = .ok sp s2 → readSpill ws sp s2 = .ok d s3 → s3.cur = s.cur → s2.cur = s.cur →
    let g : Agent := BitVec.ofNat 32 ((ws.getD 1 0#64).toNat / 2 ^ 32); let k := agentKey s3 g; let l := (ws.getD 2 0#64).toNat % 2 ^ 32;
    let z := if glob then Instr.huskRung b c disp else .huskRun b c disp;
    agentValid s3 g = true → agentHere s3 g = true → agentUnit g < 64 → agentCluster g = clusterOfKey s.cur.core → isCore k = true →
    drainBusy s3 s.cur.core s.cur.slot 4 ((curSlot s3).fenced.getD s3.serial) = false →
    (∀ i s4, (slotOf s3 k i).status = .free →
      (i = agentSlot g ∨ ((slotOf s3 k (agentSlot g)).status ≠ .free ∧ i < 14 ∧ ∀ j, j < i → (slotOf s3 k j).status ≠ .free)) →
      placeMap (dropMap s3 k) k i d.img = .inr s4 →
      ∃ t, Completes z s t ∧ (curSlot t).pc = nextOf s.cur.pc s.cur.h ∧
        (let x := slotOf t k i;
         x.status = (if (coreOf s3 k).halted then .stopped .halted else .ready) ∧ x.pc = ws.getD 0 0#64 ∧ x.launch = some l ∧
         x.lnk = ws.getD 3 0#64 ∧ x.tvec = ws.getD 5 0#64 ∧ x.rm = BitVec.ofNat 3 ((ws.getD 4 0#64).toNat / 256 % 8) ∧
         x.flags = BitVec.ofNat 8 ((ws.getD 4 0#64).toNat % 256) ∧ x.owner = some ((ws.getD 4 0#64).toNat / 2 ^ 16 % 64) ∧
         x.w0 = d.wins.getD 0 0#64 ∧ x.w1 = d.wins.getD 1 0#64 ∧ x.w2 = d.wins.getD 2 0#64 ∧ x.w3 = d.wins.getD 3 0#64) ∧
        (tfind t.launches l).map (·.husks) = (tfind s3.launches l).map (·.husks - 1)) ∧
    ((∀ j, j < 14 → (slotOf s3 k j).status ≠ .free) → (slotOf s3 k (agentSlot g)).status ≠ .free →
      ∃ t, Completes z s t ∧ (curSlot t).status = .parked (.slotFree k)))

/-! ### The step class (R124 to R148) -/

/-- R134 to R137 and R139: DEPSET, SKEWSET and RINGSET of an unpaced core in a work slot set what they name, if the skew rule then holds:
DEPSET an entry of the producer or subscriber list, empty for 0xFFFFFFFF, and it asks a named core of this device for its count; SKEWSET L; RINGSET
a ring's window and depth. On a paced core each traps with cause 0x02 and TRAPVAL 1; outside work slots of a core each does with TRAPVAL 0. PACE on an unpaced
core makes it paced with S and F 0, in PHASE RUN, END 0, and the strand a member, and where its count had ended it tells its neighbours that it
begins anew; on a paced core the strand joins. UNPACE of
a member that is not the last removes it; of the last it ends pacing: PACED 0 and END 1, with S and F as they were. -/
def Obligations.PacingSetUp : Prop :=
  (∀ s : State, let c := clusterOfKey s.cur.core; let l := unitId s s.cur.core;
     (paceable s = true → (logicalOf s c l).paced = false →
       (∀ lim : BitVec 16, lim.toNat ≤ 15 → skewBreaks { logicalOf s c l with limit := lim.toNat } = false →
         Completes (.skewset lim) s (goes s (modLogical s c l fun x => { x with limit := lim.toNat }))) ∧
       (∀ (b : Name) (ring depth : BitVec 4) (u : State) (v : Int), readName b s = .ok v u → u.clusters = s.clusters → u.cur = s.cur → ring.toNat < 4 →
         ringWindowOk s.cur.core (BitVec.ofInt 64 v) (depth.toNat + 1) = true → winValid (BitVec.ofInt 64 v) false = true →
         skewBreaks { logicalOf s c l with rings := tput (logicalOf s c l).rings ring.toNat ⟨BitVec.ofInt 64 v, depth.toNat + 1⟩ } = false →
         Completes (.ringset b ring depth) s
           (goes s (modLogical u c l fun x => { x with rings := tput x.rings ring.toNat ⟨BitVec.ofInt 64 v, depth.toNat + 1⟩ }))) ∧
       (∀ (b : Name) (subs : BitVec 1) (idx : BitVec 4) (u : State) (v : Int), readName b s = .ok v u → u.clusters = s.clusters → u.cur = s.cur →
         let g : Agent := BitVec.ofInt 32 v;
         let side := fun (f : Tab Neighbour → Tab Neighbour) (x : Logical) =>
           if subs = 1#1 then { x with subscribers := f x.subscribers } else { x with producers := f x.producers }
         (subs = 1#1 ∨ idx.toNat < 8) →
         (g = 0xFFFFFFFF#32 → skewBreaks (side (fun y => tdel y idx.toNat) (logicalOf s c l)) = false →
           Completes (.depset b subs idx) s (goes s (modLogical u c l (side fun y => tdel y idx.toNat)))) ∧
         (g ≠ 0xFFFFFFFF#32 → agentValid u g = true → agentUnit g < 64 → agentDev u g = u.dev.num →
           (let n := newNeighbour u g;
            skewBreaks (side (fun y => tput y idx.toNat n) (logicalOf s c l)) = false →
            agentHere (modLogical u c l (side fun y => tput y idx.toNat n)) n.agent = true →
            Completes (.depset b subs idx) s (goes s { modLogical u c l (side fun y => tput y idx.toNat n) with
              agenda := u.agenda ++ [.countRequest n.agent (coreAgent u c l)] }))))) ∧
     (∀ (b : Name) (lim : BitVec 16) (ring depth idx : BitVec 4) (subs : BitVec 1),
       (paceable s = true → (logicalOf s c l).paced = true → exec (.skewset lim) s = .next (takeTrap s 0x02 1#64) ∧
         ∀ (u : State) (v : Int), readName b s = .ok v u → u.clusters = s.clusters → u.cur = s.cur →
           exec (.depset b subs idx) s = .next (takeTrap s 0x02 1#64) ∧ exec (.ringset b ring depth) s = .next (takeTrap s 0x02 1#64)) ∧
       (paceable s = false → ∀ i ∈ [Instr.skewset lim, .depset b subs idx, .ringset b ring depth], exec i s = .next (takeTrap s 0x02 0#64)))) ∧
  (∀ s : State, paceable s = true → let c := clusterOfKey s.cur.core; let l := unitId s s.cur.core; let x := logicalOf s c l;
     let m : Member := { uids := [(slotOf s (physKey s c l) s.cur.slot).uid] };
     (x.paced = false → tfind x.members s.cur.slot = none →
       let u := modLogical s c l fun y => { y with paced := true, s := 0#32, f := 0#32, held := false, ended := false, members := tput y.members s.cur.slot m };
       (x.ended = false → Completes .pace s (goes s u)) ∧
       (x.ended = true → Completes .pace s (goes s (announce u c l true)) ∧ ∀ e ∈ x.producers ++ x.subscribers, agentHere s e.2.agent = true →
         .announceArrival e.2.agent (coreAgent s c l) 0#32 true false ∈ (announce u c l true).agenda)) ∧
     (x.paced = true → tfind x.members s.cur.slot = none →
       Completes .pace s (goes s (modLogical s c l fun y => { y with members := tput y.members s.cur.slot m }))) ∧
     ((tfind x.members s.cur.slot).isSome → tdel x.members s.cur.slot ≠ [] →
       Completes .unpace s (goes s (modLogical s c l fun y => { y with members := tdel y.members s.cur.slot }))) ∧
     ((tfind x.members s.cur.slot).isSome → tdel x.members s.cur.slot = [] →
       ∃ t, Completes .unpace s t ∧ (curSlot t).pc = nextOf s.cur.pc s.cur.h ∧ (logicalOf t c l).paced = false ∧ (logicalOf t c l).ended = true ∧
         (logicalOf t c l).s = x.s ∧ (logicalOf t c l).f = x.f ∧ (logicalOf t c l).members = [] ∧
         ∀ a, memByte t.mem a = memByte s.mem a))

/-- R127 to R129: STEP of a member records its arrival and parks it; when every member has arrived and nothing of theirs is left to perform, the
core finishes: F is S + 1, PHASE is HELD, and every neighbour of this device is told F; and when its conditions hold the core begins: S is F, PHASE
is RUN, no member has arrived, and every strand that waited in STEP goes on past it, STOPPED there if the core is halted for debug. STEP while the
PHASE is HELD waits and records no arrival, and STEP of a strand that is no member traps with cause 0x02. -/
def Obligations.StepFinishBegin : Prop :=
  (∀ (s : State) (m : Member), let c := clusterOfKey s.cur.core; let l := unitId s s.cur.core;
    paceable s = true → (curSlot s).pendErr = none → tfind (logicalOf s c l).members s.cur.slot = some m → (logicalOf s c l).held = false →
    Completes .step s (withStrand (modLogical s c l fun y => { y with members := tput y.members s.cur.slot { m with arrived := true, bound := s.serial, rejoins := false } })
      { curSlot s with status := .parked .step, nextPc := nextOf s.cur.pc s.cur.h, kept := (curSlot s).taken ++ (curSlot s).kept, taken := [],
                       fenced := some ((curSlot s).fenced.getD s.serial) })) ∧
  (∀ s : State, let c := clusterOfKey s.cur.core; let l := unitId s s.cur.core; paceable s = true → (curSlot s).pendErr = none →
    (∀ m : Member, tfind (logicalOf s c l).members s.cur.slot = some m → (logicalOf s c l).held = true →
      ∃ t, Completes .step s t ∧ (curSlot t).status = .parked .step ∧ (curSlot t).nextPc = nextOf s.cur.pc s.cur.h ∧
        logicalOf t c l = { logicalOf s c l with members := (logicalOf t c l).members } ∧
        tfind (logicalOf t c l).members s.cur.slot = some { m with rejoins := false } ∧
        ∀ j, j ≠ s.cur.slot → tfind (logicalOf t c l).members j = tfind (logicalOf s c l).members j) ∧
    (tfind (logicalOf s c l).members s.cur.slot = none → exec .step s = .next (takeTrap s 0x02 0#64))) ∧
  (∀ (k : Nat) (s : State), let c := clusterOfKey k; let l := unitId s k;
    isCore k = true → canFinish s c l = true →
    ∃ t, Completes (.stepFinish k) s t ∧ logicalOf t c l = { logicalOf s c l with f := (logicalOf s c l).s + 1#32, held := true } ∧
      (∀ e ∈ (logicalOf s c l).producers ++ (logicalOf s c l).subscribers, agentHere s e.2.agent = true →
        .announceArrival e.2.agent (coreAgent s c l) ((logicalOf s c l).s + 1#32) false (logicalOf s c l).ended ∈ t.agenda) ∧
      ∀ a, memByte t.mem a = memByte s.mem a) ∧
  (∀ (k : Nat) (s : State), let c := clusterOfKey k; let l := unitId s k;
    isCore k = true → canBegin s c l = true →
    ∃ t, Completes (.stepBegin k) s t ∧ (logicalOf t c l).s = (logicalOf s c l).f ∧ (logicalOf t c l).f = (logicalOf s c l).f ∧ (logicalOf t c l).held = false ∧
      (∀ j m, tfind (logicalOf t c l).members j = some m → m.arrived = false) ∧
      (∀ i, i < 14 → (slotOf s k i).status = .parked .step →
        (slotOf t k i).status = (if (coreOf s k).halted then .stopped .halted else .ready) ∧ (slotOf t k i).pc = (slotOf s k i).nextPc) ∧
      ∀ a, memByte t.mem a = memByte s.mem a)

/-- R130, R131, R139 and R148: an announce is heard by the entries that name its core, on both lists: the count goes up to it in serial order, END
stays once heard, and a restart sets the count and clears LOST; no other entry changes. A count request is answered with the core's F; that the
answer carries the core's END too is the model's reading (log entry 28). -/
def Obligations.CountsHeard : Prop :=
  (∀ (dst p : Agent) (n : BitVec 32) (restart ended : Bool) (s : State), agentUnit dst < 64 →
    ∃ t, Completes (.announceArrival dst p n restart ended) s t ∧ ∀ (i : Nat) (e : Neighbour),
      let x := logicalOf s (agentCluster dst) (agentUnit dst);
      let y := logicalOf t (agentCluster dst) (agentUnit dst);
      let f : Neighbour := if sameUnit s e.agent p = false then e
        else if restart then ⟨e.agent, n, ended, false⟩
        else ⟨e.agent, if 0 < (n - e.count).toInt then n else e.count, e.ended || ended, e.lost⟩
      (tfind x.producers i = some e → tfind y.producers i = some f) ∧ (tfind x.subscribers i = some e → tfind y.subscribers i = some f)) ∧
  (∀ (dst sub : Agent) (s : State), agentUnit dst < 64 → agentHere s sub = true →
    let x := logicalOf s (agentCluster dst) (agentUnit dst);
    Completes (.countRequest dst sub) s
      { s with agenda := s.agenda ++ [.announceArrival sub (coreAgent s (agentCluster dst) (agentUnit dst)) x.f false x.ended] })

/-- R140, R141, R143 and R147: PUTS on a paced core sends the word of A to the ring's slot of the current step; GETS of a core's ring parks its
strand, with a write-back to A outstanding, and asks the producer; a request that reaches the producer of a step it has finished and still keeps is
answered with the word of the ring's slot, or looked at again in the next cycle while something queued goes before it; one for a step not yet
finished waits at the quad, and one that found the list full is looked at again after 64 cycles, or, from a peer, is answered so that it is sent again. PUTS completes for every source that reads without a pop while its unit's
write queue has room, and GETS is sent, its strand waiting for the answer, for every valid producer that can be reached, but to a peer it does not
pass what its quad has queued for that device: it is looked at again until that has left. A GETS that reaches a core that is sealed, or that was and
has not been restarted since, traps its reader with cause 0x0D and the producer's id. -/
def Obligations.PutsGetsResult : Prop :=
  (∀ (a : Name) (ring : BitVec 2) (off : BitVec 12) (s u : State) (v : Int) (r : Ring), let c := clusterOfKey s.cur.core; let l := unitId s s.cur.core;
    paceable s = true → (curSlot s).pendErr = none → (logicalOf s c l).paced = true → tfind (logicalOf s c l).rings ring.toNat = some r →
    readName a s = .ok v u → hasRoom u → u.cur = s.cur →
    let p := ringAddr s.cur.core r (logicalOf s c l).s off.toNat;
    Completes (.puts a ring off) s (goes s (sent u (.store (bytesAt p 8 (BitVec.ofInt 64 v)) false) (BitVec.ofNat 64 (p / 8 * 8)) false true))) ∧
  (∀ (a b c : Name) (ring : BitVec 2) (off : BitVec 12) (s u w z : State) (p n : Int) (ser : Nat), (s.cur.slot < 14 ∨ isCore s.cur.core = false) →
    readName b s = .ok p u → readName c u = .ok n w → agentValid w (BitVec.ofInt 32 p) = true → agentUnit (BitVec.ofInt 32 p) < 64 →
    agentHere w (BitVec.ofInt 32 p) = true → deferWrite a none none false w = .ok ser z → agentHere z (BitVec.ofInt 32 p) = true → z.cur = s.cur →
    ∃ t g, Completes (.gets a b c ring off) s t ∧ t.agenda = z.agenda ++ [.getsArrival g] ∧ g.producer = BitVec.ofInt 32 p ∧ g.step = BitVec.ofInt 32 n ∧
      g.ring = ring ∧ g.off = off ∧ g.serial = ser ∧ g.core = s.cur.core ∧ g.slot = s.cur.slot ∧ (curSlot t).status = .parked (.gets ser) ∧
      (curSlot t).nextPc = nextOf s.cur.pc s.cur.h) ∧
  (∀ (a b c : Name) (ring : BitVec 2) (off : BitVec 12) (s u w z : State) (p n : Int) (ser : Nat) (e : WEntry),
    (s.cur.slot < 14 ∨ isCore s.cur.core = false) → let g : Agent := BitVec.ofInt 32 p;
    readName b s = .ok p u → readName c u = .ok n w → agentValid w g = true → agentUnit g < 64 → unreachable w (agentDev w g) = false →
    deferWrite a none none false w = .ok ser z → agentHere w g = false → agentHere z g = false → z.cur = s.cur →
    e ∈ shownTo z s.cur.core s.cur.slot → inPeer e.op.span.1 = true → peerDev e.op.span.1 = agentDev z g →
    ∃ t r, Completes (.gets a b c ring off) s t ∧ t.fab = z.fab ∧ r.producer = g ∧ r.step = BitVec.ofInt 32 n ∧ r.ring = ring ∧ r.off = off ∧
      (quadOf t (queueKey s.cur.core)).stepRetry = (quadOf z (queueKey s.cur.core)).stepRetry ++ [(z.uncore + 1, r)]) ∧
  (∀ (a : Name) (ring : BitVec 2) (off : BitVec 12) (s : State), let x := logicalOf s (clusterOfKey s.cur.core) (unitId s s.cur.core);
    paceable s = true → (curSlot s).pendErr = none → x.paced = true → (tfind x.rings ring.toNat).isSome = true → Steady s a → hasRoom s →
    GoesOn (.puts a ring off) s) ∧
  (∀ (a b c : Name) (ring : BitVec 2) (off : BitVec 12) (s : State), let p : Agent := BitVec.ofInt 32 (sourceValue s b);
    (s.cur.slot < 14 ∨ isCore s.cur.core = false) → Steady s b → Steady s c → TakesLate s a → agentValid s p = true → agentUnit p < 64 →
    (agentHere s p = true ∨ unreachable s (agentDev s p) = false) →
    ∃ t, Completes (.gets a b c ring off) s t ∧ (curSlot t).status = .parked (.gets s.serial) ∧ (curSlot t).nextPc = nextOf s.cur.pc s.cur.h) ∧
  (∀ (g : GetsReq) (s : State), getsLive s g = true →
    (∀ a, getsLook s g = .gives a → getsBehind s g a = true →
      Completes (.getsArrival g) s (modQuad s (getsQuad s g) fun x => { x with stepRetry := x.stepRetry ++ [(s.uncore + 1, g)] })) ∧
    (∀ a, getsLook s g = .gives a → getsBehind s g a = false → g.from' = none → s.flips = [] → s.poison = [] → (coreOf s g.core).halted = false →
      ∃ t, Completes (.getsArrival g) s t ∧ (slotOf t g.core g.slot).status = .ready ∧ (slotOf t g.core g.slot).pc = (slotOf s g.core g.slot).nextPc ∧
        t.mem = s.mem) ∧
    (let k := physKey s (agentCluster g.producer) (agentUnit g.producer); let x := slotOf s g.core g.slot;
     (coreOf s k).sealed = true ∨ (logicalOf s (agentCluster g.producer) (agentUnit g.producer)).restart.isSome = true →
     g.from' = none → x.tvec ≠ 0#64 → x.active = false →
     ∃ t, Completes (.getsArrival g) s t ∧ (slotOf t g.core g.slot).cause = 0x0D#8 ∧ (slotOf t g.core g.slot).trapVal = g.producer.setWidth 64 ∧
       (slotOf t g.core g.slot).pc = x.tvec) ∧
    (getsLook s g = .waits → (quadOf s (getsQuad s g)).stepWaits.length < 32 →
      Completes (.getsArrival g) s (modQuad s (getsQuad s g) fun x => { x with stepWaits := x.stepWaits ++ [g] })) ∧
    (getsLook s g = .waits → 32 ≤ (quadOf s (getsQuad s g)).stepWaits.length →
      (g.from' = none →
        Completes (.getsArrival g) s (modQuad s (getsQuad s g) fun x => { x with stepRetry := x.stepRetry ++ [(s.uncore + 64, g)] })) ∧
      (∀ d sq, g.from' = some (d, sq) → Completes (.getsArrival g) s (reply s d sq 1 0 [])))) ∧
  (∀ (g : GetsReq) (s : State) (q : Nat) (x : Quad), s.quads = [(q, x)] → x.stepRetry = [(s.uncore, g)] → agentHere s g.producer = true →
    Completes (.getsRetry g) s (getsArrive (modQuad s q fun y => { y with stepRetry := [] }) g))

/-! ### Memory (R155 to R166, R188 to R190) -/

/-- R155, R158, R159, R166, R177 and R199: WIN builds a descriptor: the base of B rounded down to the size, LG, the quad of C, 0x3FF for $zero, and
the kind. The loads LDQ, LDB, LDG and LDACQ of memory of this device. Each reads its bytes at the address that its rule gives, and the value is on
its way to the destination: a write-back that holds it, read under the destination's signedness; a load of poisoned data by a core brings 0 and the
error of cause 0x0E. A load through a command window reads 0, and a misaligned global load traps with cause 0x0B. No byte of memory changes. WIN and
the loads so complete for all sources that read without a pop and all destinations that take a value, with a legal window or an aligned address that
translates, as long as nothing queued stands before the words that they read. That a load of this device reads its bytes at issue is the model's
choice (log entry 17). -/
def Obligations.WindowAndLoadResult : Prop :=
  (∀ (a b c : Name) (kind : BitVec 2) (size : BitVec 5) (s u w t : State) (x y : Int), readName b s = .ok x u → readName c u = .ok y w →
     let q : Nat := if c = 240#8 then 0x3FF else (y % 1024).toNat;
     let base : Nat := (x % 2 ^ 19).toNat / 2 ^ size.toNat * 2 ^ size.toNat;
     writeName a ((base + size.toNat * 2 ^ 19 + q * 2 ^ 24 + kind.toNat * 2 ^ 34 : Nat) : Int) w = .ok () t →
     Completes (.win a b c kind size) s (goes s t)) ∧
  ((∀ (a b c : Name) (size : BitVec 2) (disp : BitVec 14) (s u w x y : State) (d : Word) (o : Int) (v : Nat × Bool),
     readWindow b true s = .ok d u → readName c u = .ok o w →
     (winKind d = 1 → loadTo a 64 0 false 0#64 w = .ok () y → Completes (.ldq a b c size disp) s (goes s y)) ∧
     (winKind d ≠ 1 → let n : Nat := 2 ^ size.toNat;
       readBytes (winAddr w.cur.core d (o + disp.toInt) n) n w = .ok v x →
       loadTo a (8 * n) v.1 v.2 (BitVec.ofNat 64 (winAddr w.cur.core d (o + disp.toInt) n / 8 * 8)) x = .ok () y →
       Completes (.ldq a b c size disp) s (goes s y) ∧ y.mem = s.mem)) ∧
   (∀ (a b c : Name) (disp : BitVec 10) (bits : BitVec 6) (s u w x y : State) (d : Word) (o : Int) (v : Nat × Bool × Nat),
     readWindow b false s = .ok d u → readName c u = .ok o w →
     readBits d (((o + disp.toInt) % (8 * 2 ^ winLg d : Nat)).toNat) (bits.toNat + 1) w = .ok v x →
     loadTo a (bits.toNat + 1) v.1 v.2.1 (BitVec.ofNat 64 v.2.2) x = .ok () y → Completes (.ldb a b c disp bits) s (goes s y) ∧ y.mem = s.mem) ∧
   (∀ (a b c : Name) (size : BitVec 2) (sc : BitVec 3) (disp : BitVec 14) (disp' : BitVec 11) (s u w x y : State) (vb vc : Int) (p : Nat),
     readName b s = .ok vb u → let n : Nat := 2 ^ size.toNat;
     (readName c u = .ok vc w → let va : Word := BitVec.ofInt 64 (vb + vc * n + disp.toInt);
       (va.toNat % n = 0 → translateCur va .load w = .ok p x → inPeer p = false → globalLoad a p n va x = .ok () y → checksLoads y = false →
         Completes (.ldg a b c size disp) s (goes s y)) ∧
       (va.toNat % n ≠ 0 → exec (.ldg a b c size disp) s = .next (takeTrap s 0x0B va))) ∧
     (let va : Word := BitVec.ofInt 64 (vb + disp'.toInt);
       (va.toNat % n = 0 → translateCur va .load u = .ok p x → inPeer p = false → globalLoad a p n va x = .ok () y → checksLoads y = false →
         Completes (.ldacq a b size sc disp') s (goes s y)) ∧
       (va.toNat % n ≠ 0 → exec (.ldacq a b size sc disp') s = .next (takeTrap s 0x0B va)))) ∧
   (∀ (a : Name) (bits v : Nat) (bad : Bool) (addr : Word) (s t : State) (ser : Nat), deferWrite a none none false s = .ok ser t → ser ≠ 0 →
     isStreamer t.cur.core = false →
     loadTo a bits v bad addr s = .ok () (answerWb t t.cur.core ser bits (if bad then 0 else v) (if bad then some (0x0E, addr) else none) false)) ∧
   (∀ (a b c : Name) (s : State), Steady s b → Steady s c →
     let k := s.cur.core; let i := s.cur.slot; let d : Word := BitVec.ofInt 64 (sourceValue s b); let o := sourceValue s c; let free := fun p n => inPeer p = false ∧ loadBehind s k i p n = false;
     (∀ (kind : BitVec 2) (size : BitVec 5), TakesAny s a → GoesOn (.win a b c kind size) s) ∧
     (TakesLate s a →
       (∀ (size : BitVec 2) (disp : BitVec 14), winValid d (isCore k) = true →
         (winKind d = 1 ∨ free (winAddr k d (o + disp.toInt) (2 ^ size.toNat)) (2 ^ size.toNat)) → GoesOn (.ldq a b c size disp) s) ∧
       (∀ (disp : BitVec 10) (bits : BitVec 6), let β := ((o + disp.toInt) % (8 * 2 ^ winLg d : Nat)).toNat; let base := winStore k d + winBase d; winValid d false = true →
         free (base + 8 * (β / 64)) 8 → free (base + 8 * ((β / 64 + 1) % (2 ^ winLg d / 8))) 8 → GoesOn (.ldb a b c disp bits) s) ∧
       (∀ (size : BitVec 2) (sc : BitVec 3) (disp : BitVec 14) (disp' : BitVec 11), let n : Nat := 2 ^ size.toNat; checksLoads s = false →
         (let va : Word := BitVec.ofInt 64 (sourceValue s b + o * n + disp.toInt);
          va.toNat % n = 0 → ∀ p, translateCur va .load s = .ok p s → free p n → GoesOn (.ldg a b c size disp) s) ∧
         (let va : Word := BitVec.ofInt 64 (sourceValue s b + disp'.toInt);
          va.toNat % n = 0 → ∀ p, translateCur va .load s = .ok p s → free p n → GoesOn (.ldacq a b size sc disp') s)))))

/-- R158, R160, R166, R178, R188, R199, R204 and R263: the stores STQ, STB, STG and STREL, without a pending error and with room in the write queue,
leave at commit: an entry with the bytes of the value, at the address that the rule gives, stands at the end of their unit's queue, and every byte
of memory is as it was until it is performed. The entry of a STREL whose scope passes the quad, or whose strand has full/empty writes left, is a
release (R191). STQ through a command window writes a staging word, and with word 7 the command joins the core's
queue. -/
def Obligations.StoreResult : Prop :=
  (∀ (a b c : Name) (size : BitVec 2) (disp : BitVec 14) (s u w x : State) (v o : Int) (d : Word), (curSlot s).pendErr = none →
    readName a s = .ok v u → readWindow b true u = .ok d w → readName c w = .ok o x →
    (winKind d ≠ 1 → hasRoom x → let p := winAddr x.cur.core d (o + disp.toInt) (2 ^ size.toNat);
      Completes (.stq a b c size disp) s (goes s (sent x (.store (bytesAt p (2 ^ size.toNat) (BitVec.ofInt 64 v)) (marked x a)) (BitVec.ofNat 64 (p / 8 * 8)) false true))) ∧
    (winKind d = 1 → size = 3#2 → let j := winOffset d (o + disp.toInt) 8 % 64 / 8;
      (j ≠ 7 → Completes (.stq a b c size disp) s (goes s (withStrand x { curSlot x with stage := (curSlot x).stage.set j (BitVec.ofInt 64 v) }))) ∧
      (j = 7 → (coreOf x x.cur.core).mx.queue.length < 8 →
        ∃ t cmd, Completes (.stq a b c size disp) s t ∧ cmd.words = (curSlot x).stage.set 7 (BitVec.ofInt 64 v) ∧ cmd.slot = x.cur.slot ∧
          (coreOf t x.cur.core).mx.queue = (coreOf x x.cur.core).mx.queue ++ [cmd] ∧ SameMemory s t))) ∧
  (∀ (a b c : Name) (disp : BitVec 10) (bits : BitVec 6) (s u w x : State) (v o : Int) (d : Word), (curSlot s).pendErr = none →
    readName a s = .ok v u → readWindow b false u = .ok d w → readName c w = .ok o x → hasRoom x →
    let β := ((o + disp.toInt) % (8 * 2 ^ winLg d : Nat)).toNat; let base := winStore x.cur.core d + winBase d;
    Completes (.stb a b c disp bits) s (goes s (sent x (.store (bitBytes d base β (bits.toNat + 1) (BitVec.ofInt 64 v).toNat) (marked x a))
      (BitVec.ofNat 64 ((base + β / 8) / 8 * 8)) false true))) ∧
  (∀ (a b c : Name) (size : BitVec 2) (sc : BitVec 3) (disp : BitVec 14) (disp' : BitVec 11) (s u w x y : State) (v vb vc : Int) (p : Nat), (curSlot s).pendErr = none →
    readName a s = .ok v u → readName b u = .ok vb w → let n : Nat := 2 ^ size.toNat;
    (readName c w = .ok vc x → let va : Word := BitVec.ofInt 64 (vb + vc * n + disp.toInt);
      va.toNat % n = 0 → translateCur va .store x = .ok p y → hasRoom y →
      Completes (.stg a b c size disp) s (goes s (sent y (.store (bytesAt p n (BitVec.ofInt 64 v)) (marked x a)) va false true))) ∧
    (let va : Word := BitVec.ofInt 64 (vb + disp'.toInt);
      va.toNat % n = 0 → translateCur va .store w = .ok p y → hasRoom y →
      Completes (.strel a b size sc disp') s (goes s (sent y (.store (bytesAt p n (BitVec.ofInt 64 v)) (marked w a)) va (heldRelease w sc) true))))

/-- R188 (frame): a store, full/empty write or atomic that is sent, and any load through a window, changes no byte of memory: for every address,
reading it after the instruction gives what reading it before gave. -/
def Obligations.AccessFrame : Prop :=
  ∀ (s t : State) (a b c d : Name) (size o : BitVec 2) (sc : BitVec 3) (d14 : BitVec 14) (d10 : BitVec 10) (d11 : BitVec 11) (bits : BitVec 6) (op : BitVec 4),
    ∀ i ∈ [Instr.ldq a b c size d14, .ldb a b c d10 bits, .ldg a b c size d14, .ldacq a b size sc d11, .stq a b c size d14, .stb a b c d10 bits,
      .stg a b c size d14, .strel a b size sc d11, .stfe a b c d, .stff a b c d, .fefull a b c d, .amo a b c op size o sc, .cas a b c d size o sc,
      .red a b op size o sc, .win a b c size 0#5], exec i s = .next t → ∀ x, memByte t.mem x = memByte s.mem x

/-- R156, R160, R173, R188 and R189 (frame): A strand's own store outside inboxes is visible to it at once: with the store sent, its unit reads the stored bytes at the
store's address, whatever stands in memory. A store performed at a home of this device outside inboxes and failing sectors writes its bytes and no
other: every other byte of memory reads as before, each byte of a masked store, as STB and VSTB make, takes the bits of its mask and keeps the
others, and a store of whole bytes leaves its value. -/
def Obligations.StoreLands : Prop :=
  (∀ (s : State) (p n : Nat) (v va : Word) (mark rel held : Bool), (∀ j, j < n → inInbox (p + j) = false) →
     seenBytes (sent s (.store (bytesAt p n v) mark) va rel held) s.cur.core s.cur.slot p n = toBytes n v.toNat) ∧
  (∀ (q idx : Nat) (s : State) (e : WEntry) (p n : Nat) (v : Word), (quadOf s q).wq[idx]? = some e → e.op = .store (bytesAt p n v) false → 0 < n →
     canPerform s q idx = true → inPeer p = false → e.peer = none → (∀ j, j < n → inInbox (p + j) = false) →
     failingSectors (readSectors s (bytesAt p n v)) (bytesAt p n v) = [] →
     s.runs = [] → s.parked = [] → Canonical s → n ≤ 8 → (quadOf s q).wq.length > idx →
     ∃ t, Completes (.storePerformed q idx) s t ∧ (quadOf t q).wq = dropAt (quadOf s q).wq idx ∧
       memBytes t.mem p n = toBytes n v.toNat ∧ ∀ a, (a < p ∨ p + n ≤ a) → memByte t.mem a = memByte s.mem a) ∧
  (∀ (q idx : Nat) (s : State) (e : WEntry) (bs : List MByte) (mark : Bool), (quadOf s q).wq[idx]? = some e → e.op = .store bs mark →
     canPerform s q idx = true → inPeer e.op.span.1 = false → e.peer = none → (∀ b ∈ bs, inInbox b.addr = false) → (bs.map (·.addr)).Nodup →
     failingSectors (readSectors s bs) bs = [] → s.runs = [] → s.parked = [] → Canonical s →
     ∃ t, Completes (.storePerformed q idx) s t ∧ (quadOf t q).wq = dropAt (quadOf s q).wq idx ∧
       (∀ b ∈ bs, memByte t.mem b.addr = (memByte s.mem b.addr &&& ~~~b.mask) ||| (b.val &&& b.mask)) ∧
       ∀ a, (∀ b ∈ bs, b.addr ≠ a) → memByte t.mem a = memByte s.mem a)

/-! ### Full/empty words (R162 to R165) -/

/-- R162, R163 and R193: LDFE, LDFF, FEEMPTY and FESTATE whose condition holds are performed at once, and their value is on its way to A; an LDFE or
LDFF whose word is empty is held at the port, its strand parked; and STFE, STFF and FEFULL leave at commit as releases. What each does to the word
and its bit at the port, where no queued write of the reader's quad touches the word: LDFE reads and empties a full word, LDFF reads it and leaves it full, STFE fills an empty word with its value, STFF writes
a full word, FEFULL writes and fills, FEEMPTY reads and empties, and FESTATE reads the bit. -/
def Obligations.FullEmptyResult : Prop :=
  (∀ (a b c d : Name) (s u w y : State) (x : Word) (o : Int), readWindow b false s = .ok x u → readName c u = .ok o w →
    let p := winAddr w.cur.core x (o + 8 * d.toInt) 8;
    feBehind w p = false →
    (∀ r ∈ [(Instr.ldfe a b c d, FeOp.ldfe), (.ldff a b c d, .ldff), (.feempty a b c d, .feempty), (.festate a b c d, .festate)],
      feReady w r.2 p = true → let (t, v, bad) := feTake w r.2 p w.cur.core w.cur.slot
      loadTo a 64 v bad (BitVec.ofNat 64 p) (feChanged w t p) = .ok () y → Completes r.1 s (goes s y)) ∧
    (∀ r ∈ [(Instr.ldfe a b c d, FeOp.ldfe), (.ldff a b c d, .ldff)], ∀ ser z, feReady w r.2 p = false → deferWrite a none none false w = .ok ser z →
      feReady z r.2 p = false → z.cur = s.cur →
      ∃ t, Completes r.1 s t ∧ (curSlot t).status = .parked (.fullEmpty ser) ∧ (curSlot t).nextPc = nextOf s.cur.pc s.cur.h ∧
        ∀ q, memByte t.mem q = memByte s.mem q)) ∧
  (∀ (a b c d : Name) (s u w y : State) (v o : Int) (x : Word), (curSlot s).pendErr = none → readName a s = .ok v u → readWindow b false u = .ok x w →
    readName c w = .ok o y → hasRoom y → let p := winAddr y.cur.core x (o + 8 * d.toInt) 8;
    ∀ r ∈ [(Instr.stfe a b c d, FeOp.stfe), (.stff a b c d, .stff), (.fefull a b c d, .fefull)],
      Completes r.1 s (goes s (sent y (.fe r.2 p (BitVec.ofInt 64 v)) (BitVec.ofNat 64 (p / 8 * 8)) true true))) ∧
  (∀ (s : State) (op : FeOp) (p : Nat) (v : Word), inInbox p = false → s.flips = [] → Canonical s → p % 8 = 0 → (∀ j, j < 8 → inInbox (p + j) = false) →
    let full := s.full.contains p;
    (feReady s op p = match op with | .ldfe | .ldff | .stff => full | .stfe => !full | _ => true) ∧
    (∀ k i, (∀ e ∈ shownTo s k i, e.op.touches p 8 = false) → feTake s op p k i = feAct s op p 0#64) ∧
    (let (t, r, _) := feAct s op p v
     (∀ q, (q < p ∨ p + 8 ≤ q) → memByte t.mem q = memByte s.mem q) ∧
     (∀ x, x ≠ p → t.full.contains x = s.full.contains x) ∧
     (op ∈ [.ldfe, .feempty] → r = (memWord s.mem p).toNat ∧ t.mem = s.mem ∧ t.full.contains p = false) ∧
     (op = .ldff → r = (memWord s.mem p).toNat ∧ t.mem = s.mem ∧ t.full.contains p = full) ∧
     (op ∈ [.stfe, .fefull] → memWord t.mem p = v ∧ t.full.contains p = true) ∧
     (op = .stff → memWord t.mem p = v ∧ t.full.contains p = full) ∧
     (op = .festate → r = (if full then 1 else 0) ∧ t.mem = s.mem ∧ t.full.contains p = full)))

/-! ### Ordering and atomics (R179, R197 to R209) -/

/-- R160, R200 to R202, R203 and R205: AMO, CAS and RED without a pending error, aligned, translated for reading and writing and with room, leave
for their home with their operands; AMO and CAS have a write-back to A outstanding for the old value, and RED returns nothing. An atomic that may be
performed at a home of this device, meeting no poison and no beat under retry, is performed as one read and write, at its first attempt and when it is sent again: AMO
computes its operation on the old value, min and max on the exact values of the word and of the operand, a CAS stores its new value only if the old one equals its operand, the old value answers the write-back,
and every byte outside the word keeps its value. -/
def Obligations.AtomicResult : Prop :=
  (∀ (a b c d : Name) (op : BitVec 4) (size order : BitVec 2) (sc : BitVec 3) (s u w z p q : State) (g : Bool) (vb vc vd : Int) (pa ser : Nat),
     (curSlot s).pendErr = none → hasRoom q →
     let n : Nat := 2 ^ size.toNat; let ord := decide (2 ≤ order.toNat); let rel := ord && heldRelease q sc; let acq := order.toNat % 2 == 1;
     let va : Word := BitVec.ofInt 64 vb;
     va.toNat % n = 0 →
     (readName b s = .ok vb u → readName c u = .ok vc w → narrowTrap s a n = false →
       (∀ r : AtomicReq, r = { cas := false, op := op.toNat, bytes := n, addr := pa, signed := g, operand := BitVec.ofInt 64 vc, dest := ser, acq := acq, rel := ord, scope := sc.toNat } →
         signedOfName c s = .ok g s → translateCur va .both w = .ok pa p → deferWrite a none none false p = .ok ser q → mergeInto (quadOf q (queueKey q.cur.core)).wq (sentEntry q (.atomic r) va rel true) r = none →
         Completes (.amo a b c op size order sc) s (goes s (sent q (.atomic r) va rel true))) ∧
       (∀ r : AtomicReq, r = { cas := true, op := 0, bytes := n, addr := pa, signed := false, operand := BitVec.ofInt 64 vc, newVal := BitVec.ofInt 64 vd, dest := ser, acq := acq, rel := ord, scope := sc.toNat } →
         readName d w = .ok vd z → translateCur va .both z = .ok pa p → deferWrite a none none false p = .ok ser q →
         Completes (.cas a b c d size order sc) s (goes s (sent q (.atomic r) va rel true)))) ∧
     (readName a s = .ok vc u → readName b u = .ok vb w →
       ∀ r : AtomicReq, r = { cas := false, op := op.toNat, bytes := n, addr := pa, signed := g, operand := BitVec.ofInt 64 vc, dest := 0, acq := acq, rel := ord, scope := sc.toNat } →
         signedOfName a s = .ok g s → translateCur va .both w = .ok pa q →
         mergeInto (quadOf q (queueKey q.cur.core)).wq (sentEntry q (.atomic r) va rel true) r = none →
         Completes (.red a b op size order sc) s (goes s (sent q (.atomic r) va rel true)))) ∧
  (∀ (q idx : Nat) (s : State) (e : WEntry) (r : AtomicReq), (quadOf s q).wq[idx]? = some e → e.op = .atomic r → canPerform s q idx = true →
     inPeer r.addr = false → e.peer = none → s.poison = [] → s.flips = [] → s.tagBad = [] → s.mediaBad = [] → Canonical s → (r.bytes = 4 ∨ r.bytes = 8) →
     (transfers s r.addr r.bytes).1 = false → stalledOn s (transfers s r.addr r.bytes).2 = none → r.addr % r.bytes = 0 → (∀ j, j < r.bytes → inInbox (r.addr + j) = false) →
     let old := ofBytes (memBytes s.mem r.addr r.bytes); let m := 2 ^ (8 * r.bytes); let y := r.operand.toNat % m;
     let old' := if r.signed then (BitVec.ofNat (8 * r.bytes) old).toInt else (old : Int); let y' := if r.signed then r.operand.toInt else (r.operand.toNat : Int);
     ∀ i ∈ [Instr.atomicPerform q idx, .faultQueueRetry q idx], ∃ t, Completes i s t ∧ (quadOf t q).wq = dropAt (quadOf s q).wq idx ∧
       (∀ a, (a < r.addr ∨ r.addr + r.bytes ≤ a) → memByte t.mem a = memByte s.mem a) ∧
       (let new := ofBytes (memBytes t.mem r.addr r.bytes);
        (r.cas = true → new = (if old = y then r.newVal.toNat % m else old)) ∧
        (r.cas = false → (r.op = 0 → new = (old + y) % m) ∧ (r.op = 1 → new = (old &&& y)) ∧ (r.op = 2 → new = (old ||| y)) ∧ (r.op = 3 → new = (old ^^^ y)) ∧
          (r.op = 4 → (new : Int) = (min old' y') % (m : Int)) ∧ (r.op = 5 → (new : Int) = (max old' y') % (m : Int)) ∧ (r.op = 6 → new = y))) ∧
       t.cores = (answerWb s e.core r.dest (8 * r.bytes) old none).cores)

/-- R179, R197, R198, R207 and R208: FENCE and ERRFENCE of a strand with nothing outstanding go on at once: with every read returned, FENCE waits
for nothing of a narrow scope once the strand's full/empty writes are performed, and with every write performed for nothing at all; ERRFENCE goes on without a pending error, and raises one that is
pending, which is then no longer pending. BAR of a work strand whose launch has the barrier, with its writes drained: the last arrival of a
generation ends it, counter 0, generation one more, every waiter released; an earlier one is counted and parks, and with nowait it is counted and
goes on. A barrier that the launch does not have traps with cause 0x12, a handler slot with 0x02. -/
def Obligations.FenceAndBarrierResult : Prop :=
  (∀ s : State, readsOut s s.cur.core s.cur.slot = false →
     (let uid := (curSlot s).uid; let bound := (curSlot s).fenced.getD s.serial;
      ∀ kind scope : BitVec 3, kind = 0#3 ∨ (feLeft s s.cur.core s.cur.slot uid bound = false ∧ ((kind ≠ 4#3 ∧ scope.toNat ≤ 2) ∨
         (unperformed s s.cur.core s.cur.slot uid bound = false ∧ unsent s s.cur.core s.cur.slot = false))) →
       Completes (.fence kind scope) s (goes s s)) ∧
     (unacknowledged s s.cur.core s.cur.slot = false →
       ((curSlot s).pendErr = none → Completes .errfence s (goes s s)) ∧
       (∀ e, (curSlot s).pendErr = some e → exec .errfence s = .next (raiseTrap (withStrand s { curSlot s with pendErr := none }) e.cause e.addr)))) ∧
  (∀ (nw : BitVec 1) (id : BitVec 5) (s : State), let c := clusterOfKey s.cur.core;
     (∀ l p, s.cur.slot < 14 → isCore s.cur.core = true → (curSlot s).launch = some l → barrierOf s c l id.toNat = some p →
       drainBusy s s.cur.core s.cur.slot 3 ((curSlot s).fenced.getD s.serial) = false → (curSlot s).barCounted = false → (∀ w ∈ (curSlot s).barWait, w.pc ≠ s.cur.pc) →
       ((barState s c p).a + 1 = (barState s c p).n →
         ∃ t, Completes (.bar nw id) s t ∧ (barState t c p).a = 0 ∧ (barState t c p).g = (barState s c p).g + 1#32 ∧
           (∀ m ∈ barWaiters s c p (barState s c p).g, (slotOf t m.1 m.2).status = if (coreOf s m.1).halted then .stopped .halted else .ready) ∧ SameMemory s t) ∧
       ((barState s c p).a + 1 ≠ (barState s c p).n → nw = 1#1 →
         Completes (.bar nw id) s (goes s (modBarrier s c p fun x => { x with a := x.a + 1 }))) ∧
       ((barState s c p).a + 1 ≠ (barState s c p).n → nw = 0#1 →
         Completes (.bar nw id) s (withStrand (modBarrier s c p fun x => { x with a := x.a + 1 })
           { curSlot s with status := .parked .barrier, nextPc := nextOf s.cur.pc s.cur.h, barWait := ⟨s.cur.pc, p, (barState s c p).g, false⟩ :: (curSlot s).barWait,
                            kept := (curSlot s).taken ++ (curSlot s).kept, taken := [], fenced := some ((curSlot s).fenced.getD s.serial) }))) ∧
     (s.cur.slot < 14 → isCore s.cur.core = true → ((curSlot s).launch.bind fun l => barrierOf s c l id.toNat) = none →
       exec (.bar nw id) s = .next (takeTrap s 0x12 (BitVec.ofNat 64 id.toNat))) ∧
     (14 ≤ s.cur.slot → exec (.bar nw id) s = .next (takeTrap s 0x02 0#64)))

/-! ### Traps and fetch (R25 to R28, R96 to R100, R283 to R292) -/

/-- R71, R101, R283 and R293: taking an exception. The entries that the instruction popped go back to their queues. The trap registers hold the cause, the value and the PC, and RESUME is set for causes 0x13 and 0x14 only; no
name, no FLAGS bit and no byte of memory changes, nor a vector for which no VFROMQ of the core waits. With a vector, ACTIVE clear and a cause other than 0x0E the strand goes on at TVEC with ACTIVE
set (STOPPED there while its core is halted for debug), and nothing else changes. With no vector, or ACTIVE set, the slot is STOPPED and a trap message waits for the supervisor. Cause 0x0E on a core
seals it, and its slot stays STOPPED by the trap. That a supervisor core is not sealed is the model's choice for a line that it fetches (log entry
97). -/
def Obligations.TrapEntry : Prop :=
  ∀ (s : State) (k i : Nat) (pc v : Word) (cause : Nat), i < 16 → let x := slotOf s k i; let t := takeTrapAt s k i pc cause v; let y := slotOf t k i;
    y.cause = BitVec.ofNat 8 cause ∧ y.trapVal = v ∧ y.trapPc = pc ∧ y.resume = (cause == 0x13 || cause == 0x14) ∧ y.names = x.names ∧ y.flags = x.flags ∧
    ((∀ q, (dqOf s k q).vfrom = []) → y.vecs = x.vecs) ∧ (∀ a, memByte t.mem a = memByte s.mem a) ∧
    (cause ≠ 0x0E ∨ isSupervisor k = true → x.tvec ≠ 0#64 → x.active = false →
      y.active = true ∧ y.pc = x.tvec ∧ y.from' = pc ∧ y.status = (if (coreOf s k).halted then .stopped .halted else .ready) ∧ t = setSlot (putBack s k i) k i y) ∧
    (cause ≠ 0x0E ∨ isCore k = false → (x.tvec = 0#64 ∨ x.active = true) →
      y.active = x.active ∧ y.status = .stopped .trapped ∧
      (clusterOf t (clusterOfKey k)).trapWaits = (clusterOf s (clusterOfKey k)).trapWaits ++ [(k, i, trapWords (setSlot s k i y) k i)] ∧ SameDevice s t) ∧
    (cause = 0x0E → isCore k = true → (coreOf t k).sealed = true ∧ y.status = .stopped .trapped)

/-- R97, R98, R100, R286 and R292: TRAP takes trap(0x13, imm) and BKPT trap(0x14, 0); TRET without an active trap takes trap(0x02, 0); with one it
clears ACTIVE and goes to TRAPPC, or, when RESUME is 1, to the PC that follows TRAPPC by the H of its line. R25, R36: a PC that is no head of a
valid line traps with cause 0x01 and the PC that control came from, an illegal encoding with cause 0x02. A line that a slot waits for arrives in its
core's buffers and changes no byte of memory, as it does wherever its page is found and no error stands in its way; one that comes poisoned traps in
every slot of the cluster that waits for it; a fetch that fails traps in the slot with the cause, its PC and the PC that control came from; one from a
peer is asked for, behind the requests that wait at the port and those that the core has in mind (R96); and a
checker mismatch replays the instruction from what it popped and what it read of $cyc and $step, the third in a row sealing the core with cause 0x0E (the value of that trap is free: log entry 5). -/
def Obligations.TrapAndFetchResult : Prop :=
  (∀ s : State,
     (∀ imm : BitVec 16, Completes (.trap imm) s (takeTrap s 0x13 (BitVec.ofNat 64 imm.toNat))) ∧ Completes .bkpt s (takeTrap s 0x14 0#64) ∧
     ((curSlot s).active = false → exec .tret s = .next (takeTrap s 0x02 0#64)) ∧
     ((curSlot s).active = true → (curSlot s).resume = false →
       Completes .tret s (withStrand s { settled (curSlot s) (curSlot s).trapPc s.cur.pc with active := false })) ∧
     (∀ b, (curSlot s).active = true → (curSlot s).resume = true → lineFor s s.cur.core s.cur.slot (curSlot s).trapPc = some b →
       Completes .tret s (withStrand s { settled (curSlot s) (nextOf (curSlot s).trapPc b.heads) s.cur.pc with active := false })) ∧
     (s.cur.h = 0 → Completes .illegalEncoding s (takeTrap s 0x01 (curSlot s).from')) ∧
     (s.cur.h ≠ 0 → Completes .illegalEncoding s (takeTrap s 0x02 0#64))) ∧
  ((∀ (k i : Nat) (v u : State), let s := fetchWanted (sendLines 8 v (clusterOfKey k)) k; let pc := (slotOf s k i).pc; let got := fetchLine (forgetLine s k i pc) k i pc;
     wantsLine s k i = true → (coreOf s k).sealed = false → stalledOn s u = none →
     (∀ b, got = .line b u → (b.poison = false → ∃ t, Completes (.lineFill k i) v t ∧ b ∈ (coreOf t k).lines ∧ (slotOf t k i).pc = pc ∧ ∀ a, memByte t.mem a = memByte v.mem a) ∧
       (b.poison = true → Completes (.lineFill k i) v (poisonedLine u k i b.pa))) ∧
     (∀ c, got = .fails c u → Completes (.lineFill k i) v (takeTrapAt u k i pc c (slotOf s k i).from')) ∧
     (∀ pa, got = .asks pa u → Completes (.lineFill k i) v u)) ∧
   (∀ (k i pa : Nat) (s t : State), let s1 := fetchWanted s k; let pc := (slotOf s1 k i).pc; let s0 := forgetLine s1 k i pc; wantsLine s1 k i = true → (coreOf s1 k).sealed = false →
     (clusterOf s (clusterOfKey k)).lineWaits = [] → pc.toNat % 2 = 0 → pc.toNat % 64 ≠ 0 → translate s0 k (fetchLaunch s0 k i) (lineBase pc).toNat .fetch = .inr (pa, t) →
     inPeer pa = false → wordBlocked t pa 64 = false → stalledOn s1 t = none → t.flips = [] → t.poison = [] → t.mediaBad = [] → t.tagBad = [] →
     (∀ c, (clusterOf t c).inject = 0#64 ∧ (clusterOf t c).beats = [] ∧ (clusterOf t c).brought = []) →
     (∀ b ∈ (coreOf t k).lines ++ (clusterOf t (clusterOfKey k)).icache, b.poison = false) →
     ∃ u b, Completes (.lineFill k i) s u ∧ b ∈ (coreOf u k).lines ∧ b.pa = pa ∧ (slotOf u k i).pc = pc ∧ ∀ a, memByte u.mem a = memByte s.mem a) ∧
   (∀ s : State, ((curSlot s).mismatches < 2 →
       (∃ t, Completes .checkerReplay s t ∧ (curSlot t).mismatches = (curSlot s).mismatches + 1 ∧ (curSlot t).sampled = some (sampleOf s) ∧ (curSlot t).pc = (curSlot s).pc) ∧
       (∀ t, popFields (latchedPops s) s = .ok () t → Completes .checkerReplay s (withStrand t { curSlot t with
         mismatches := (curSlot s).mismatches + 1, kept := (curSlot t).taken ++ (curSlot t).kept, taken := [], sampled := some (sampleOf s) }))) ∧
     (2 ≤ (curSlot s).mismatches → isCore s.cur.core = true → ∃ t v, Completes .checkerReplay s t ∧ (coreOf t s.cur.core).sealed = true ∧ (coreOf t s.cur.core).checkerSealed = true ∧
       (curSlot t).cause = 0x0E#8 ∧ (curSlot t).trapVal = v ∧ (curSlot t).trapPc = s.cur.pc ∧ (curSlot t).names = (curSlot s).names)))

/-! ### The system class (R233, R284 to R305) -/

/-- R234, R284, R287, R288, R304 and R305: SYSRD writes the register's value to its name, and SYSWR writes it; a number that names no register traps
with cause 0x02 and the number, one that the issuer may not reach with cause 0x09. What the STRAND registers take is given: RM a legal mode, FLAGS
its bits, TVEC an even vector, TRAPCAUSE cause, RESUME and ACTIVE, TRAPVAL and TRAPPC. SETRM sets a legal mode and traps on another; FLAGRD reads
the flags and FLAGCLR clears those of its mask. TLBINV of a kind that its issuer may use, with the accesses made through removed translations
performed, removes from every TLB that it reaches each entry that its kind names, and goes on; kind 2 off the supervisor traps with cause 0x09 and
2. QUIESCE goes on once nothing that it waits for is left. -/
def Obligations.SystemResult : Prop :=
  ((∀ (a : Name) (n : BitVec 16) (s : State),
     (∀ t, regKnown n.toNat = true → mayRead s n.toNat = true → (n ≠ 0x203#16 ∨ isCore s.cur.core = false) → writeName a (regValue s n.toNat : Int) s = .ok () t →
       Completes (.sysrd a n) s (goes s t)) ∧
     (∀ t, n = 0x203#16 → isCore s.cur.core = true → let u := countEnergy s (quadOfKey s.cur.core);
       writeName a (regValue u 0x203 : Int) u = .ok () t → Completes (.sysrd a n) s (goes s (latchEnergy t t.cur.core t.cur.slot))) ∧
     (∀ x u, regKnown n.toNat = true → mayWrite s n.toNat = true → readName a s = .ok x u →
       (0x340 ≤ n.toNat → n.toNat ≤ 0x37F → swapAllowed u (clusterOfKey u.cur.core) (bitsOf (BitVec.ofInt 64 x).toNat 5 0) = true) →
       Completes (.syswr a n) s (goes s (writeReg u n.toNat (BitVec.ofInt 64 x)))) ∧
     (regKnown n.toNat = true → mayRead s n.toNat = true → TakesAny s a → GoesOn (.sysrd a n) s) ∧
     (regKnown n.toNat = true → mayWrite s n.toNat = true → n.toNat < 0x340 ∨ 0x37F < n.toNat → Steady s a → GoesOn (.syswr a n) s) ∧
     (regKnown n.toNat = false → ∀ i ∈ [Instr.sysrd a n, .syswr a n], exec i s = .next (takeTrap s 0x02 (BitVec.ofNat 64 n.toNat))) ∧
     (regKnown n.toNat = true → mayRead s n.toNat = false → exec (.sysrd a n) s = .next (takeTrap s 0x09 (BitVec.ofNat 64 n.toNat))) ∧
     (regKnown n.toNat = true → mayWrite s n.toNat = false → exec (.syswr a n) s = .next (takeTrap s 0x09 (BitVec.ofNat 64 n.toNat)))) ∧
   (∀ (s : State) (w : Word), let x := curSlot s;
     (w.toNat % 8 ≤ 4 → writeReg s 0 w = withStrand s { x with rm := w.setWidth 3 }) ∧
     (curSlot (writeReg s 1 w)).flags = w.setWidth 8 ∧
     (w.toNat % 2 = 0 → writeReg s 2 w = withStrand s { x with tvec := w }) ∧
     writeReg s 3 w = withStrand s { x with cause := w.setWidth 8, resume := w.getLsbD 8, active := w.getLsbD 9 } ∧
     writeReg s 4 w = withStrand s { x with trapVal := w } ∧ writeReg s 5 w = withStrand s { x with trapPc := w }) ∧
   (∀ (m : BitVec 3) (s : State),
     (m.toNat ≤ 4 → Completes (.setrm m) s (withStrand s (settled { curSlot s with rm := m } (nextOf s.cur.pc s.cur.h) s.cur.pc))) ∧
     (4 < m.toNat → exec (.setrm m) s = .next (takeTrap s 0x02 0#64))) ∧
   (∀ (b : Name) (m : BitVec 8) (s : State), exitReady s s.cur.core s.cur.slot = true →
     (TakesAny s b → GoesOn (.flagrd b) s) ∧ (∀ t, writeName b ((curSlot s).flags.toNat : Int) s = .ok () t → Completes (.flagrd b) s (goes s t)) ∧
     Completes (.flagclr m) s (withStrand s (settled { curSlot s with flags := (curSlot s).flags &&& ~~~m } (nextOf s.cur.pc s.cur.h) s.cur.pc)))) ∧
  ((∀ (b : Name) (kind : BitVec 3) (s u : State) (v : Int), kind.toNat ≤ 4 → (kind ≠ 2#3 ∨ isSupervisor s.cur.core = true) → readName b s = .ok v u →
     accessesLeft u kind.toNat (clusterOfKey s.cur.core) ((curSlot s).fenced.getD s.serial) = false →
     ∃ t, Completes (.tlbinv b kind) s t ∧ (curSlot t).pc = nextOf s.cur.pc s.cur.h ∧ t.mem = s.mem ∧
       (∀ c x e, tfind t.clusters c = some x → kindReaches kind.toNat (clusterOfKey s.cur.core) c = true → e ∈ x.tlb →
         kindRemoves kind.toNat (curSlot s).launch (BitVec.ofInt 64 v).toNat e = false)) ∧
   (∀ (b : Name) (kind : BitVec 3) (s : State), kind.toNat ≤ 4 → (kind ≠ 2#3 ∨ isSupervisor s.cur.core = true) → Steady s b →
     accessesLeft s kind.toNat (clusterOfKey s.cur.core) ((curSlot s).fenced.getD s.serial) = false → GoesOn (.tlbinv b kind) s) ∧
   (∀ (b : Name) (s : State), isSupervisor s.cur.core = false → exec (.tlbinv b 2#3) s = .next (takeTrap s 0x09 2#64)) ∧
   (∀ s : State, quiesced s s.cur.core s.cur.slot = true → Completes .quiesce s (goes s s)))

/-- R180, R183, R184, R207, R209, R235, R289, R290, R295, R296 and R302: what writes of the cluster's, memory's and quad's registers do. A MIGREQ
for a logical core with work strands sets PEND, core and area; BARCFG sets N for the next generation; BARCANCEL ends the generation, its
waiters trapping with cause 0x16; a FLAGUNION write clears the bits written 1; a W1C of a log's VALID removes its oldest entry; STOREHOLD and an
armed lane error are kept; a cell error flips its stored bit; a permitted COREMAP write swaps two physical cores; an OPPOINT request sets the
quad's frequency to the least of the highest request and the caps; and reading the low half of ENERGY latches the high half, after an amount that
the spec leaves open (log entry 5). -/
def Obligations.ClusterRegisters : Prop :=
  (∀ (c : Nat) (v : Word) (s : State),
    ((clusterOf s c).migPend = false → v.getLsbD 63 = true → 0 < workStrands s (physKey s c (bitsOf v.toNat 53 48)) →
      Completes (.migreq c v) s (modCluster s c fun x => { x with migPend := true, migCore := bitsOf v.toNat 53 48, migArea := bitsOf v.toNat 47 6 * 64 })) ∧
    (1 ≤ v.toNat % 1024 → v.toNat % 1024 ≤ 896 →
      Completes (.barcfg c v) s (modBarrier s c (bitsOf v.toNat 20 16) fun b => { b with nNext := some (v.toNat % 1024) })) ∧
    (∃ t, Completes (.barcancel c v) s t ∧ (let p := v.toNat % 32; let b := barState s c p;
      (barState t c p).a = 0 ∧ (barState t c p).g = b.g + 1#32 ∧ (barState t c p).n = b.nNext.getD b.n ∧
      (∀ m ∈ barWaiters s c p b.g, (slotOf t m.1 m.2).cause = 0x16#8 ∧ (slotOf t m.1 m.2).trapVal = BitVec.ofNat 64 ((b.owner.map (·.2)).getD 0)) ∧
      ∀ a, memByte t.mem a = memByte s.mem a)) ∧
    Completes (.flagunionClear c v) s (modCluster s c fun x => { x with flagUnion := x.flagUnion &&& ~~~(v.setWidth 8) }) ∧
    (v.getLsbD 63 = true → Completes (.logEntryRemove c true v) s (modCluster s c fun x => { x with vbusLog := x.vbusLog.drop 1 }) ∧
      Completes (.logEntryRemove c false v) s (modCluster s c fun x => { x with arrLog := x.arrLog.drop 1 })) ∧
    Completes (.storehold c v) s (modCluster s c fun x => { x with storehold := v &&& 0x1FFFF#64 }) ∧
    (bitsOf v.toNat 38 24 = 0 → v.getLsbD 63 = true → v.getLsbD 62 = true → bitsOf v.toNat 48 45 ≠ 0 →
      Completes (.inject c v) s (modCluster s c fun x => { x with inject := v })) ∧
    (bitsOf v.toNat 38 24 = 0 → v.getLsbD 63 = true → v.getLsbD 62 = false →
      ∃ t, Completes (.inject c v) s t ∧ ((c * 0x8000000 + 8 * (v.toNat % 2 ^ 24), bitsOf v.toNat 44 39) ∈ t.flips ↔
        (c * 0x8000000 + 8 * (v.toNat % 2 ^ 24), bitsOf v.toNat 44 39) ∉ s.flips) ∧ t.mem = s.mem)) ∧
  (∀ (c l p : Nat) (s : State), l < 64 → p < 64 → swapAllowed s c p = true → l ≠ logicalIdx s c p →
    ∃ t, Completes (.coremapSwap c l p) s t ∧ (clusterOf t c).coremap = tput (tput (clusterOf s c).coremap l p) (logicalIdx s c p) (physOf s c l) ∧
      (clusterOf t c).logicals = (clusterOf s c).logicals ∧ SameMemory s t) ∧
  (∀ (k : Nat) (v : Word) (s : State), isCore k = true →
    ∃ t, Completes (.oppointRequest k v) s t ∧ (coreOf t k).req = min 2250 (max 600 (v.toNat % 65536)) / 25 * 25 ∧ 
      (quadOf t (quadOfKey k)).freq = min (min (highestReq t (quadOfKey k)) (quadOf s (quadOfKey k)).budgetCap) (quadOf s (quadOfKey k)).thermalCap / 25 * 25) ∧
  (∀ (k i : Nat) (s : State), isCore k = true →
    ∃ t v, Completes (.energyLoRead k i) s t ∧ (quadOf t (quadOfKey k)).energy = (quadOf s (quadOfKey k)).energy + v ∧
      tfind (slotOf t k i).shadow (quadOfKey k) = some ((quadOf t (quadOfKey k)).energy >>> 32))

/-- R291, R298 to R301, R304 and R363: The supervisor's actions. RESUME_SLOT of a slot that a trap stopped on a core that is not sealed makes it
READY with ACTIVE clear (STOPPED while the core is halted) at TRAPPC, or, when RESUME is 1, at the PC that follows it; FREE_SLOT leaves an occupied slot
FREE; HUSK_SLOT husks an occupied work slot whose values are in and leaves it FREE, its spill and its record in its quad's write queue; HALT_CORE and RELEASE_CORE set and clear the halt; RESET_AND_UNSEAL_CORE makes a core that an error sealed start anew, but for its repetition sequencer. Each leaves SLOTCTL's
status done; a refused action leaves it refused and changes nothing else. Power and heat. With the demands within the budget every core's duty is 16
and its period's MIGPT count is reported and begins anew; a trim moves the voltage by 5 mV towards the target slack within the table's bounds; a
sample below the fatal threshold sets the quad's temperature and steps its thermal cap down at 105 degrees and up below 100; and a migration request
tells the cluster's supervisor the request's vector, the two cores, where its target's quad keeps the records and 0. The units of demand, slack and temperature are the model's choice (log entry 41); the words of a migration request follow log entry 14. -/
def Obligations.SupervisionResult : Prop :=
  (∀ (k i : Nat) (s : State), let c := clusterOfKey k; let x := slotOf s k i;
     (x.status = .stopped .trapped → (coreOf s k).sealed = false → x.resume = false →
       ∃ t, Completes (.resumeSlot k i) s t ∧ (slotOf t k i).status = (if (coreOf s k).halted then .stopped .halted else .ready) ∧ (slotOf t k i).pc = x.trapPc ∧ (slotOf t k i).active = false ∧ (slotOf t k i).names = x.names ∧
         (clusterOf t c).slotctl = 0 ∧ SameMemory s t) ∧
     (∀ b, x.status = .stopped .trapped → (coreOf s k).sealed = false → x.resume = true → lineFor s k i x.trapPc = some b →
       ∃ t, Completes (.resumeSlot k i) s t ∧ (slotOf t k i).status = (if (coreOf s k).halted then .stopped .halted else .ready) ∧ (slotOf t k i).pc = nextOf x.trapPc b.heads ∧
         (slotOf t k i).active = false ∧ (slotOf t k i).names = x.names ∧ (clusterOf t c).slotctl = 0 ∧ SameMemory s t) ∧
     (x.status ≠ .free → ∃ t, Completes (.freeSlot k i) s t ∧ (slotOf t k i).status = .free ∧ (slotOf t k i).names = [] ∧ (clusterOf t c).slotctl = 0) ∧
     (∀ addr u, i < 14 → huskRefused s k i = false → x.pendErr = none → huskable s k i = true → let a := localPa s addr; let sp := localPa s (memWord s.mem (a + 56)).toNat;
       inPeer a = false → memoryRead s (a + 56) 8 = (false, u) → stalledOn s u = none → rangeFaulty u (a + 56) 8 = false →
       ∃ t y z, Completes (.huskSlot k i addr) s t ∧ (slotOf t k i).status = .free ∧ (clusterOf t c).slotctl = 0 ∧ t.mem = s.mem ∧
         (quadOf t (queueKey k)).wq = (quadOf s (queueKey k)).wq ++ [y, z] ∧ y.op = .store ((spillBytes x).zipIdx.map fun e => { addr := sp + e.2, val := e.1 }) false ∧
         z.op.span = (a, 64) ∧ z.op.isStore = true ∧ z.rel = true) ∧
     ((coreOf s k).sealed = false → ∃ t, Completes (.haltCore k) s t ∧ (coreOf t k).halted = true ∧ (clusterOf t c).slotctl = 0 ∧ SameMemory s t) ∧
     ((coreOf s k).halted = true → ∃ t, Completes (.releaseCore k) s t ∧ (coreOf t k).halted = false ∧ (clusterOf t c).slotctl = 0 ∧ SameMemory s t) ∧
     ((coreOf s k).sealed = true → (coreOf s k).checkerSealed = false →
       ∃ t, Completes (.resetAndUnsealCore k) s t ∧ (coreOf t k).sealed = false ∧ (coreOf t k).queues = [] ∧ (coreOf t k).inbox = [] ∧ (coreOf t k).mx = {} ∧ (coreOf t k).seq = (coreOf s k).seq ∧
         (clusterOf t c).slotctl = 0 ∧ SameMemory s t) ∧
     (let refused := fun a => Completes a s (modCluster s c fun y => { y with slotctl := 2, slotctlOp := none });
      (x.status ≠ .stopped .trapped ∨ (coreOf s k).sealed = true → refused (.resumeSlot k i)) ∧ (x.status = .free → refused (.freeSlot k i)) ∧
      (∀ addr, x.status = .free ∨ 14 ≤ i ∨ runBusy s k i = true ∨ matrixBusy s k i = true → refused (.huskSlot k i addr)) ∧ ((coreOf s k).sealed = true → refused (.haltCore k)) ∧
      ((coreOf s k).halted = false → refused (.releaseCore k)) ∧ ((coreOf s k).sealed = false ∨ (coreOf s k).checkerSealed = true → refused (.resetAndUnsealCore k)))) ∧
  ((∀ (uncore : Nat) (demand : List Nat) (s : State), demand.sum ≤ 1800000 - uncore →
     ∃ t, Completes (.budgetPeriod uncore demand) s t ∧ (∀ k, isCore k = true → k < 8192 → (coreOf t k).duty = 16 ∧ (coreOf t k).migptsLast = (coreOf s k).migpts ∧ (coreOf t k).migpts = 0) ∧
       SameMemory s t) ∧
   (∀ (q slack : Nat) (s : State),
     let mv := if slack + 1 < (clusterOf s (q / 16)).slackTgt then (quadOf s q).mv + 5 else if (clusterOf s (q / 16)).slackTgt + 1 < slack then (quadOf s q).mv - 5 else (quadOf s q).mv;
     Completes (.voltageTrim q slack) s (modQuad s q fun x => { x with mv := max (Config.voltMin x.freq) (min mv (Config.voltMax x.freq)) })) ∧
   (∀ (q : Nat) (d : Int) (s : State), ((quadOf s q).tempNext.getD (quadOf s q).tempTest).getLsbD 63 = false → d < 1840 →
     ∃ t, Completes (.thermalSample q d) s t ∧ (quadOf t q).temp = d ∧ SameMemory s t ∧
       (quadOf t q).thermalCap = if 1680 ≤ d then max 600 ((quadOf s q).thermalCap - 100) else if d < 1600 then min 2250 ((quadOf s q).thermalCap + 100) else (quadOf s q).thermalCap) ∧
   (∀ (c l p : Nat) (s : State), l < 64 → p < 64 → 
     ∃ t h, Completes (.migrationRequest c l p) s t ∧ t.hwMsgs = s.hwMsgs ++ [h] ∧ h.msg.target = mkAgent 15 s.dev.num c 64 ∧
       h.msg.words = [s.dev.fwRequest, BitVec.ofNat 64 (l + 256 * p), BitVec.ofNat 64 (quadBase (quadOfKey (keyOf c p)) + 0x40000), 0#64] ∧ SameMemory s t))

/-! ### Messages and transfers (R107, R211 to R227, R285) -/

/-- R107, R211 to R216 and R285: SEND puts its payload, sender and launch in the core's outbound buffer; a message that its target core admits, and
for which an inbox entry is free, stands in the lowest free one, the rest of its 64 words zero, and leaves the buffer; without a free entry it is
told to retry, and is sent again 64 uncore cycles later; an idle handler slot 15 starts at the handler of the oldest entry, with the window on it
and, while a handler map is in force, its names kept, else none; slot 14 takes the oldest completion; and a trap message takes a reserved entry of its supervisor. -/
def Obligations.MessageResult : Prop :=
  (∀ (sc : BitVec 3) (rel : BitVec 1) (b c : Name) (n : BitVec 7) (s u w x y : State) (v : Int) (d : Word) (ws : List Word), (curSlot s).pendErr = none →
    readName b s = .ok v u → readWindow c false u = .ok d w → let g : Agent := BitVec.ofInt 32 v;
    agentValid w g = true → (agentHere w g = true ∨ unreachable w (agentDev w g) = false) → (isCore w.cur.core = false ∨ agentUnit g < 64) →
    snapshot d n.toNat w = .ok ws x → releaseSend (rel == 1#1) sc.toNat ws x = .ok () y → outRoom y y.cur.core y.cur.slot = true →
    Completes (.send sc rel b c n) s (goes s (modCore { y with serial := y.serial + 1 } y.cur.core fun k => { k with outbuf := k.outbuf ++
      [{ msg := { core := y.cur.core, serial := y.serial, target := g, sender := selfAgent y y.cur.core y.cur.slot, launch := sendLaunch y, words := ws },
         slot := y.cur.slot, uid := (curSlot y).uid }] }))) ∧
  (∀ (m : Message) (s : State) (e : OutEntry), m.serial ≠ 0 → (coreOf s m.core).outbuf.find? (fun x => x.msg == m) = some e → e.retrying = false → e.sent = false →
    earlierTo s (coreOf s m.core).outbuf m = false → agentHere s m.target = true → agentUnit m.target < 64 → agentUnit m.sender < 64 → let k := agentKey s m.target;
    isStreamer k = false → (coreOf s k).sealed = false → admissible s k m = true →
    (∀ n, freeEntry s k 0 16 = some n → Canonical s →
      ∃ t, Completes (.messageArrival m) s t ∧ (coreOf t k).inbox = (coreOf s k).inbox ++ [{ entry := n, target := m.target, sender := m.sender, launch := m.launch, handler := m.words.headD 0#64 }] ∧
        (∀ j, j < 64 → memWord t.mem (inboxAddr k n + 8 * j) = m.words.getD j 0#64) ∧ (∀ a, a < inboxAddr k n ∨ inboxAddr k n + 512 ≤ a → memByte t.mem a = memByte s.mem a) ∧
        (∀ x ∈ (coreOf t m.core).outbuf, x.msg.serial ≠ m.serial)) ∧
    (freeEntry s k 0 16 = none → Completes (.messageArrival m) s (modCore s m.core fun c =>
      { c with outbuf := c.outbuf.map fun x => if x.msg.serial == m.serial then { x with retrying := true, due := s.uncore + 64, sent := false } else x }))) ∧
  (∀ (k : Nat) (s : State), Completes (.messageRetry k) s (modCore s k fun c =>
    { c with outbuf := c.outbuf.map fun e => if e.retrying && decide (e.due ≤ s.uncore) then { e with retrying := false } else e })) ∧
  (∀ (k : Nat) (s : State), (coreOf s k).sealed = false → (coreOf s k).halted = false → isStreamer k = false →
    let names := fun i => if (mapInForce s k).isSome then (slotOf s k i).names else [];
    (∀ e, (slotOf s k 15).status = .free → nextInbox (coreOf s k) = some e →
      ∃ t, Completes (.handlerStart k 15) s t ∧ (let y := slotOf t k 15; y.status = .ready ∧ y.pc = e.handler ∧ y.msg = inboxWindow k e.entry ∧ y.handling = some e.entry ∧ y.sender = e.sender ∧
        y.names = names 15) ∧ SameDevice s { t with serial := s.serial }) ∧
    (∀ e r, (slotOf s k 14).status = .free → (logicalOf s (clusterOfKey k) (unitId s k)).comps = e :: r →
      ∃ t, Completes (.handlerStart k 14) s t ∧ (let y := slotOf t k 14; y.status = .ready ∧ y.pc = e.handler ∧ y.xid = e.xid ∧ y.msg = e.status ∧ y.names = names 14) ∧
        (logicalOf t (clusterOfKey k) (unitId s k)).comps = r)) ∧
  (∀ (c src i n : Nat) (ws : List Word) (r : List (Nat × Nat × List Word)) (s : State), (clusterOf s c).trapWaits = (src, i, ws) :: r → freeEntry s (keyOf c 64) 16 64 = some n →
    Canonical s → ∃ t, Completes (.trapMessage c) s t ∧ (clusterOf t c).trapWaits = r ∧ (coreOf t (keyOf c 64)).inbox.length = (coreOf s (keyOf c 64)).inbox.length + 1 ∧
      ∀ j, j < 64 → memWord t.mem (inboxAddr (keyOf c 64) n + 8 * j) = ws.getD j 0#64)

/-- R217 to R227: COPY with a legal layout record, room in the transfer table, in the completion queue and in the buffer enters a transfer under its id, writes the id to A
and sends the record with the completion's target to a streamer; a record that breaks the layout traps with cause 0x02 and the offset of its word, and
without room the record stays with the strand, which issues the COPY again (R218); XWAIT on an id that is not in the table goes on, and on a failed transfer frees its
entry and traps with its cause; a request starts the copy routine in a streamer's lowest free slot; a completion frees its transfer, or marks it
failed, and joins its core's queue when it has a handler; and the supervisor's verdict resumes a stopped strand, at the trapping instruction or at
its abort address, unless its core is halted for debug. The words laid out for a
copy routine follow the model's reading (log entry 31); that a completion of a sealed core joins no queue (log entry 32), and that an aborted strand comes
from TRAPPC (log entry 73), are the model's choice. -/
def Obligations.TransferResult : Prop :=
  (∀ (a b c : Name) (disp : BitVec 16) (s s1 s2 s3 : State) (d : Word) (o : Int) (ws : List Nat), (curSlot s).pendErr = none → readWindow b false s = .ok d s1 → readName c s1 = .ok o s2 →
    ((∃ v, (curSlot s2).snap = [] ∧ readWin d (o + disp.toInt) 64 s2 = .ok v s3 ∧ ws = elems64 8 v) ∨
      ((curSlot s2).snap = ws.map (BitVec.ofNat 64) ∧ ws.length = 8 ∧ (∀ w ∈ ws, w < 2 ^ 64) ∧ s3 = s2)) →
    let k := s3.cur.core; let cl := clusterOfKey k; let l := unitId s3 k; let tab := (logicalOf s3 cl l).xfers; let x := freeXid tab 34 (logicalOf s3 cl l).nextXid;
    (∀ n, badLayout ws = some n → exec (.copy a b c disp) s = .next (takeTrap (keepReads s s3) 0x02 (BitVec.ofNat 64 n))) ∧
    (badLayout ws = none → copyRoom (logicalOf s3 cl l) = false → ∃ t, exec (.copy a b c disp) s = .next t ∧ (curSlot t).pc = (curSlot s).pc ∧
      (curSlot t).snap = ws.map (BitVec.ofNat 64) ∧ logicalOf t cl l = logicalOf s3 cl l ∧ (coreOf t k).outbuf = (coreOf s3 k).outbuf) ∧
    (∀ s4, badLayout ws = none → copyRoom (logicalOf s3 cl l) = true → writeName a (x.toNat : Int) s3 = .ok () s4 →
    let (g, s5) := routeCopy (BitVec.ofNat 64 (ws.getD 0 0)) x s4;
    let s6 := modLogical (dropMaps s5) cl l fun y => { y with xfers := tput y.xfers x.toNat { slot := s5.cur.slot, uid := (curSlot s5).uid, launch := (curSlot s5).launch, hurry := hurryOf ws g s5 }, nextXid := x + 1#32 };
    outRoom s6 s6.cur.core s6.cur.slot = true →
    ∃ t m, Completes (.copy a b c disp) s t ∧ (curSlot t).pc = nextOf s.cur.pc s.cur.h ∧ (coreOf t s6.cur.core).outbuf = (coreOf s6 s6.cur.core).outbuf ++ [m] ∧ m.msg.target = g ∧
      m.msg.words.take 8 = ws.map (BitVec.ofNat 64) ∧ m.msg.words.length = 9 ∧ t.clusters = s6.clusters ∧ t.mem = s6.mem)) ∧
  (∀ (a : Name) (s u : State) (v : Int), readName a s = .ok v u → let x : BitVec 32 := BitVec.ofInt 32 v; let c := clusterOfKey u.cur.core; let l := unitId u u.cur.core;
    (tfind (logicalOf u c l).xfers x.toNat = none → Completes (.xwait a) s (goes s u)) ∧
    (∀ e n, tfind (logicalOf u c l).xfers x.toNat = some e → e.result = some n →
      exec (.xwait a) s = .next (takeTrap (modLogical s c l fun y => { y with xfers := tdel y.xfers x.toNat }) n (x.setWidth 64)))) ∧
  (∀ (k i n : Nat) (s t1 : State) (e : InboxEntry), isStreamer k = true → (coreOf s k).inbox.find? (fun e => e.entry == n && !e.running) = some e → freeWork s k = some i → placeMap s k i routineMap = .inr t1 →
    ∃ t, Completes (.copyRequest k n) s t ∧ (let y := slotOf t k i; y.status = .ready ∧ y.pc = s.dev.fwCopy ∧ y.msg = inboxWindow k n ∧ y.handling = some n ∧ y.sender = e.sender) ∧
      (∀ z ∈ (coreOf t k).inbox, z.entry = n → z.running = true)) ∧
  (∀ (g : Agent) (h : Word) (x : BitVec 32) (st : Word) (s : State) (e : Xfer), let c := agentCluster g; let l := agentUnit g; tfind (logicalOf s c l).xfers x.toNat = some e →
    ∃ t, Completes (.completionArrival g h x st) s t ∧
      (logicalOf t c l).xfers = (if st.toNat % 256 ≠ 0 ∧ e.gone = false then tput (logicalOf s c l).xfers x.toNat { e with result := some (st.toNat % 256) } else tdel (logicalOf s c l).xfers x.toNat) ∧
      (logicalOf t c l).comps = (if (coreOf s (agentKey s g)).sealed = false ∧ h ≠ 0#64 then (logicalOf s c l).comps ++ [⟨x, h, st, e.launch⟩] else (logicalOf s c l).comps) ∧ SameDevice s t) ∧
  (∀ (k i : Nat) (pc v : Word) (s : State), (slotOf s k i).status = .stopped .trapped → (coreOf s k).halted = false →
    Completes (.resumePacket k i 0#64 0#64 pc v) s (setSlot s k i { slotOf s k i with status := .ready, pc := (slotOf s k i).trapPc }) ∧
    Completes (.resumePacket k i 0#64 1#64 pc v) s (setSlot s k i { slotOf s k i with status := .ready, lnk := v, pc := pc, from' := (slotOf s k i).trapPc }))

/-! ### Vectors (R229 to R253) -/

/-- R246 to R250: the vector arithmetic. With its vector ids declared and of the types that the instruction takes, each element of A is the
instruction's result on the elements of the sources at its index, the flags of all are raised together, and nothing else of the strand changes; the
first undeclared id traps with cause 0x03 and else the first of a wrong type with cause 0x10, the id in TRAPVAL. -/
def Obligations.VectorResult : Prop :=
  (∀ (a b c d : VRef) (s : State) (j : Nat), vectorFree s →
    ∀ l ∈ [(vaRows.map (fun r => r.1 a b c) ++ vbRows.map (fun r => r.1 a b c) ++ vcRows.map (fun r => r.1 a b c), [a, b, c]),
        ([Instr.vfma a b c d, .vfms a b c d, .vsel a b c d], [a, b, c, d]), (vuRows.map (fun r => r.1 a b) ++ [.vmov a b], [a, b])],
      (l.2.map fun v => v.id.toNat).find? (fun v => (vecAt s v).isNone) = some j → ∀ i ∈ l.1, exec i s = .next (takeTrap s 0x03 (BitVec.ofNat 64 j))) ∧
  ∀ (a b c d : VRef) (s : State) (x y : VecEntry), vectorFree s → vecAt s a.id.toNat = some x → vecAt s b.id.toNat = some y →
    let rm := (curSlot s).rm.toNat; let ia := a.id.toNat; let ty := y.ty;
    (∀ r ∈ vuRows, r.2.1 ty = true → x.ty = ty →
      ∃ v, Completes (r.1 a b) s (goes s v) ∧ RowsGot s v [ia] ((rowElems ty y.data).map (r.2.2 ty rm))) ∧
    (x.ty = ty → ∃ v, Completes (.vmov a b) s (goes s v) ∧ (vecEntry v ia).data = y.data ∧ OnlyRows s v [ia]) ∧
    let bad := fun (i : Instr) (v : VRef) => exec i s = .next (takeTrap s 0x10 (BitVec.ofNat 64 v.id.toNat));
    (∀ r ∈ vuRows, (r.2.1 x.ty = false → bad (r.1 a b) a) ∧ (r.2.1 x.ty = true → x.ty ≠ ty → bad (r.1 a b) b)) ∧ (x.ty ≠ ty → bad (.vmov a b) b) ∧
    (∀ z, vecAt s c.id.toNat = some z →
      (∀ r ∈ vaRows, r.2.1 ty = true → x.ty = ty → z.ty = ty →
        ∃ v, Completes (r.1 a b c) s (goes s v) ∧ RowsGot s v [ia] (List.zipWith (r.2.2 ty rm) (rowElems ty y.data) (rowElems ty z.data))) ∧
      (∀ r ∈ vbRows, x.ty = ty → z.ty = ty →
        ∃ v, Completes (r.1 a b c) s (goes s v) ∧ (vecEntry v ia).data = r.2 y.data z.data ∧ OnlyRows s v [ia]) ∧
      (∀ r ∈ vcRows, numericType ty = true → x.ty = maskType ty → z.ty = ty →
        ∃ v, Completes (r.1 a b c) s (goes s v) ∧ RowsGot s v [ia] (List.zipWith (laneCompare r.2 ty rm) (rowElems ty y.data) (rowElems ty z.data))) ∧
      (∀ r ∈ vaRows, (r.2.1 x.ty = false → bad (r.1 a b c) a) ∧ (r.2.1 x.ty = true → x.ty ≠ ty → bad (r.1 a b c) b) ∧
        (r.2.1 x.ty = true → x.ty = ty → z.ty ≠ ty → bad (r.1 a b c) c)) ∧
      (∀ r ∈ vbRows, (x.ty ≠ ty → bad (r.1 a b c) b) ∧ (x.ty = ty → z.ty ≠ ty → bad (r.1 a b c) c)) ∧
      (∀ r ∈ vcRows, (numericType ty = true → x.ty ≠ maskType ty → bad (r.1 a b c) a) ∧ (numericType ty = false → bad (r.1 a b c) (if intType x.ty then b else a)) ∧
        (numericType ty = true → x.ty = maskType ty → z.ty ≠ ty → bad (r.1 a b c) c)) ∧
      (∀ w, vecAt s d.id.toNat = some w →
        (∀ i ∈ [Instr.vfma a b c d, .vfms a b c d], (wideFloat x.ty = false → bad i a) ∧ (wideFloat x.ty = true → (x.ty ≠ ty → bad i b) ∧
          (x.ty = ty → z.ty ≠ ty → bad i c) ∧ (x.ty = ty → z.ty = ty → w.ty ≠ ty → bad i d))) ∧
        (let i := Instr.vsel a b c d; (ty ≠ selType x.ty → bad i b) ∧ (ty = selType x.ty → z.ty ≠ x.ty → bad i c) ∧
          (ty = selType x.ty → z.ty = x.ty → w.ty ≠ x.ty → bad i d)) ∧
        (wideFloat ty = true → x.ty = ty → z.ty = ty → w.ty = ty →
          ∀ r ∈ [(Instr.vfma a b c d, false), (.vfms a b c d, true)],
          ∃ v, Completes r.1 s (goes s v) ∧ RowsGot s v [ia] (List.zipWith (fun p e => laneFma r.2 ty rm p.1 p.2 e)
            (List.zip (rowElems ty y.data) (rowElems ty z.data)) (rowElems ty w.data))) ∧
        (ty = selType x.ty → z.ty = x.ty → w.ty = x.ty →
          ∃ v, Completes (.vsel a b c d) s (goes s v) ∧ OnlyRows s v [ia] ∧ ∀ i, i < laneCount x.ty →
            (vecElems v ia).getD i 0 = if (rowElems ty y.data).getD (i / (if typeBits x.ty < 8 then 8 / typeBits x.ty else 1)) 0 ≠ 0
              then (rowElems x.ty z.data).getD i 0 else (rowElems x.ty w.data).getD i 0)))

/-- R229 to R232, R247 and R248: what the element operations answer. On I8, I32 and I16 a sum, difference or product is exact, or the nearest bound
with SAT; a compare is all ones when its relation holds and zero otherwise; an operand that is NaN makes the result the canonical NaN and raises no
flag; and -0 is the lesser of two zeros. -/
def Obligations.LaneRules : Prop :=
  (∀ ty ∈ [5, 8, 9], ∀ (rm x y : Nat), x < 2 ^ typeBits ty → y < 2 ^ typeBits ty →
    (∀ p ∈ [(laneAdd, elemInt ty x + elemInt ty y), (laneSub, elemInt ty x - elemInt ty y), (laneMul, elemInt ty x * elemInt ty y)],
      let r := p.1 ty rm x y; let lo := (intRange ty).1; let hi := (intRange ty).2;
      elemInt ty r.1 = max lo (min p.2 hi) ∧ r.2 = if lo ≤ p.2 ∧ p.2 ≤ hi then 0#8 else flagSAT) ∧
    laneCompare (fun o => o == .lt) ty rm x y = (if elemInt ty x < elemInt ty y then 2 ^ typeBits ty - 1 else 0, 0#8) ∧
    laneCompare (fun o => o == .eq) ty rm x y = (if x = y then 2 ^ typeBits ty - 1 else 0, 0#8) ∧
    lanePick true ty rm x y = (if elemInt ty x ≤ elemInt ty y then x else y, 0#8)) ∧
  (∀ ty ∈ [0, 1], ∀ (rm x y : Nat), x < 2 ^ typeBits ty → y < 2 ^ typeBits ty → ((elemValue ty x).isNan = true ∨ (elemValue ty y).isNan = true) →
    (∀ f ∈ [laneAdd, laneSub, laneMul, lanePick true, lanePick false], f ty rm x y = (nanOf ty, 0#8)) ∧
    ∀ p : Ordering → Bool, laneCompare p ty rm x y = (0, 0#8)) ∧
  (∀ ty ∈ [0, 1], ∀ rm : Nat, ∀ p ∈ [(0, signBit ty), (signBit ty, 0)],
    lanePick true ty rm p.1 p.2 = (signBit ty, 0#8) ∧ lanePick false ty rm p.1 p.2 = (0, 0#8))

/-- R229 and R231: rounding keeps what a type can represent. In every rounding mode the value of an element code that is not NaN rounds to that code
and raises no flag, for the five floating types and the five integer types (but for the illegal T2 code); and a value between two neighbouring
integers rounds as its mode says, toward zero, up, down, or to the nearest. -/
def Obligations.RoundingKeepsRepresentable : Prop :=
  (∀ ty ∈ [0, 1, 2, 3, 4, 5, 6, 7, 8, 9], ∀ (rm c : Nat), rm ≤ 4 → c < 2 ^ typeBits ty → (elemValue ty c).isNan = false → (ty = 7 → c ≠ 2) →
    rnd ty rm (elemValue ty c) = (c, 0#8)) ∧
  (∀ (lo hi : Int) (neg : Bool) (m k : Nat), let x : Machine.Num := .fin neg m (-(k : Int)) false; let n : Int := if neg then -(m : Int) else m;
    lo ≤ n.fdiv (2 ^ k) → n.fdiv (2 ^ k) + 1 ≤ hi → n % 2 ^ k ≠ 0 →
    rndInt lo hi modeRDN x = (n.fdiv (2 ^ k), flagNX) ∧ rndInt lo hi modeRUP x = (n.fdiv (2 ^ k) + 1, flagNX) ∧
    rndInt lo hi modeRTZ x = (n.tdiv (2 ^ k), flagNX) ∧
    (2 * (n % 2 ^ k) < 2 ^ k → ∀ md ∈ [modeRNE, modeRNA], rndInt lo hi md x = (n.fdiv (2 ^ k), flagNX)) ∧
    (2 ^ k < 2 * (n % 2 ^ k) → ∀ md ∈ [modeRNE, modeRNA], rndInt lo hi md x = (n.fdiv (2 ^ k) + 1, flagNX)))

/-- R236 to R242: VCVT, VQNT, VDQNT and VOUTL whose checks hold complete: each element of A is the conversion of the element of B at its index, over
whole spans; VQNT writes the codes of each block to A and its scale byte to C; VDQNT scales by the byte of the element's block; VOUTL writes its
list, an entry for each element kept and zeros behind them, clears the elements kept in its source, cuts those dropped to the threshold in their
sign, and pushes the counts of both. They complete whenever the ids of both spans are declared and of one type,
of the kinds that each takes, and C is of its type. -/
def Obligations.ConversionResult : Prop :=
  (∀ (a b c : VRef) (n : BitVec 4) (s : State), vectorFree s → let rm := (curSlot s).rm.toNat; let ia := a.id.toNat; let ib := b.id.toNat; let ic := c.id.toNat;
    let ta := vecTy s ia; let tb := vecTy s ib; let sp := spansOf false s ia ib; let scale := vecElems s ic; let base := tensorBase scale;
    (vecCheck s 0 (.vcvt a b n) = none →
      ∃ v, Completes (.vcvt a b n) s (goes s v) ∧ RowsGot s v sp.1 ((spanElems s sp.2).map (laneConvert tb ta rm))) ∧
    (vecCheck s 0 (.vdqnt a b c) = none →
      ∃ v, Completes (.vdqnt a b c) s (goes s v) ∧ RowsGot s v sp.1 ((spanElems s sp.2).zipIdx.map fun e =>
        laneDequant tb ta rm base (if tb = 7 then 32 else scale.getD (e.2 / blockLen tb) 0) e.1)) ∧
    (vecCheck s 0 (.vqnt a b c n) = none → let xs := (spanElems s sp.2).map (elemValue tb);
      (ta = 7 → ∃ v, Completes (.vqnt a b c n) s (goes s v) ∧ RowsGot s v [ia] (xs.map (quantT2 rm base))) ∧
      (ta ≠ 7 → ic ≠ ia → let rs := (pieces (blockLen ta) (laneCount ta / blockLen ta) xs).map (quantBlock ta rm base);
        ∃ v, Completes (.vqnt a b c n) s (goes s v) ∧ OnlyRows s v [ia, ic] ∧ vecElems v ia = (rs.flatMap (·.1)).map (· % 2 ^ typeBits ta) ∧
          vecElems v ic = (rs.map fun r => r.2.1 % 256) ++ scale.drop rs.length ∧ (curSlot v).flags = (curSlot s).flags ||| allFlags (rs.map (·.2.2)))) ∧
    ((curSlot s).pendErr = none → vecCheck s 0 (.voutl a b c) = none → (dqOf s s.cur.core 0).vto = [] → (dqOf s s.cur.core 0).vfrom = [] →
      (dqOf s s.cur.core 0).entries.length < 8 → ib + outlierLen tb ≤ ia ∨ ia + 2 ≤ ib →
      let xs := (spanElems s (spansOf true s ia ib).2).map (elemValue tb); let cap := scale.getD 1 0 % 64 + 1;
      let p := pickOutliers xs (elemValue 0 (scale.getD 0 0)) cap;
      p.1.length ≤ cap ∧ ∃ v, Completes (.voutl a b c) s (goes s v) ∧
        (dqOf v s.cur.core 0).entries = (dqOf s s.cur.core 0).entries ++ [⟨s.serial, some (BitVec.ofNat 64 (p.1.length + p.2.1.length * 2 ^ 16)), false, false⟩] ∧
        spanElems v (spansOf true s ia ib).1 = (p.1.map fun i => let r := outlierCode rm (BitVec.ofNat 8 (scale.getD 3 0)).toInt (xs.getD i .nan); let e := scale.getD 2 0;
          (e % 32 + (e / 32 % 1024 + i) % 1024 * 2 ^ 5 + r.1 * 2 ^ 15 + r.2.1 * 2 ^ 23) % 2 ^ 32) ++ List.replicate (64 - p.1.length) 0 ∧
        (∀ i, i < 256 → i ∈ p.2.1 → let thr := numAbs (elemValue 0 (scale.getD 0 0)); (spanElems v (spansOf true s ia ib).2).getD i 0 =
          (rnd tb modeRTZ (if 2 ^ (typeBits tb - 1) ≤ (spanElems s (spansOf true s ia ib).2).getD i 0 then numNeg thr else thr)).1 % 2 ^ typeBits tb) ∧
        (∀ i, i < 256 → i ∈ p.1 → (spanElems v (spansOf true s ia ib).2).getD i 0 = 0) ∧
        (∀ i, i < 256 → i ∉ p.1 → i ∉ p.2.1 → (spanElems v (spansOf true s ia ib).2).getD i 0 = (spanElems s (spansOf true s ia ib).2).getD i 0) ∧
        SameMemory s v)) ∧
  (∀ (a b c : VRef) (n : BitVec 4) (s : State), vectorFree s → let ia := a.id.toNat; let ib := b.id.toNat; let ic := c.id.toNat; let ta := vecTy s ia; let tb := vecTy s ib;
    let typed := fun (l : List Nat) ty => ∀ v ∈ l, ∃ e, vecAt s v = some e ∧ e.ty = ty;
    let spans := fun list => typed (ia :: (spansOf list s ia ib).1) ta ∧ typed (ib :: (spansOf list s ia ib).2) tb;
    (spans false → n.toNat = ta → GoesOn (.vcvt a b n) s) ∧
    (spans false → n.toNat = ta → narrowType ta = true → wideFloat tb = true → typed [ic] 5 → GoesOn (.vqnt a b c n) s) ∧
    (spans false → wideFloat ta = true → narrowType tb = true → typed [ic] 5 → GoesOn (.vdqnt a b c) s) ∧
    (spans true → ta = 8 → wideFloat tb = true → typed [ic] 8 → (curSlot s).pendErr = none → (dqOf s s.cur.core 0).vto = [] → (dqOf s s.cur.core 0).entries.length < 8 →
      GoesOn (.voutl a b c) s))

/-- R246, R251 and R253: vector memory and queues. VLD and VLDB of words without poison fill A's row with the bits of the window from their place;
VST and VSTB send the row's bytes to their unit's write queue, and memory is as it was; VTOQ puts the sixteen words of its row behind what its queue
holds, as room allows, in order; VFROMQ takes sixteen words; VANYQ and VALLQ push whether any, or every, element is nonzero. That VLD and VLDB read as they issue (log entry 17), and that
STOREHOLD holds the entries of VST and VSTB (log entry 87), are the model's choice. -/
def Obligations.VectorMoveResult : Prop :=
  (∀ (a : VRef) (b c : Name) (d : BitVec 8) (s u z : State) (w o : Int) (x : VecEntry), vectorFree s → (curSlot s).pendErr = none → vecAt s a.id.toNat = some x →
    readName b s = .ok w u → readName c u = .ok o z → let win : Word := BitVec.ofInt 64 w; let e : VExec := { rm := (curSlot s).rm.toNat, win := win, off := o };
    winValid win false = true → 7 ≤ winLg win → let p := winAddr z.cur.core win (o + 128 * d.toInt) 128; let base := winStore z.cur.core win + winBase win;
    let bit := winBit win (o + 1024 * d.toInt); let nw := if bit % 64 = 0 then 16 else 17;
    (∀ ws q, rowWords e ((List.range 16).map fun j => p + 8 * j) z = .ok ws q → (∀ y ∈ ws, y.2 = false) →
      ∃ v, Completes (.vld a b c d) s (goes s v) ∧ (vecEntry v a.id.toNat).data = BitVec.ofNat 1024 (joinElems 64 (ws.map (·.1))) ∧ v.mem = q.mem) ∧
    (∀ ws q, rowWords e ((List.range nw).map fun j => base + 8 * ((bit / 64 + j) % (2 ^ winLg win / 8))) z = .ok ws q → (∀ y ∈ ws, y.2 = false) →
      ∃ v, Completes (.vldb a b c d) s (goes s v) ∧ (vecEntry v a.id.toNat).data = BitVec.ofNat 1024 (joinElems 64 (ws.map (·.1)) / 2 ^ (bit % 64)) ∧ v.mem = q.mem) ∧
    (hasRoom z →
      Completes (.vst a b c d) s (goes s (sent z (.store (storeBytes p 128 (vecEntry z a.id.toNat).data.toNat) false) (BitVec.ofNat 64 p) false true)) ∧
      Completes (.vstb a b c d) s (goes s (sent z (.store (mergeEnds (bitBytes win base bit 1024 (vecEntry z a.id.toNat).data.toNat)) false)
        (BitVec.ofNat 64 ((base + bit / 8) / 8 * 8)) false true)))) ∧
  (∀ (q : Name) (v : VRef) (s : State) (x : VecEntry) (k : Nat), vectorFree s → (curSlot s).pendErr = none → vecAt s v.id.toNat = some x → 241 ≤ q.toNat → q.toNat ≤ 244 →
    k = q.toNat - 241 → let d := dqOf s s.cur.core k; d.vto = [] → d.vfrom = [] → let row := (elems 64 16 x.data.toNat).map (BitVec.ofNat 64);
    (∃ t, Completes (.vtoq q v) s t ∧ (curSlot t).pc = nextOf s.cur.pc s.cur.h ∧ (let y := dqOf t s.cur.core k;
      y.entries.map (·.val) ++ (y.vto.flatMap fun e => e.words.map some) = d.entries.map (·.val) ++ row.map some ∧ y.vfrom = [] ∧
      (d.entries.length ≤ 8 → y.entries.length = 8))) ∧
    (d.entries = [] → (∀ e ∈ (curSlot s).kept, e.1 ≠ k) → ∃ t e, Completes (.vfromq v q) s t ∧ (curSlot t).pc = nextOf s.cur.pc s.cur.h ∧ (dqOf t s.cur.core k).vfrom = [e] ∧ e.slot = s.cur.slot ∧
      e.vec = v.id.toNat ∧ e.words = []) ∧
    (d.entries.length < 8 → let nz := (rowElems x.ty x.data).map (laneNonzero x.ty);
      ∀ r ∈ [(Instr.vanyq q v, nz.any (·.1)), (.vallq q v, nz.all (·.1))],
      ∃ t, Completes r.1 s t ∧ (curSlot t).pc = nextOf s.cur.pc s.cur.h ∧ (curSlot t).flags = (curSlot s).flags ||| allFlags (nz.map (·.2)) ∧
        (dqOf t s.cur.core k).entries = d.entries ++ [⟨s.serial, some (if r.2 then 1#64 else 0#64), false, false⟩]))

/-! ### The repetition sequencer (R254 to R259) -/

/-- R254 to R258 and R259: RPBEGIN in a work slot of a core takes an unowned sequencer, empty and recording; a vector instruction of the owner that
records is appended with its window and offset, and its rows do not change; RPEND ends the recording, and a second one gives the sequencer up; RPRUN
and RPRUNI, not recording, with the buffer's checks and their own passed and the owner's accesses performed, start the run that their record or
count describes; and RPWAIT goes on when no run is left. Another strand's RPEND, RPRUNI or RPWAIT traps with cause 0x15. A run executes its buffer's
entries in order, at each place of its loop nest, the innermost first: the next place's index is one more, for every place of the nest; each entry
takes the effect of its instruction under the place's stagger offset and stream, once no queue move of an earlier one is left; and after the last, with none of its queue moves left, the run
ends. -/
def Obligations.SequencerAndRunResult : Prop :=
  (∀ s : State, isCore s.cur.core = true → s.cur.slot < 14 → let q := curSeq s;
     (q.owner = none → Completes .rpbegin s (goes s (modSeq (fun _ => { owner := some s.cur.slot, recording := true }) s))) ∧
     (∀ o, q.owner = some o → o ≠ s.cur.slot → exec .rpbegin s = .next (takeTrap s 0x15 (BitVec.ofNat 64 o))) ∧
     (q.owner ≠ some s.cur.slot → ∀ i ∈ [Instr.rpend, .rpruni 1#16, .rpwait], exec i s = .next (takeTrap s 0x15 0#64)) ∧
     (q.owner = some s.cur.slot →
       (q.recording = true → Completes .rpend s (goes s (modSeq (fun x => { x with recording := false }) s))) ∧
       (q.recording = false → q.run = none → Completes .rpend s (goes s (modSeq (fun _ => {}) s))) ∧
       (q.run = none → Completes .rpwait s (goes s s)) ∧
       (∀ a b c : VRef, q.recording = true → q.run = none → vecCheck s 0 (.vadd a b c) = none → q.buf.length < 16 →
         Completes (.vadd a b c) s (goes s (modSeq (fun x => { x with buf := x.buf ++ [{ instr := .vadd a b c, win := 0#64, off := 0 }] }) s))) ∧
       (q.recording = false → q.run = none → q.buf ≠ [] →
         (∀ n : BitVec 16, n ≠ 0#16 → recheck s 1 q.buf = none → readsOut s s.cur.core s.cur.slot = false → drainBusy s s.cur.core s.cur.slot 3 ((curSlot s).fenced.getD s.serial) = false →
           ∃ r, Completes (.rpruni n) s (goes s (modSeq (fun x => { x with run := some r }) s)) ∧
             r = { rm := (curSlot s).rm, n0 := n.toNat, n1 := 1, n2 := 1, slevel := 0, m := 1, t0 := 0, t1 := 0, t0s := [0, 0, 0], t1s := [0, 0, 0] }) ∧
         (∀ (b c : Name) (disp : BitVec 16) (u w x : State) (d : Word) (o : Int) (v : Nat), readWindow b false s = .ok d u → readName c u = .ok o w →
           readWin d (o + disp.toInt) 32 w = .ok v x → let ws := elems 64 4 v; let r := nestRun (curSlot x).rm ws;
           badNest ws = none → recheck x r.m (curSeq x).buf = none → readsOut x x.cur.core x.cur.slot = false → drainBusy x x.cur.core x.cur.slot 3 ((curSlot x).fenced.getD x.serial) = false →
           (curSeq x).buf ≠ [] → Completes (.rprun b c disp) s (goes s (modSeq (fun y => { y with run := some r }) x)))))) ∧
  ((∀ (n : Nat) (r : RpRun), r.e < n → r.i0 < r.n0 → r.i1 < r.n1 → let y := runNext n r;
     (let at' := fun x : RpRun => ((x.i2 * r.n1 + x.i1) * r.n0 + x.i0) * n + x.e; at' y = at' r + 1) ∧ y.e < n ∧ y.i0 < r.n0 ∧ y.i1 < r.n1 ∧
       { y with e := r.e, i0 := r.i0, i1 := r.i1, i2 := r.i2 } = r) ∧
   (∀ (k i : Nat) (s u : State) (r : RpRun) (e : RpEntry), let q := (coreOf s k).seq; q.owner = some i → q.run = some r → r.i2 < r.n2 → q.buf[r.e]? = some e →
     runMoving (coreOf s k) = false → let t := atStrand s k i; (∀ v ∈ vecTouched t (runExec r e).sigma e.instr, vecOutstanding t k i v = false) → vecEffect (runExec r e) e.instr t = .ok () u →
     Completes (.rpRunEntry k) s (setRun { u with cur := s.cur } k (some (runNext q.buf.length r)))) ∧
   (∀ (k i : Nat) (s : State) (r : RpRun), let q := (coreOf s k).seq; q.owner = some i → q.run = some r → r.n2 ≤ r.i2 → runMoving (coreOf s k) = false →
     Completes (.rpRunEntry k) s (setRun s k none)))

/-! ### The matrix unit (R262 to R281) -/

/-- R264 to R276: the matrix commands. A command whose checks hold leaves its queue and acts: MCTX sets the context; MZERO zeroes the sets of its
mask; MTILE fills its tile register, 8-bit elements from the bytes that R268 places; MMA begins, with its pair record and progress; MREAD writes
each row's elements rounded from the exact accumulators, and nothing outside its rows; MFENCE writes the error summary and sets its word full. None of
these but MREAD and MFENCE changes a byte of memory. A command of any kind that fails a check leaves the queue, is counted, and leaves a pending error in its strand.
That MFENCE's offset is rounded down to a word (log entry 101), and that a command of an unknown kind leaves by the step of MCTX (log entry 34), are the
model's choice. -/
def Obligations.MatrixResult : Prop :=
  ∀ (k : Nat) (s : State) (c : MCmd) (r : List MCmd), let m := (coreOf s k).mx; let ws := c.words;
    (Takes s k 1 c r →
      let x : MCtx := { fa := cmdByte ws 8, fb := cmdByte ws 9, ba := cmdInt ws 10, bb := cmdInt ws 11, out := cmdByte ws 12, rm := cmdByte ws 13, lock := cmdByte ws 14, cap := cmdByte ws 15 };
      ∃ t, Completes (.mctx k) s t ∧ (coreOf t k).mx = { m with queue := r, ctx := some x } ∧ SameMemory s t) ∧
    (Takes s k 2 c r → ∃ t, Completes (.mzero k) s t ∧ (coreOf t k).mx = { m with queue := r, acc0 := if (cmdByte ws 8).testBit 0 then {} else m.acc0, acc1 := if (cmdByte ws 8).testBit 1 then {} else m.acc1 } ∧ SameMemory s t) ∧
    (Takes s k 6 c r → let d := descAt k ws 2; ∃ t tile, Completes (.mtile k) s t ∧ (coreOf t k).mx = { m with queue := r, tiles := tput m.tiles (cmdByte ws 8) tile } ∧
        tile.fmt = cmdByte ws 9 ∧ tile.k = cmdHalf ws 12 ∧ t.mem = s.mem ∧ (typeBits (cmdByte ws 9) = 8 → ∀ i j, i < 32 → j < cmdHalf ws 12 →
          (tile.codes.getD i []).getD j 0 = (memByte t.mem (quadBase d.quad + (d.off + i * d.rp + (j + 8 * (i * d.rot % 16)) % d.rp) % 2 ^ 19)).toNat)) ∧
    (∀ x, Takes s k 3 c r → m.ctx = some x → let n := (pairNum x.fa x.fb).getD 0; let set := cmdByte ws 8;
      ∃ t e, Completes (.mma k) s t ∧ (coreOf t k).mx.exec = some e ∧ e.cmd = c ∧ e.blk = 0 ∧ e.outliers.length = cmdHalf ws 14 ∧ (coreOf t k).mx.queue = r ∧
        (accSet (coreOf t k).mx set).progress = (0, cmdHalf ws 12 / (pairAt n).block) ∧ (accSet (coreOf t k).mx (1 - set)) = accSet m (1 - set) ∧
        (accSet (coreOf t k).mx set).kcount = (if cmdZf ws then 0 else (accSet m set).kcount) ∧ t.mem = s.mem ∧ ((∀ f ∈ s.flips, inSram f.1 = true) → SameMemory s t) ∧
        ((accSet (coreOf t k).mx set).kcount = 0 → (accSet (coreOf t k).mx set).pair = some (n, x.ba, x.bb))) ∧
    (∀ x, Takes s k 4 c r → m.ctx = some x → Canonical s → let d := descAt k ws 2; let a := accSet m (cmdByte ws 8); let lo := quadBase d.quad + d.off; let b := typeBits x.out;
      d.off + 32 * d.rp ≤ 2 ^ 19 → (∀ y, lo ≤ y → y < lo + 32 * d.rp → inInbox y = false) →
      ∃ t, Completes (.mread k) s t ∧ (coreOf t k).mx.queue = r ∧ (cmdZf ws = true → accSet (coreOf t k).mx (cmdByte ws 8) = {}) ∧
        (∀ i j, i < 32 → j < b / 2 → memWord t.mem (lo + i * d.rp + 8 * j) = BitVec.ofNat 64 (joinElems b ((List.range (64 / b)).map fun e =>
          (rnd x.out x.rm (accNum (setLsb a) (tget a.elems {} (32 * i + j * (64 / b) + e)))).1))) ∧
        ∀ y, (y < lo ∨ lo + 32 * d.rp ≤ y) → memByte t.mem y = memByte s.mem y) ∧
    (Takes s k 5 c r → Canonical s → let a := (quadBase (quadNamed k (bitsOf (cmdWord ws 2) 41 32)) + bitsOf (cmdWord ws 2) 31 0 % 2 ^ 19) / 8 * 8;
      (∀ y, y < 8 → inInbox (a + y) = false) → (quadOf s (portKey a)).feWaits = [] →
      ∃ t, Completes (.mfence k) s t ∧ memWord t.mem a = BitVec.ofNat 64 (m.ecount * 2 ^ 40 + m.edet * 2 ^ 32 + cmdTag ws) ∧ t.full.contains a = true ∧
        (coreOf t k).mx = { m with queue := r, etag := 0#32, edet := 0, ecount := 0 } ∧ ∀ y, (y < a ∨ a + 8 ≤ y) → memByte t.mem y = memByte s.mem y) ∧
    (∀ d, isCore k = true → mxNext s (quadOfKey k) = some k → m.queue = c :: r → cmdDetail m ws = some d →
      ∀ p ∈ [(Instr.mctx k, 1), (.mzero k, 2), (.mma k, 3), (.mread k, 4), (.mfence k, 5), (.mtile k, 6)],
      (cmdKind ws = p.2 ∨ (p.2 = 1 ∧ (cmdKind ws = 0 ∨ 6 < cmdKind ws))) →
      ∃ t, Completes p.1 s t ∧ SameMemory s t ∧ (coreOf t k).mx = { m with queue := r, ecount := min 255 (m.ecount + 1), etag := if m.ecount = 0 then BitVec.ofNat 32 (cmdTag ws) else m.etag, edet := if m.ecount = 0 then d else m.edet } ∧
        ((slotOf s k c.slot).uid = c.uid → (slotOf s k c.slot).status ≠ .free → (slotOf s k c.slot).pendErr = none →
          (slotOf t k c.slot).pendErr = some { cause := 0x11, addr := BitVec.ofNat 64 (cmdTag ws * 256 + d) }))

/-- R271 to R273, R279 and R280: The accumulation. A K block of an executing MMA, of which no word waits behind a parked atomic, counts one more block of its set, and after the last the command is
complete, with its K added to the set's count; and the products added to an element are summed exactly, modulo 2^160: whatever their order, the
element's value is what it was plus the sum of the products, where each is finite and a whole number of the set's unit. MACC of an index below 2^13,
for a set on which no MMA executes or whose context lets it be read meanwhile, writes the word of the element that the index names to A and the
set's progress to C, whenever B reads without a pop and A and C take any value; an index out of range traps with cause 0x11, and a read-only C with cause 0x02; MSTAT writes the error tag, count and detail,
whether a command executes, and the length of the queue. -/
def Obligations.MatrixSumAndReads : Prop :=
  ((∀ (k : Nat) (s : State) (e : MExec) (x : MCtx), (coreOf s k).mx.exec = some e → (coreOf s k).mx.ctx = some x → anyBlocked s (blockWords k x e) = false →
     let ws := e.cmd.words; let n := (pairNum x.fa x.fb).getD 0; let total := cmdHalf ws 12 / (pairAt n).block; let old := accSet (coreOf s k).mx (cmdByte ws 8);
     ∃ t, Completes (.kBlockCompletion k) s t ∧ (let set := accSet (coreOf t k).mx (cmdByte ws 8);
       set.progress = (e.blk + 1, total) ∧ set.pair = old.pair ∧ (coreOf t k).mx.queue = (coreOf s k).mx.queue ∧ t.mem = s.mem ∧
       (e.blk + 1 = total → (coreOf t k).mx.exec = none ∧ set.kcount = old.kcount + cmdHalf ws 12 + 128 * cmdHalf ws 14) ∧
       (e.blk + 1 ≠ total → (coreOf t k).mx.exec.map (fun y => (y.cmd, y.blk)) = some (e.cmd, e.blk + 1) ∧ set.kcount = old.kcount))) ∧
   (∀ (lsb : Int) (as bs : List Opnd) (e : AccElem), (∀ p ∈ List.zip as bs, (wholeProduct lsb p).isSome) →
     let r := (accDot lsb none as bs e).1;
     r.val = e.val + BitVec.ofInt 160 (((List.zip as bs).filterMap (wholeProduct lsb)).sum) ∧ r.tag = e.tag ∧ r.inexact = e.inexact)) ∧
  ((∀ (a b c : Name) (s u v z : State) (x : Nat) (sg : Bool), isCore s.cur.core = true → (isFixed c = true → writable c = true) → readName b s = .ok (x : Int) u → x < 2 ^ 13 →
     u.cur = s.cur → let m := (coreOf u s.cur.core).mx; let set := accSet m (x / 2 ^ 12 % 2); let e := tget set.elems {} (x / 2 ^ 7 % 32 * 32 + x / 2 ^ 2 % 32);
     (setBusy m (x / 2 ^ 12 % 2) = false ∨ snapshotMode m = true) → e.poison = false → signedOfName a u = .ok sg u →
     writeName a (readAs 64 sg (accWord e (x % 4))) u = .ok () v → writeName c ((set.progress.2 * 2 ^ 16 + set.progress.1 : Nat) : Int) v = .ok () z →
     Completes (.macc a b c) s (goes s z)) ∧
   (∀ (e : AccElem), accWord e 0 + 2 ^ 64 * accWord e 1 + 2 ^ 128 * (accWord e 2 % 2 ^ 32) = e.val.toNat) ∧
   (∀ (a b c : Name) (s u : State) (x : Int), isCore s.cur.core = true → (isFixed c = true → writable c = true) → readName b s = .ok x u → (x < 0 ∨ 2 ^ 13 ≤ x) →
     exec (.macc a b c) s = .next (takeTrap s 0x11 (BitVec.ofInt 64 x))) ∧
   (∀ (a b c : Name) (s : State), isCore s.cur.core = true → isFixed c = true → writable c = false → exec (.macc a b c) s = .next (takeTrap s 0x02 0#64)) ∧
   (∀ (a : Name) (s u : State), isCore s.cur.core = true → let m := (coreOf s s.cur.core).mx;
     writeName a ((m.etag.toNat * 2 ^ 32 + m.ecount * 2 ^ 16 + m.edet * 2 ^ 8 + (if m.exec.isSome then 16 else 0) + m.queue.length : Nat) : Int) s = .ok () u →
     Completes (.mstat a) s (goes s u)) ∧
   (∀ (a : Name) (s : State), isCore s.cur.core = true → TakesAny s a → GoesOn (.mstat a) s) ∧
   (∀ (a b c : Name) (s : State), isCore s.cur.core = true → Steady s b → TakesAny s a → TakesAny s c → 0 ≤ sourceValue s b → sourceValue s b < 2 ^ 13 →
     (setBusy (coreOf s s.cur.core).mx ((sourceValue s b).toNat / 2 ^ 12 % 2) = false ∨ snapshotMode (coreOf s s.cur.core).mx = true) → GoesOn (.macc a b c) s) ∧
   (∀ (a b c : Name) (s : State), isCore s.cur.core = false → exec (.macc a b c) s = .next (takeTrap s 0x02 0#64) ∧ exec (.mstat a) s = .next (takeTrap s 0x02 0#64)))

/-! ### Launches and the front end (R104 to R108, R207, R303, R307 to R331) -/

/-- R105, R106, R207, R224, R303, R322 and R323: A launch that may be placed on a core, its barriers free, its handler map and its world fitting and
the core's matrix commands complete, is placed there, with its barriers taken in the cluster, and a quad that changes its world has its store cleared; and at a boundary of the slot arbiter,
which is then taken, a queue whose credit then reaches 256, with one strand to start on a core where a slot is free, starts it: READY at the launch's entry with its
windows, vector, owner and launch, all its windows given; with less credit nothing starts. A
seed that found no place is tried again once names are released on the core, without more credit (R49). A launch that has nothing left posts its record, in its
ring if there is room and else kept in order for it, raises its queue's vector, and is gone; until then nothing of it changes; one of which
a restart has failed is ended with the first failure's cause and TRAPVAL (R364; when, is log entry 93). Which launch is the oldest pending one follows the model's reading (log entry 46). -/
def Obligations.LaunchResult : Prop :=
  ((∀ (id k : Nat) (s : State) (x : Launch), tfind s.launches id = some x → isCore k = true → placeable s x = true → let c := clusterOfKey k; let l := unitId s k; let q := quadOfKey k;
     (launchCores x).contains (c, l) = true → placedOn x c l = false → (coreOf s k).sealed = false →
     (x.bars = [] ∨ x.barClusters.contains c = true ∨ x.bars.length ≤ (freeBarriers s c).length) → coreReady s k x = true →
     ∃ t y, Completes (.launchPlacement id k) s t ∧ tfind t.launches id = some y ∧ tfind y.started (128 * c + l) = some 0 ∧ (quadOf t q).secure = x.sec ∧
       (x.barClusters.contains c = false → ∀ j n, x.bars[j]? = some n → ∃ p, barState t c p = { n := n, owner := some (id, j) }) ∧
       ((quadOf s q).secure ≠ x.sec → ∀ a, a < 0x80000 → memByte t.mem (quadBase q + a) = 0#8) ∧
       ∀ a, (a < quadBase q ∨ quadBase q + 0x80000 ≤ a) → memByte t.mem a = memByte s.mem a) ∧
   (∀ (id k i : Nat) (s u : State) (x : Launch), s.launches = [(id, x)] → isCore k = true → (coreOf s k).sealed = false → let c := clusterOfKey k; let l := unitId s k;
     let m := modCore s k fun y => { y with bound := some (cycOf s k), unseated := [] }; let m2 := modCore s k fun y => { y with unseated := [], freed := false };
     (coreOf s k).halted = false → placeable s x = true → x.posted = false → (launchCores x).contains (c, l) = true → placedOn x c l = true → startedOn x c l + 1 = x.quota → strandsOn s k (some id) < x.quota → x.queue < 64 →
     let old := tget (coreOf s k).credits 0 x.queue; let cr := old + (queueOf s x.queue).weight;
     ((coreOf s k).freed = true → (coreOf s k).unseated = [x.queue] → 256 ≤ old → freeWork s k = some i →
       (seed m2 id x k i = some u → ∃ t, Completes (.slotArbiterBoundary k) s t ∧ (slotOf t k i).status = .ready ∧ (slotOf t k i).pc = x.entry ∧ (slotOf t k i).launch = some id ∧
         tget (coreOf t k).credits 0 x.queue = old - 256 ∧ (coreOf t k).unseated = [] ∧ SameMemory s t) ∧
       (seed m2 id x k i = none → ∃ t, Completes (.slotArbiterBoundary k) s t ∧ (coreOf t k).unseated = [x.queue] ∧ (coreOf t k).credits = (coreOf s k).credits ∧
         (coreOf t k).slots = (coreOf s k).slots ∧ SameMemory s t)) ∧
     ((coreOf s k).freed = false → 256 ≤ cr → freeWork s k = some i → seed (addCredits m k) id x k i = some u →
       ∃ t, Completes (.slotArbiterBoundary k) s t ∧ tget (coreOf t k).credits 0 x.queue = min cr 512 - 256 ∧ (let y := slotOf t k i; y.status = .ready ∧ y.pc = x.entry ∧ y.tvec = x.tvec ∧
         y.owner = some x.queue ∧ y.launch = some id ∧ y.w0 = x.wins.getD 0 0#64 ∧ y.w1 = x.wins.getD 1 0#64 ∧ y.w2 = x.wins.getD 2 0#64 ∧ y.w3 = x.wins.getD 3 0#64 ∧ y.flags = 0#8) ∧ SameMemory s t) ∧
     ((coreOf s k).freed = false → cr < 256 → Completes (.slotArbiterBoundary k) s (addCredits m k)))) ∧
  (∀ (id : Nat) (s : State) (x : Launch), tfind s.launches id = some x → x.ending = none → x.posted = false →
     (restartFailed s id = false → launchDone s id x = true → ∃ t, Completes (.launchCompletion id) s t ∧ t.launches = tdel s.launches id ∧ t.cores = s.cores ∧
       ((queueOf s x.queue).records = [] → ringFull (queueOf s x.queue) = false → (queueOf t x.queue).cqtail = (queueOf s x.queue).cqtail + 1#32 ∧ x.queue ∈ t.dev.msix) ∧
       ((queueOf s x.queue).records ≠ [] ∨ ringFull (queueOf s x.queue) = true → (queueOf t x.queue).records = (queueOf s x.queue).records ++
         [recordBytes x.tag x.ticket 0 0 0 noAgent 0#64])) ∧
     (restartFailed s id = false → launchDone s id x = false → exec (.launchCompletion id) s = .next s) ∧
     (∀ n c v, (s.clusters.flatMap fun e => e.2.failures).find? (fun e => e.1 == id) = some (n, c, v) → ∃ t, Completes (.launchCompletion id) s t ∧ restartFailed t id = false ∧
       ∀ y, s.launches = [(id, x)] → tfind t.launches id = some y → y.ending = some (2, 1, c, noAgent, v)))

/-- R312, R313 and R315 to R317: the front end. It consumes the committed packet at HEAD, whatever its kind: HEAD goes up by one, the ticket's bit
leaves COMMITMAP, and no launch is entered yet; the members of a validated sheaf then act in order: LAUNCH and LAUNCH-EXT enter a launch, SIGNAL
stores its value once every launch before it is complete, WAIT goes on when its word is at least its value and is polled until then, and NOP,
SHEAF-BEGIN and SHEAF-COMMIT do nothing. -/
def Obligations.FrontEndResult : Prop :=
  ∀ (q : Nat) (s : State), let x := queueOf s q;
    (∀ r ∈ packetRows q, x.checking = none → mayAct s q = false → mayConsume s q = true → pktKind (headPacket s q) = r.2 →
      ∃ t, Completes r.1 s t ∧ (queueOf t q).head = x.head + 1#32 ∧ (∀ n, n ∈ (queueOf t q).commitmap ↔ n ∈ x.commitmap ∧ n ≠ x.head.toNat % 2 ^ x.qsize) ∧ t.launches = s.launches ∧ t.cores = s.cores) ∧
    (∀ m r, x.checking = none → mayAct s q = true → x.held = m :: r → let a := localPa s (pktField m.2 8 8); let v := pktField m.2 16 8;
      (∀ p ∈ [(Instr.nopPacket q, 1), (.sheafBegin q, 3), (.sheafCommit q, 4)], pktKind m.2 = p.2 → Completes p.1 s (packetDone s q)) ∧
      (∀ l b, x.built = l :: b → mayEnter s q = true →
        (pktKind m.2 = 2 → wantsExt m.2 = false → ∃ t id e, Completes (.launch q) s t ∧ tfind t.launches id = some e ∧ e = { l with ext := [], ckpt := 0#64, bars := [] } ∧
          (queueOf t q).held = r ∧ (queueOf t q).built = b ∧ SameMemory s t) ∧
        (pktKind m.2 = 7 → ∃ t id e, Completes (.launchExt q) s t ∧ tfind t.launches id = some e ∧ e.packet = l.packet ∧ e.ext = m.2 ∧ e.ckpt = BitVec.ofNat 64 (pktField m.2 8 8) ∧
          e.bars = (List.range (pktByte m.2 16)).map (fun j => pktField m.2 (32 + 2 * j) 2 % 1024) ∧ (queueOf t q).held = r ∧ SameMemory s t)) ∧
      (pktKind m.2 = 5 → inPeer a = false → signalReady s q = true → pktByte m.2 1 % 2 = 0 → s.flips = [] → s.poison = [] → s.tagBad = [] → s.mediaBad = [] → s.parked = [] → Canonical s → a % 8 = 0 →
        (∀ y, y < 8 → inInbox (a + y) = false) → ∃ t, Completes (.signal q) s t ∧ (queueOf t q).held = r ∧ memWord t.mem a = BitVec.ofNat 64 v ∧
          ∀ y, (y < a ∨ a + 8 ≤ y) → memByte t.mem y = memByte s.mem y) ∧
      (pktKind m.2 = 5 → signalReady s q = false → exec (.signal q) s = .next s) ∧
      (pktKind m.2 = 6 → inPeer a = false → wordBlocked s a 8 = false → transfers s a 8 = (false, s) → s.flips = [] → s.poison = [] → s.tagBad = [] → s.mediaBad = [] → ∀ i ∈ [Instr.waitPacket q, .waitPoll q],
        (v ≤ (memWord s.mem a).toNat → Completes i s (packetDone s q)) ∧ ((memWord s.mem a).toNat < v → exec i s = .next s)))

/-- R157, R205, R303, R307, R309 to R311, R324, R325, R327, R331 and R370: The host's registers. A free ring gives the next ticket and RESV goes up; a full one
answers FULL and gives none; COMMIT puts its ticket's slot in COMMITMAP; a MARG register takes its value; QBASE of a queue that is not enabled takes
its fields; ENABLE is set; a CQHEAD written while a queue reset has no record left to write ends the reset; each mailbox command code starts its
command, an unlisted code is refused with 0xFFFF and a queue above 63 with 0xFFFE; and an enumeration refresh is two steps, of which the first makes GEN odd and writes nothing else of the region, and the second makes it the
next even number and writes the region; neither writes memory. The host's other acts. A CXL.mem read of GDDR 7 outside secure memory returns the bytes there, all ones within it, and says whether a word of
them is poisoned; one of a word on which an atomic is parked joins the outside accesses behind it; a write joins the outside
accesses with the bytes outside secure memory; a device reset empties the quad stores and every core, cluster, queue and link, and keeps the bytes
of other memory that is not secure; and recovery reopens the queues, a record posted for each launch that was lost. What a reset keeps and what
a host read sees of the host's own writes are the model's choice (log entries 56 and 57), and so is the end of a queue reset at a CQHEAD write (log
entry 54). -/
def Obligations.HostResult : Prop :=
  ((∀ (q : Nat) (s : State), q < 64 → let x := queueOf s q;
     ((x.resv - x.head).toNat < 2 ^ x.qsize → ∃ t, Completes (.resvRead q) s t ∧ t.dev.hostData = toBytes 8 x.resv.toNat ∧ (queueOf t q) = { x with resv := x.resv + 1#32 } ∧ SameMemory s t) ∧
     (2 ^ x.qsize ≤ (x.resv - x.head).toNat → ∃ t, Completes (.resvRead q) s t ∧ t.dev.hostData = toBytes 8 (x.resv.toNat + 2 ^ 63) ∧ queueOf t q = x ∧ SameMemory s t) ∧
     (∀ v : Word, ∃ t, Completes (.commit q v) s t ∧ SameMemory s t ∧ ∀ n, n ∈ (queueOf t q).commitmap ↔ n ∈ x.commitmap ∨ n = v.toNat % 2 ^ 16 % 2 ^ x.qsize) ∧
     (∀ v : Word, let off := 0x100000 + 0x10000 * q;
       (x.enable = false → ∃ t, Completes (.registerWrite off v) s t ∧ queueOf t q = { x with qbase := v &&& 0x800FFFFFFFFFF000#64 } ∧ SameMemory s t) ∧
       (x.enable = true → Completes (.registerWrite off v) s s) ∧
       (x.state = 4 → x.records = [] → ∃ t, exec (.registerWrite (off + 0x38) v) s = .next t ∧ MailDone s t ∧ SameMemory s t ∧
         queueOf t q = { x with cqhead := v.setWidth 32, state := 0, head := 0#32, resv := 0#32, commitmap := [], enable := x.enable && !x.disable, disable := false }) ∧
       (v.getLsbD 0 = true → ∃ t, Completes (.registerWrite (off + 0x10) v) s t ∧ queueOf t q = { x with enable := true, disable := false } ∧ SameMemory s t))) ∧
   (∀ (v : Word) (s : State),
     Completes (.registerWrite 0x10010 v) s { s with mbox := { s.mbox with arg0 := v } } ∧ Completes (.registerWrite 0x10018 v) s { s with mbox := { s.mbox with arg1 := v } } ∧
     Completes (.registerWrite 0x10020 v) s { s with mbox := { s.mbox with arg2 := v } } ∧ Completes (.registerWrite 0x10028 v) s { s with mbox := { s.mbox with arg3 := v } } ∧
     (s.mbox.state = 1 → Completes (.registerWrite 0x10000 v) s s) ∧
     (s.mbox.state ≠ 1 → let n := v.toNat % 256; let q := v.toNat / 256 % 256;
       (∀ p ∈ mailRows q, n = p.1 → (5 < n ∨ q < 64) → Completes (.registerWrite 0x10000 v) s
         { s with mbox := { s.mbox with cmd := v &&& 0xFFFF#64, state := 1, reason := 0, buf := [], bad := [] }, agenda := s.agenda ++ [p.2] }) ∧
       (n = 0 ∨ 12 < n → ∃ t, exec (.registerWrite 0x10000 v) s = .next t ∧ MailRefused s t 0xFFFF) ∧
       (1 ≤ n → n ≤ 5 → 64 ≤ q → ∃ t, exec (.registerWrite 0x10000 v) s = .next t ∧ MailRefused s t 0xFFFE))) ∧
   (∀ s : State, Memory.wf s.dev.shadow = true → ∃ t, Completes .enumRefresh s t ∧ t.dev.gen = s.dev.gen + 1#64 ∧ SameMemory s t ∧ t.queues = s.queues ∧
     ofBytes (memBytes t.dev.shadow 0 8) = (s.dev.gen + 1#64).toNat ∧
     (s.dev.gen.toNat % 2 = 0 → ∀ a, 8 ≤ a → memByte t.dev.shadow a = memByte s.dev.shadow a) ∧
     (s.dev.gen.toNat % 2 = 1 → ofBytes (memBytes t.dev.shadow 0x10 8) = s.dev.profile.toNat ∧
       ofBytes (memBytes t.dev.shadow 0x20 8) = launchesLive s % 2 ^ 64 ∧ ∀ q, q < 64 → ofBytes (memBytes t.dev.shadow (0x600 + 8 * q) 8) = queueWord s q % 2 ^ 64))) ∧
  ((∀ (off : Nat) (data : List Byte) (s : State), off + data.length ≤ 0x2400000000 →
     (wordBlocked s (0x1000000000 + off) data.length = true → ∃ e, exec (.hostCxlMemAccess false off data) s = .next { modQuad s outsideQueue (fun y => { y with wq := y.wq ++ [e] }) with
       serial := s.serial + 1 } ∧ e.op = .read (0x1000000000 + off) data.length ∧ e.outside = true ∧ e.peer = none) ∧
     (wordBlocked s (0x1000000000 + off) data.length = false → ∃ t, Completes (.hostCxlMemAccess false off data) s t ∧ (∀ a, memByte t.mem a = memByte s.mem a) ∧ t.dev.hostData.length = data.length ∧
       (s.flips = [] → SameMemory s t ∧ ((quadOf s outsideQueue).wq = [] → (t.dev.hostPoison = true ↔
         ∃ j, j < data.length ∧ inSecure s (0x1000000000 + off + j) = false ∧ (0x1000000000 + off + j) / 8 * 8 ∈ s.poison))) ∧ ∀ j, j < data.length →
       (inSecure s (0x1000000000 + off + j) = true → t.dev.hostData[j]? = some 255#8) ∧
       (inSecure s (0x1000000000 + off + j) = false → (quadOf s outsideQueue).wq = [] → t.dev.hostData[j]? = some (memByte s.mem (0x1000000000 + off + j)))) ∧
     (data ≠ [] → (∀ j, j < data.length → inSecure s (0x1000000000 + off + j) = false) →
       ∃ t e, Completes (.hostCxlMemAccess true off data) s t ∧ (quadOf t outsideQueue).wq = (quadOf s outsideQueue).wq ++ [e] ∧ e.outside = true ∧ SameMemory s t ∧
         e.op = .store (data.zipIdx.map fun d => { addr := 0x1000000000 + off + d.2, val := d.1 }) false)) ∧
   (∀ s : State, ∃ t, Completes .deviceReset s t ∧ t.cores = State.reset.cores ∧ t.clusters = State.reset.clusters ∧ t.quads = State.reset.quads ∧ t.queues = State.reset.queues ∧ t.launches = [] ∧
     t.fab = State.reset.fab ∧ t.full = [] ∧ (∀ a, inQuads a = true → memByte t.mem a = 0#8 ∧ a ∉ t.poison) ∧
     ∀ a, inQuads a = false → (a < 2 ^ 52 ∨ 2 ^ 53 ≤ a) → inSector s a = false → memByte t.mem a = memByte s.mem a) ∧
   (∀ s : State, ∃ t, Completes .recovery s t ∧ t.dev.fatal = false ∧ t.dev.lostLaunches = [] ∧ t.cores = s.cores ∧
     (∀ x, s.dev.lostLaunches = [x] → (queueOf s x.queue).records = [] → ringFull (queueOf s x.queue) = false → (queueOf t x.queue).cqtail = (queueOf s x.queue).cqtail + 1#32)))

/-- R321, R325 to R330 and R370: The mailbox's commands about queues, draining, thermal migration and secure memory. Each that is not
refused has its effect and ends done, a queue reset once all its records have room in the ring, and until then the queue is resetting; each that its row refuses ends refused with the row's reason and changes no memory and no queue. An area that a command reads may lie in this device,
under either of its addresses, in the host, or in a peer, whose bytes are then those that it has brought. The mailbox's commands about firmware. SEAL of a well-formed object writes the 64-byte seal at its place, and refuses any other; FWSTAGE of a signed image that fits keeps its revision;
FWACTIVATE of a staged image with no launch entered and every saved layout read activates it, and then its revision is the device's; and ATTEST of
aligned buffers writes its 256 bytes with the device's id and the nonce. The moments and
reasons that the spec leaves open are the model's choice (log entries 49 to 54). -/
def Obligations.MailboxResult : Prop :=
  (∀ (q : Nat) (s : State), q < 64 → let x := queueOf s q; let a0 := s.mbox.arg0.toNat; let area := localPa s a0;
     (∃ t, Completes (.setweight q) s t ∧ MailDone s t ∧ queueOf t q = { x with weight := a0 % 256 } ∧ SameMemory s t) ∧
     (queueState s q = 0 → ∃ t, Completes (.setsec q) s t ∧ MailDone s t ∧ queueOf t q = { x with secok := s.mbox.arg0.getLsbD 0 } ∧ SameMemory s t) ∧
     (queueState s q ≠ 0 → ∃ t, exec (.setsec q) s = .next t ∧ MailRefused s t 1) ∧
     (mboxRuns s 3 q = true → let d := s.mbox.arg1.toNat;
       (queueState s q = 1 → area % 4096 = 0 → areaThere s area = true → 1 ≤ d → d ≤ 1000000 →
         ∃ t, Completes (.preempt q) s t ∧ MailDone s t ∧ queueOf t q = { x with state := 2, save := area, deadline := s.uncore + 2250 * d } ∧ SameMemory s t) ∧
       (queueState s q ≠ 1 ∨ area % 4096 ≠ 0 ∨ areaThere s area = false ∨ d = 0 ∨ 1000000 < d → ∃ t, exec (.preempt q) s = .next t ∧ MailRefused s t 1)) ∧
     (mboxRuns s 3 q = false → x.state = 2 → saveReady s q = true →
       ∃ t, Completes (.preempt q) s t ∧ (queueOf t q).state = 3 ∧ (queueOf t q).layout = 3 ∧ (queueOf t q).husked = [] ∧ ∀ e ∈ launchesOf s q, ∃ y, tfind t.launches e.1 = some y ∧ y.saved = true) ∧
     (x.state = 2 → x.deadline ≤ s.uncore → saveReady s q = false →
       ∃ t, Completes (.preemptDeadline q) s t ∧ (queueOf t q).state = 0 ∧ (queueOf t q).stuck = true ∧ (queueOf t q).husked = []) ∧
     (mboxRuns s 4 q = true → x.state ≠ 3 → ∃ t, exec (.resumeq q) s = .next t ∧ MailRefused s t 2) ∧
     (mboxRuns s 4 q = true → x.state = 3 → area % 4096 ≠ 0 → ∃ t, exec (.resumeq q) s = .next t ∧ MailRefused s t 1) ∧
     (∀ u, mboxRuns s 4 q = true → x.state = 3 → area % 4096 = 0 → AreaRead s area 64 u →
       (∀ b, physRead u area 64 = some b → s.dev.layouts.contains (pktField b 0 2) = true →
         ∃ t, Completes (.resumeq q) s t ∧ MailDone s t ∧ (queueOf t q).state = 1 ∧ (queueOf t q).restarts = savedRecords area b ∧ t.mem = s.mem ∧
           ∀ e ∈ launchesOf s q, ∃ y, tfind t.launches e.1 = some y ∧ y.saved = false) ∧
       ((∀ b, physRead u area 64 = some b → s.dev.layouts.contains (pktField b 0 2) = false) →
         ∃ t, exec (.resumeq q) s = .next t ∧ t.mbox.state = 3 ∧ t.mbox.reason = 1 ∧ t.mem = s.mem ∧ t.queues = s.queues)) ∧
     (x.records = [] → (x.cqtail - x.cqhead).toNat + (launchesOf s q).length + (x.held.filter fun m => pktKind m.2 == 2).length ≤ 2 ^ x.qsize →
       ∃ t, Completes (.resetq q) s t ∧ MailDone s t ∧ (let y := queueOf t q; y.head = 0#32 ∧ y.resv = 0#32 ∧ y.commitmap = [] ∧ y.held = [] ∧ y.stuck = false ∧ y.state = 0)) ∧
     (x.records = [] → (x.cqtail - x.cqhead).toNat ≤ 2 ^ x.qsize → x.qsize ≤ 16 →
       2 ^ x.qsize < (x.cqtail - x.cqhead).toNat + (launchesOf s q).length + (x.held.filter fun m => pktKind m.2 == 2).length →
       ∃ t, exec (.resetq q) s = .next t ∧ t.mbox = s.mbox ∧ (queueOf t q).state = 4 ∧ (queueOf t q).head = x.head ∧ (queueOf t q).held = []) ∧
     (x.records ≠ [] → ∃ t, exec (.resetq q) s = .next t ∧ t.mbox = s.mbox ∧ (queueOf t q).state = 4 ∧ (queueOf t q).head = x.head ∧ (queueOf t q).held = []) ∧
     (∃ t, Completes .drain s t ∧ MailDone s t ∧ t.dev.drain = a0 % 2 ∧ SameMemory s t) ∧
     (80 ≤ a0 % 256 → a0 % 256 ≤ 110 → ∃ t, Completes .setmigt s t ∧ MailDone s t ∧ t.dev.migThreshold = a0 % 256 ∧ SameMemory s t) ∧
     (a0 % 256 < 80 ∨ 110 < a0 % 256 → ∃ t, exec .setmigt s = .next t ∧ MailRefused s t 1) ∧
     (launchesLive s = 0 → a0 < 8 → badRegion s.mbox.arg1 = false → (secEn s.mbox.arg1 = true → ∀ i, i < 8 → i ≠ a0 → let w := tget s.dev.secreg 0#64 i; secEn w = true →
         secBase s.mbox.arg1 + secSize s.mbox.arg1 ≤ secBase w ∨ secBase w + secSize w ≤ secBase s.mbox.arg1) →
       ∃ t, Completes .secregion s t ∧ MailDone s t ∧ tget t.dev.secreg 0#64 a0 = s.mbox.arg1 ∧ (∀ a, inSecure s a ≠ inSecure t a → memByte t.mem a = 0#8) ∧
         ∀ a, inSecure s a = inSecure t a → memByte t.mem a = memByte s.mem a) ∧
     (launchesLive s ≠ 0 → ∃ t, exec .secregion s = .next t ∧ MailRefused s t 1) ∧
     (launchesLive s = 0 → 8 ≤ a0 ∨ badRegion s.mbox.arg1 = true → ∃ t, exec .secregion s = .next t ∧ MailRefused s t 2) ∧
     (∀ i, launchesLive s = 0 → a0 < 8 → badRegion s.mbox.arg1 = false → secEn s.mbox.arg1 = true → i < 8 → i ≠ a0 → let w := tget s.dev.secreg 0#64 i; secEn w = true →
       secBase s.mbox.arg1 < secBase w + secSize w → secBase w < secBase s.mbox.arg1 + secSize s.mbox.arg1 → ∃ t, exec .secregion s = .next t ∧ MailRefused s t 3)) ∧
  (∀ s : State, let a := localPa s s.mbox.arg0.toNat; let n := s.mbox.arg1.toNat; let out := localPa s n;
     (∀ u, AreaRead s a n u → let rd := fun off len => if n < off + len then none else physRead u (a + off) len;
       (∀ o, sealReason u rd = .inr o → ∃ t b, Completes .seal s t ∧ MailDone s t ∧ t.mem = (writePhys u (a + o.head.sealoff) b).mem ∧ b.length = 64 ∧
         b.drop 32 = toBytes 2 s.dev.fwrev ++ List.replicate 30 0#8) ∧
       (∀ r, sealReason u rd = .inl r → ∃ t, exec .seal s = .next t ∧ t.mbox.state = 3 ∧ t.mbox.reason = r ∧ t.mem = s.mem)) ∧
     (∀ u b, AreaRead s a n u → physRead u a n = some b →
       (badImage s b = none → ∃ t, Completes .fwstage s t ∧ MailDone s t ∧ (t.dev.staged.map (·.1)) = some (pktField b 0 2) ∧ t.mem = s.mem) ∧
       (∀ r, badImage s b = some r → ∃ t, exec .fwstage s = .next t ∧ t.mbox.state = 3 ∧ t.mbox.reason = r ∧ t.mem = s.mem ∧ t.dev.staged = s.dev.staged)) ∧
     (s.dev.staged = none → ∃ t, exec .fwactivate s = .next t ∧ MailRefused s t 1) ∧
     (∀ rev ls, s.dev.staged = some (rev, ls) →
       (s.dev.activating = true → ∃ t, Completes .fwactivate s t ∧ MailDone s t ∧ t.dev.fwrev = rev ∧ t.dev.layouts = ls ∧ t.dev.staged = none ∧ SameMemory s t) ∧
       (s.dev.activating = false → launchesLive s = 0 → ∀ q, layoutMissing s ls = some q → ∃ t, exec .fwactivate s = .next t ∧ t.mbox.state = 3 ∧ t.mbox.reason = 0x100 + q) ∧
       (s.dev.activating = false → launchesLive s ≠ 0 → ∃ t, exec .fwactivate s = .next t ∧ MailRefused s t 2) ∧
       (s.dev.activating = false → launchesLive s = 0 → layoutMissing s ls = none →
         Completes .fwactivate s { s with dev := { s.dev with activating := true }, agenda := s.agenda ++ [.fwactivate] })) ∧
     (∀ u nonce, a % 64 = 0 → out % 64 = 0 → rangeHere out 256 = true → (∀ j, j < 256 → sectorFails s (out + j) = false) → u = fetchArea s a 64 → stalledOn s u = none →
       rangeHere a 64 = true → physRead u a 64 = some nonce →
       ∃ t b, Completes .attest s t ∧ MailDone s t ∧ t.mem = (writePhys u out b).mem ∧ b.length = 256 ∧ (b.drop 64).take 72 = toBytes 8 (devId s) ++ nonce) ∧
     (a % 64 ≠ 0 ∨ out % 64 ≠ 0 ∨ rangeHere out 256 = false → ∃ t, exec .attest s = .next t ∧ MailRefused s t 1))

/-! ### The fabric (R332 to R345, R368) -/

/-- R334, R336, R339 and R340: packets are applied in order and once. One that a peer sent in its turn is applied and its acknowledgement is due; a
duplicate changes nothing outside the fabric interface, and is acknowledged again; one ahead of its turn changes nothing; one stamped with an older
version is discarded, and one with a newer one makes a pending table of that version current and goes on, or is discarded; one for another device goes on by the table; a malformed one is discarded and counted at the port that it came by; an
acknowledgement within the window advances UNA; a standalone one is sent once it has been owed for 1 µs and none has carried it; and a flow that no acknowledgement has moved for
40 µs is sent again from UNA on, and no other. -/
def Obligations.PacketsInOrder : Prop :=
  (∀ (p : Packet) (s : State) (i : Instr) (kind cls : Nat), Receives p i kind cls → Arrives s p kind cls → let d := serialDiff p.seq (flowOf s p.src p.cls).exp;
    (d = 0 → ∃ t, exec i s = .next t ∧ (flowOf t p.src p.cls).exp = p.seq + 1#32 ∧
      (cls = 0 → let f := flowOf s p.src 0; (flowOf t p.src 0).owed = true ∧ (flowOf t p.src 0).owedAt = if f.owed then f.owedAt else s.uncore)) ∧
    (d < 0 → ∃ t a, exec i s = .next t ∧ { t with fab := s.fab } = s ∧ t.fab.out = a :: s.fab.out ∧ a.kind = 7 ∧ a.dst = p.src ∧ a.cls = p.cls ∧ a.av = true ∧
      a.ack = (flowOf s p.src p.cls).exp ∧ ∀ e c, let f := flowOf t e c; f = { flowOf s e c with owed := f.owed }) ∧
    (0 < d → exec i s = .next s)) ∧
  (∀ (p : Packet) (s : State) (i : Instr) (kind cls : Nat), Receives p i kind cls →
    (p.kind = kind → p.cls = cls → badPacket p = false →
      (serialDiff p.ver s.fab.cur < 0 → exec i s = .next s) ∧ (p.ver = s.fab.cur → p.dst ≠ s.dev.num → portTo s p.dst < 48 → exec i s = .next (outPacket s p)) ∧
      (0 < serialDiff p.ver s.fab.cur →
        (∀ l, s.fab.pendTable = some (p.ver, l) → let u := activate s p.ver l; u.fab.cur = p.ver ∧ u.fab.table = l ∧ u.fab.pendTable = none ∧ exec i s = exec i u) ∧
        ((∀ l, s.fab.pendTable ≠ some (p.ver, l)) → exec i s = .next s))) ∧
    (badPacket p = true → p.port < 48 → exec i s = .next (modPort s p.port fun x => { x with errs := x.errs + 1 }))) ∧
  (∀ (p : Packet) (s : State), p.kind = 7 → badPacket p = false → p.ver = s.fab.cur → p.dst = s.dev.num → p.av = true → let f := flowOf s p.src p.cls; f.closed = false → 0 < serialDiff p.ack f.una →
    0 ≤ serialDiff f.next p.ack → ∃ t, Completes (.ack p) s t ∧ (flowOf t p.src p.cls).una = p.ack ∧ { t with fab := s.fab } = s) ∧
  (∀ (peer cls : Nat) (s : State), cls < 2 → let f := flowOf s peer cls; f.closed = false →
    (f.owed = false ∨ s.uncore < f.owedAt + 2250 → exec (.standaloneAck peer cls) s = .next s) ∧
    (f.owed = true → f.owedAt + 2250 ≤ s.uncore → ∃ t p, Completes (.standaloneAck peer cls) s t ∧ t.fab.out = p :: s.fab.out ∧ p.kind = 7 ∧ p.dst = peer ∧ p.cls = cls ∧
      p.av = true ∧ p.ack = f.exp ∧ (flowOf t peer cls).owed = false ∧ { t with fab := s.fab } = s) ∧
    (replayDue s f = false → exec (.replayTimeout peer cls) s = .next s) ∧
    (∀ g, s.fab.granary = [g] → g.packet.dst = peer → g.packet.cls = cls → unacked s g = true → f.una ≠ f.next → f.since + 90000 ≤ s.uncore →
      ∃ t, Completes (.replayTimeout peer cls) s t ∧ t.fab.replays = s.fab.replays + 1 ∧ t.fab.granary = s.fab.granary ∧ t.fab.out = { g.packet with av := true, ver := s.fab.cur, ack := f.exp } :: s.fab.out ∧
        { t with fab := s.fab } = s))

/-- R141, R215, R334 and R368: what each packet does in its turn. READ, WRITE and ATOMIC of this device's memory join the outside accesses with the
requester's number; MSG is handed to its target's inbox and its verdict answered; STEPRD becomes a request at the producer's quad; and RESP
completes the request of its number: a load's bytes answer its write-back, and an error brings its cause. The marks in
a MSG of hardware, and the packet's mark of a WRITE and an ATOMIC, are the model's choice (log entry 12). -/
def Obligations.PacketEffects : Prop :=
  ∀ (p : Packet) (s : State), p.seq = (flowOf s p.src p.cls).exp → let u := passedOne s p; let b := p.payload; let a := pktField b 0 8;
    (Arrives s p 1 0 → let n := pktField b 8 2; 0 < n → peerRefused s a = none → peerRefused s (a + n - 1) = none →
      Completes (.read p) s (emitOutside u (.read a n) (some (p.src, p.seq)))) ∧
    (Arrives s p 2 0 → ∀ x y, (writeBytes b).head? = some x → (writeBytes b).reverse.head? = some y → peerRefused s x.addr = none → peerRefused s y.addr = none → x.addr ≤ y.addr →
      Completes (.write p) s (emitOutside u (.store (writeBytes b) p.mark) (some (p.src, p.seq)))) ∧
    (Arrives s p 3 0 → let q := atomicOf b p.mark; peerRefused s q.addr = none → peerRefused s (q.addr + q.bytes - 1) = none →
      Completes (.atomic p) s (emitOutside u (.atomic q) (some (p.src, p.seq)))) ∧
    (Arrives s p 1 0 → peerRefused s a = some 0x09 → Completes (.read p) s (reply u p.src p.seq 2 0x09 [])) ∧
    (Arrives s p 4 0 → let m := messageOf b; m.launch ≠ some hardwareLaunch → agentValid s m.target = true → agentHere s m.target = true →
      Completes (.msg p) s (let r := deliver u m; reply r.1 p.src p.seq r.2.1 r.2.2 [])) ∧
    (Arrives s p 4 0 → let m := messageOf b; m.launch = some hardwareLaunch → m.words.headD 0#64 = 1#64 →
      Completes (.msg p) s { u with agenda := u.agenda ++ [.eventArrival m.target] }) ∧
    (Arrives s p 4 0 → let m := messageOf b; m.launch = some hardwareLaunch → m.words.headD 0#64 = 4#64 →
      Completes (.msg p) s (markLost u fun n => sameUnit u n m.sender)) ∧
    (Arrives s p 5 0 → let g : Agent := BitVec.ofNat 32 (pktField b 0 4); agentValid s g = true → agentHere s g = true → agentUnit g < 64 →
      ∃ r, Completes (.steprd p) s { u with agenda := u.agenda ++ [.getsArrival r] } ∧ r.from' = some (p.src, p.seq) ∧ r.producer = g ∧ r.step = BitVec.ofNat 32 (pktField b 4 4) ∧
        r.off = BitVec.ofNat 12 (pktField b 8 2)) ∧
    (Arrives s p 6 1 → ∀ g k i uid ser n acq va, s.fab.granary = [g] → g.packet.dst = p.src → g.packet.cls = 0 → g.packet.seq = BitVec.ofNat 32 (pktField b 0 4) → g.answered = false →
      g.pending = .load k i uid ser n acq va →
      ∃ t, Completes (.resp p) s t ∧ ((pktByte b 4 = 0 → t.cores = (answerWb s k ser (8 * n) (ofBytes ((b.drop 16).take (pktField b 8 2))) none false).cores) ∧
        (pktByte b 4 ≠ 0 → isStreamer k = false → t.cores = (answerWb s k ser (8 * n) 0 (some (pktByte b 5, va)) false).cores)))

/-- R332 to R336, R340 to R343: Links and ports. A good flit in order is acknowledged and joins its packet, which goes to the step of
its kind once all of it is there; a bad one is asked for again, one without data being no resend that failed, and a resend that fails is counted and asked for again, until the sixteenth in a row
takes the port down; flits sent before the request count for nothing; an acknowledgement frees the flits before it, and a request has those not
acknowledged sent again in order; a dead link goes down; a port whose lanes fail goes on degraded on the lowest two good
lanes, or goes down; and a port that trains on four lanes is up. The manager is told of a port down and of a port up. Routing. Told of a change,
every device keeps it; the manager, the lowest device that can be reached, computes the next version and installs it, and another floods the news to
it, and what it knows to devices that a port of its own brings back; a notice of a newer version is stored as pending and acknowledged, and an older one ignored; when
every reachable device has acknowledged the version last issued, it becomes current, as it does at an activate notice; an unreachable device's
requests leave the granary; and a domain that forms has its numbers, empty flows and shortest routes, so a device that a cable joins to this one is
reached by such a cable, and every port of a cable trains. The
count of versions, the record of what left, the packets of the notices and what a link counts and sends with a resend, when a port
begins to train, and what is told at a rejoin are the model's choice (log entries 61, 62, 12, 90, 116 and 117). -/
def Obligations.LinkAndRoutingResult : Prop :=
  (∀ (n : Nat) (s : State), n < 48 → let x : Port := tget s.fab.ports {} n; let down := .fabricManagerTold s.dev.num n false;
     (portUp s n = true →
       (∀ e : Flit, flitGood e = true → let x1 : Port := if e.resend then (x.takeAck e.ack).resend else x.takeAck e.ack;
         (e.data ≠ [] → e.lsn = x.lsnExp → let l := x.inBuf ++ [e]; let c := flitsField ((l.map (·.data)).headD []); let p := packetOfFlits n l;
           ∃ t y, Completes (.flit n e.data e.crc e.toSidecar) s t ∧ tfind t.fab.ports n = some y ∧ y.lsnExp = x.lsnExp + 1#12 ∧ y.resends = 0 ∧ y.asked = none ∧ y.state = x.state ∧
             (l.length ≠ c + 1 → c ≤ 9 → y = x1.accept e ∧ { t with fab := s.fab } = s) ∧
             (l.length = c + 1 → badPacket p = false → ∀ r ∈ [(1, Instr.read p), (2, .write p), (3, .atomic p), (4, .msg p), (5, .steprd p), (6, .resp p), (7, .ack p)],
               p.kind = r.1 → y = { x1.accept e with inBuf := [] } ∧ t.agenda = s.agenda ++ [r.2] ∧ { t with fab := s.fab, agenda := s.agenda } = s)) ∧
         (e.data ≠ [] → e.lsn ≠ x.lsnExp → ∃ t, Completes (.flit n e.data e.crc e.toSidecar) s t ∧ { t with fab := s.fab } = s ∧
           tfind t.fab.ports n = some (if (e.lsn - x.lsnExp).toInt < 0 then x1.ackFlit else x1.askLate s.uncore)) ∧
         (e.data = [] → ∃ t, Completes (.flit n e.data e.crc e.toSidecar) s t ∧ { t with fab := s.fab } = s ∧
           tfind t.fab.ports n = some (if e.lsn = x.lsnExp then { x1 with asked := none, resends := 0 } else x1))) ∧
       (∀ e : Flit, flitGood e = false → e.data = [] → ∃ t, exec (.flit n e.data e.crc e.toSidecar) s = .next t ∧ { t with fab := s.fab } = s ∧ tfind t.fab.ports n = some (x.ask s.uncore)) ∧
       (∀ e : Flit, flitGood e = false → e.data ≠ [] →
         (x.asked = none → ∃ t, exec (.flit n e.data e.crc e.toSidecar) s = .next t ∧ { t with fab := s.fab } = s ∧
           tfind t.fab.ports n = some ({ x with resends := 0, asked := some s.uncore, llr := x.llr + 1 } : Port).askResend) ∧
         (x.asked.isSome = true → e.lsn ≠ x.lsnExp → ∃ t, exec (.flit n e.data e.crc e.toSidecar) s = .next t ∧ { t with fab := s.fab } = s ∧
           tfind t.fab.ports n = some (x.askLate s.uncore)) ∧
         (x.asked.isSome = true → e.lsn = x.lsnExp → x.resends < 15 → ∃ t, exec (.flit n e.data e.crc e.toSidecar) s = .next t ∧ { t with fab := s.fab } = s ∧
           tfind t.fab.ports n = some ({ x with resends := x.resends + 1, asked := some s.uncore, llr := x.llr + 1 } : Port).askResend) ∧
         (x.asked.isSome = true → e.lsn = x.lsnExp → 15 ≤ x.resends →
           ∃ t y, exec (.flit n e.data e.crc e.toSidecar) s = .next t ∧ tfind t.fab.ports n = some y ∧ y.state = 4 ∧ down ∈ t.agenda)) ∧
       (∃ t y, Completes (.linkDead n) s t ∧ tfind t.fab.ports n = some y ∧ y.state = 4 ∧ y.lanes = 0#4 ∧ down ∈ t.agenda ∧ t.cores = s.cores) ∧
       (∀ good : BitVec 4, let l := (List.range 4).filter fun i => good.getLsbD i;
         ∃ t y, Completes (.laneFailure n good) s t ∧ tfind t.fab.ports n = some y ∧ (l.length = 4 → y.state = 2 ∧ y.lanes = 15#4) ∧
           (2 ≤ l.length → l.length < 4 → y.state = 3 ∧ ∀ j, y.lanes.getLsbD j = true ↔ j ∈ l.take 2) ∧ (l.length < 2 → y.state = 4 ∧ y.lanes = 0#4 ∧ down ∈ t.agenda))) ∧
     (∀ d m, ∃ t, Completes (.portUp n d m 15#4) s t ∧ tfind t.fab.ports n = some { x with state := 2, lanes := 15#4, peerDev := d, peerPort := m, lsnNext := 0#12, lsnUna := 0#12, lsnExp := 0#12, replayBuf := [], queue := [], inBuf := [], resends := 0, asked := none } ∧
       .fabricManagerTold s.dev.num n true ∈ t.agenda)) ∧
  ((∀ (d n : Nat) (up : Bool) (s : State), let news := downAfter s.fab.down d n up; let u := learn s d n up;
     (news = s.fab.down → exec (.fabricManagerTold d n up) s = .next s) ∧
     (news ≠ s.fab.down → ∃ t, Completes (.fabricManagerTold d n up) s t ∧ t.fab.down = news ∧ t.cores = s.cores ∧ SameMemory s t ∧
       (managerOf u = s.dev.num → goodLinks u.fab ≠ goodLinks s.fab → t.fab.issued = nextVersion s ∧ ∃ l, .installNotice (nextVersion s) l ∈ t.agenda) ∧
       (managerOf u ≠ s.dev.num → { t with fab := s.fab } = s ∧
         ∃ p l, t.fab.out = l ++ p :: s.fab.out ∧ p.kind = 8 ∧ p.cls = 2 ∧ p.dst = managerOf u ∧ p.payload = toBytes 2 3 ++ toBytes 4 s.fab.notices ++
           (toBytes 2 d ++ toBytes 1 n ++ toBytes 1 (if up then 1 else 0)) ∧
           (if d = s.dev.num ∧ ∃ e ∈ reached u, e ∉ reached s then ∃ y ∈ l, y.kind = 8 ∧ y.cls = 2 ∧ y.dst = managerOf u ∧ y.payload.take 2 = toBytes 2 6 else l = [])))) ∧
   (∀ (v : BitVec 16) (l : List (Nat × Nat)) (s : State),
     (s.fab.pendTable = none → 0 < serialDiff v s.fab.cur → ∃ t, Completes (.installNotice v l) s t ∧ t.fab.pendTable = some (v, l) ∧ t.fab.table = s.fab.table ∧ t.fab.cur = s.fab.cur ∧ t.cores = s.cores) ∧
     (serialDiff v s.fab.cur ≤ 0 → exec (.installNotice v l) s = .next s) ∧
     (s.fab.pendTable = some (v, l) → ∃ t, Completes (.activateNotice v) s t ∧ t.fab.cur = v ∧ t.fab.table = l ∧ t.fab.pendTable = none) ∧
     (managerOf s = s.dev.num → s.fab.issued = v → s.fab.pendTable = some (v, l) → ∀ d0, let all := s.dev.num :: reached s;
       ((∀ d ∈ all, d = d0 ∨ (d, v) ∈ s.fab.acks) → ∃ t, Completes (.installAck d0 v) s t ∧ t.fab.cur = v ∧ t.fab.table = l) ∧
       (∀ d ∈ all, d ≠ d0 → (d, v) ∉ s.fab.acks → ∃ t, Completes (.installAck d0 v) s t ∧ t.fab.cur = s.fab.cur ∧ t.fab.table = s.fab.table ∧ (d0, v) ∈ t.fab.acks))) ∧
   (∀ (d : Nat) (s : State), d ≠ s.dev.num → unreachable s d = false →
     ∃ t, Completes (.unreachableNotice d) s t ∧ unreachable t d = true ∧ (∀ g ∈ t.fab.granary, g.packet.dst ≠ d) ∧ ∀ c, c < 2 → (flowOf t d c).closed = true) ∧
   (∀ (self size : Nat) (links : List (Nat × Nat × Nat × Nat)) (s : State), 0 < size → size ≤ 1024 → self < size →
     ∃ t, Completes (.domainFormation self size links) s t ∧ t.dev.num = self ∧ t.dev.size = size ∧ t.fab.flows = [] ∧ t.fab.granary = [] ∧ t.cores = s.cores ∧
       ∀ d p m, d < size → d ≠ self → p < 48 → (self, p, d, m) ∈ links → (d, m, self, p) ∈ links →
         (∃ e ∈ links, e.1 = self ∧ e.2.2.1 = d ∧ e.2.1 = portTo t d) ∧ ∃ y, tfind t.fab.ports p = some y ∧ y.state = 1 ∧ y.lanes = 0#4))

/-! ### Gathers, retries and lanes (R94, R95, R163, R174, R175, R181, R182, R356) -/

/-- R94 and R95: ALIGN with a timeout of 0, or outside a work slot of a core, goes on; the first strand of its launch there opens a gather entry and
waits; the last to come releases every member; with all sixteen entries taken it goes on. A gather whose deadline has come, or that a strand's leaving has made full, is released, and a strand that
comes then opens one anew. R163: a
full/empty request told to retry, whose word now allows it, is performed when it is sent again. R174, R356: the next attempt of a transfer on a
channel with no lane armed passes, the value answers its write-back, or the block waits for the step that reads it, and the lane that failed is charged with each failed attempt; R175, R182: a lane to swap takes the lowest spare in the channel's map. How a lane is
named and charged follows the model's reading (log entries 23 and 24); that an ALIGN of a streamer goes on (log entry 78), and that a block waits for the
step that reads it (log entry 83), are the model's choice. -/
def Obligations.GathersAndRetries : Prop :=
  (∀ (tag : BitVec 8) (n : BitVec 16) (s : State), let c := clusterOfKey s.cur.core; let x := curSlot s; let gs := (clusterOf s c).gathers;
    (n = 0#16 ∨ 14 ≤ s.cur.slot ∨ isCore s.cur.core = false → Completes (.align tag n) s (goes s s)) ∧
    (n ≠ 0#16 → s.cur.slot < 14 → isCore s.cur.core = true → (∀ g ∈ gs, s.uncore < g.deadline ∧ ¬(g.launch = x.launch ∧ g.tag = tag ∧ g.pc = s.cur.pc)) →
      let g : Gather := { launch := x.launch, tag := tag, pc := s.cur.pc, deadline := s.uncore + n.toNat, members := [(s.cur.core, s.cur.slot)] };
      (16 ≤ gs.length → Completes (.align tag n) s (goes s s)) ∧ (gs.length < 16 → gatherFull s c g = true → Completes (.align tag n) s (goes s s)) ∧
      (gs.length < 16 → gatherFull s c g = false → ∃ t, Completes (.align tag n) s t ∧ (clusterOf t c).gathers = gs ++ [g] ∧ (curSlot t).status = .parked .align ∧ SameMemory s t)) ∧
    (∀ g, n ≠ 0#16 → s.cur.slot < 14 → isCore s.cur.core = true → gs = [g] → g.launch = x.launch → g.tag = tag → g.pc = s.cur.pc →
      (g.deadline ≤ s.uncore → let e : Gather := { launch := x.launch, tag := tag, pc := s.cur.pc, deadline := s.uncore + n.toNat, members := [(s.cur.core, s.cur.slot)] };
        gatherFull (releaseDue s c) c e = false → ∃ t, Completes (.align tag n) s t ∧ (clusterOf t c).gathers = [e] ∧ (curSlot t).status = .parked .align) ∧
      (s.uncore < g.deadline →
      gatherFull s c { g with members := g.members ++ [(s.cur.core, s.cur.slot)] } = true →
      ∃ t, Completes (.align tag n) s t ∧ (clusterOf t c).gathers = [] ∧ (curSlot t).pc = nextOf s.cur.pc s.cur.h ∧
        ∀ m ∈ g.members, m ≠ (s.cur.core, s.cur.slot) → (slotOf s m.1 m.2).status = .parked .align →
          (slotOf t m.1 m.2).status = if (coreOf s m.1).halted then .stopped .halted else .ready))) ∧
  (∀ (c j : Nat) (s : State) (g : Gather), (clusterOf s c).gathers[j]? = some g → g.deadline ≤ s.uncore ∨ gatherFull s c g = true →
    ∃ t, Completes (.alignDeadline c j) s t ∧ (clusterOf t c).gathers = dropAt (clusterOf s c).gathers j ∧
      ∀ m ∈ g.members, (slotOf s m.1 m.2).status = .parked .align →
        ((slotOf t m.1 m.2).status = if (coreOf s m.1).halted then .stopped .halted else .ready) ∧ (slotOf t m.1 m.2).pc = (slotOf s m.1 m.2).nextPc) ∧
  (∀ (q : Nat) (x : Quad) (w : FeWait) (s : State), s.quads = [(q, x)] → x.feRetry = [w] → x.feWaits = [] → w.due ≤ s.uncore → let u := modQuad s q fun y => { y with feRetry := [] };
    feReady u w.op w.addr = true → Completes (.feopRetry w.core w.slot) s (feChanged u (feServe u w) w.addr)) ∧
  (∀ (c : Nat) (b : Beat) (s : State), (clusterOf s c).beats = [b] → (clusterOf s c).inject = 0#64 →
    (b.swapAt = none → b.due ≤ s.uncore → b.poison = false →
      ∃ t, Completes (.vbusRetryAttempt c b.chan) s t ∧ (clusterOf t c).beats = [] ∧
        (b.wb ≠ 0 → isStreamer b.core = false → t.cores = (answerWb s b.core b.wb b.bits b.val none false).cores) ∧
        (b.wb = 0 → t.cores = s.cores ∧ (clusterOf t c).brought = (clusterOf s c).brought ++ [(b.block, false)]) ∧
        (b.lane = none → b.times ≠ [] → b.times.length < 3 → (clusterOf s c).charges = [] → (clusterOf t c).charges = b.times.map fun u => (b.chan, b.bad, u))) ∧
    (∀ l, b.swapAt = some s.uncore → b.lane = some l → l < 512 → tget (clusterOf s c).laneMap 0#64 b.chan = 0#64 →
      ∃ t, Completes (.laneSwap c b.chan l) s t ∧ tget (clusterOf t c).laneMap 0#64 b.chan = BitVec.ofNat 64 (2 ^ 15 + l) ∧ (clusterOf t c).beats = [{ b with swapAt := none, due := s.uncore + 2 }] ∧
        t.mem = s.mem))

/-! ### The whole machine -/

/-- R23 and R29 to R36: decoding and encoding agree. For every well-formed instruction that has an encoding, with every operand at every value that
the encoding admits, the parcels that encode it decode to it; and whatever parcels decode are the encoding of the instruction that they decode to,
which is well formed: no bit of an encoding is dropped, and no two encodings stand for one instruction. -/
def Obligations.EncodeDecodeRoundTrip : Prop :=
  (∀ i : Instr, i.wf = true → i.fields.isSome = true → decode (encode i) = some i) ∧
  (∀ (ps : List Parcel) (i : Instr), decode ps = some i → encode i = ps ∧ i.wf = true)

/-- R23, R29 and R32 to R34: words written out from the encoding tables decode to their instructions: the head's tail size in bits 15 and 14, its
major in bits 13 to 8 and field A below, then the tail parcels. -/
def Obligations.DecodeSampleWords : Prop :=
  decode [0b0000000000000001#16] = some .yield ∧
  decode [0b0100101000000001#16, 0b0000001000000011#16] = some (.add 1#8 2#8 3#8) ∧
  decode [0b1001001100000001#16, 0b0000001000000000#16, 0b1111111111111110#16] = some (.addi 1#8 2#8 0xFFFE#16) ∧
  decode [0b1101010100000101#16, 0x4444#16, 0x3333#16, 0x2222#16, 0x1111#16] = some (.movi 5#8 0x1111222233334444#64) ∧
  decode [0b0100000100000000#16, 0b1111111111100010#16] = some (.j ⟨0x7FF#11, 2#5⟩) ∧
  decode [0b1010000000000111#16, 0b1111101100000001#16, 0b1100000000001000#16] = some (.ldq 7#8 251#8 1#8 3#2 8#14) ∧
  decode [0b1011010000000001#16, 0b0100001000000011#16, 0b0000000000000000#16] = some (.vadd ⟨0#1, 1#6⟩ ⟨1#1, 2#6⟩ ⟨0#1, 3#6⟩) ∧
  decode [0b0111110000000010#16, 0b0000000000000101#16] = some (.sysrd 2#8 5#16) ∧
  decode [0b0100101000000001#16] = none ∧ decode [0b1101011100000000#16, 0#16, 0#16, 0#16, 0#16] = none

/-- Log entries 3 and 4 (the model's own convention about turns, resting on R26 and R102): when the next turn is a core's issue, and that core, in this
uncore cycle if it has yet to have its issue and else in the next, may issue, its rotation picks a slot, and that slot's PC names a head of a valid
line that it holds, step is exec of the instruction that the head decodes to, in the state whose issue latch holds the core, the slot, the PC and the
line's H. A cycle ends only when no issue of it and no line fill is owed. An undecodable head
runs as an illegal encoding. And a step of its own that stands next, or in the agenda's turn, runs as itself, within the cycle. Nothing of this cycle's own must stand first:
no channel retry, no pause that ends, no gather to release, no arbiter boundary, no bounded COPY that lags (log entry 81); what belongs to a cycle that an
issue begins comes before that issue. -/
def Obligations.StepRunsDecodedInstruction : Prop :=
  (∀ (s u : State) (k i : Nat) (b : LineBuf) (r : List Turn), dueNow s = none → haste s = none → s.turns = .issue k :: r →
    (owesIssue s k = true ∧ u = { s with turns := r } ∨ owesIssue s k = false ∧ owed s = none ∧ dueNow (tick s) = none ∧ u = { s with turns := r, uncore := s.uncore + 1, haste := 0 }) →
    let t := cycOf u k;
    mayIssue (coreOf u k) (isStreamer k) t = true → pickSlot u k t = some i → lineFor u k i (slotOf u k i).pc = some b → (slotOf u k i).lateFit = none →
    let pc := (slotOf u k i).pc; let hd := lineHead b.parcels (pc.toNat % 64 / 2); let ins := (decodeHead hd.1 hd.2).getD .illegalEncoding;
    (∀ h, validLine b.parcels = some h → pc.toNat % 2 = 0 → 1 ≤ pc.toNat % 64 / 2 → pc.toNat % 64 / 2 ≤ h →
      ∃ v, step s = exec ins v ∧ v.cur = { core := k, slot := i, pc := pc, h := h } ∧ (∀ a, memByte v.mem a = memByte s.mem a) ∧ v = latch u k i ins ∧
        (entersLine (slotOf u k i) = false → SameMemory s v ∧
          ∃ n, slotOf v k i = { slotOf s k i with lastIssue := some t, lastYield := ins == .yield, atLine := some (lineBase pc), burst := n }))) ∧
  (∀ (s : State) (k : Nat) (i : Instr) (r : List Turn), dueNow s = none → haste s = none → s.turns = .issue k :: r → owesIssue s k = false → owed s = none → dueNow (tick s) = some i →
    step s = exec i { s with uncore := s.uncore + 1, haste := 0 }) ∧
  (∀ (s : State) (i : Instr) (r : List Turn), dueNow s = none → haste s = none → s.turns = .act i :: r → standsAlone i = true →
    step s = exec i { s with turns := r }) ∧
  (∀ (s : State) (i : Instr) (r : List Turn) (a : List Instr), dueNow s = none → haste s = none → s.turns = .agenda 0 :: r → s.agenda = i :: a →
    step s = exec i { s with turns := r, agenda := a })

/-- R5 and R102: the rotation. The slot picked in an issue cycle is the first eligible one after the slot that issued last, in the cyclic order 0 to
15; an eligible slot's strand is READY and, but for a streamer's bursts (R222), its interval is over; and when no slot is eligible none is picked. -/
def Obligations.RotationPicks : Prop :=
  ∀ (s : State) (k t : Nat), let last := (coreOf s k).last;
    (∀ i, pickSlot s k t = some i → i < 16 ∧ eligible s k i t = true ∧ (slotOf s k i).status = .ready ∧ (isStreamer k = false → intervalOver (slotOf s k i) t = true) ∧
      ∀ j, j < 16 → eligible s k j t = true → (i + 15 - last % 16) % 16 ≤ (j + 15 - last % 16) % 16) ∧
    (pickSlot s k t = none → ∀ i, i < 16 → eligible s k i t = false)

/-- R18, R20, R157, R293, R309, R325 and R332: what reset leaves: no strand in any slot, no core sealed, every quad store
zero, its words empty and without poison, no queue enabled and QSIZE 6, every ticket counter 0, no launch, the mailbox idle, the two counters of the
fabric's flows 0. Memory elsewhere reads zero (log entry 1), and the device is the only one of its domain (log entry 2), by the model's choice. -/
def Obligations.ResetValues : Prop :=
  let s := State.reset;
  Canonical s ∧ (∀ a, memByte s.mem a = 0#8) ∧ (∀ a, s.full.contains a = false ∧ s.poison.contains a = false) ∧
  (∀ k i, (slotOf s k i).status = .free ∧ (slotOf s k i).names = [] ∧ (slotOf s k i).active = false ∧ (coreOf s k).sealed = false ∧ (coreOf s k).pauseTo = none) ∧
  (∀ q, (queueOf s q).enable = false ∧ (queueOf s q).qsize = 6 ∧ (queueOf s q).weight = 16 ∧ (queueOf s q).resv = 0#32 ∧ (queueOf s q).head = 0#32 ∧ (queueOf s q).cqtail = 0#32 ∧ (queueOf s q).records = []) ∧
  s.launches = [] ∧ s.mbox.state = 0 ∧ (∀ d c, (flowOf s d c).next = 0#32 ∧ (flowOf s d c).exp = 0#32 ∧ (flowOf s d c).una = 0#32) ∧ s.dev.num = 0 ∧ s.dev.size = 1 ∧ s.dev.fatal = false ∧
  (∀ c l, (logicalOf s c l).paced = false ∧ (logicalOf s c l).s = 0#32 ∧ (logicalOf s c l).xfers = [] ∧ physOf s c l = l)

/-- The invariant of every step: a step from a state whose memory is in canonical form, which no step ever leaves, answers a next state, never a fault
or a refusal, and the memory of that state is in canonical form. -/
def Obligations.StepSafe : Prop := ∀ s : State, Canonical s → SafeStep s

end
end

