-- ==== Sys2Proof/Laws/Arrays.lean ====
section
/-! SUPPORT. What the transfers of a read can do (R174, R356): they change the clusters' channels and the mark of a step held up, and nothing
else; and what a step that is held up leaves. -/

namespace Sys2Proof.Machine

/-- Only the clusters and the mark of a held step differ. -/
def ChannelSide (s t : State) : Prop := t = { s with clusters := t.clusters, stall := t.stall }

theorem ChannelSide.refl (s : State) : ChannelSide s s := rfl

theorem ChannelSide.trans {s t u : State} (h : ChannelSide s t) (g : ChannelSide t u) : ChannelSide s u := by
  unfold ChannelSide at *; rw [g, h]

theorem channelSide_modCluster (s : State) (c : Nat) (f : Cluster → Cluster) : ChannelSide s (modCluster s c f) := rfl

theorem channelSide_swapLane (s : State) (now c chan lane : Nat) : ChannelSide s (swapLane s now c chan lane) := by
  unfold swapLane; split <;> rfl

theorem channelSide_nameLane (s : State) (c : Nat) (b : Beat) : ChannelSide s (nameLane s c b).1 := by
  unfold nameLane; repeat' split
  all_goals rfl

theorem channelSide_charge {s u : State} (h : ChannelSide s u) (c chan lane : Nat) (l : List Nat) : ChannelSide s (charge u c chan lane l) :=
  h.trans (channelSide_modCluster ..)

theorem channelSide_logVbus {s u : State} (h : ChannelSide s u) (now c chan event lane a spare : Nat) :
    ChannelSide s (logVbus u now c chan event lane a spare) := h.trans (channelSide_modCluster ..)

theorem channelSide_attempt (s : State) (now c : Nat) (b : Beat) : ChannelSide s (attempt s now c b).1 := by
  have fired : ChannelSide s (if (armedLane (clusterOf s c) b.chan).isSome then modCluster s c injFired else s) := by split <;> rfl
  unfold attempt
  dsimp only
  have h := fired.trans (channelSide_nameLane _ c b)
  generalize nameLane _ c b = x at h
  obtain ⟨u, name⟩ := x
  dsimp only at h ⊢
  cases name with
  | none =>
    cases armedLane (clusterOf s c) b.chan with
    | none => exact h
    | some lane => dsimp only; repeat' split
                   all_goals exact channelSide_logVbus h ..
  | some l =>
    cases armedLane (clusterOf s c) b.chan with
    | none => dsimp only; repeat' split
              all_goals first | exact (channelSide_charge h ..).trans (channelSide_swapLane ..) | exact channelSide_charge h ..
    | some lane => dsimp only; repeat' split
                   all_goals exact channelSide_logVbus (channelSide_charge h ..) ..

theorem channelSide_driveBeat (s : State) (p : Nat) : ChannelSide s (driveBeat s p).2 := by
  unfold driveBeat
  simp only
  split
  · rfl
  · split
    · rfl
    · split
      · rename_i h
        have := channelSide_attempt s s.uncore (sramCluster p) { chan := sramChannel p, core := 0, wb := 0, bits := 0, val := 0, poison := false, va := 0#64, block := p }
        rw [h] at this
        exact this.trans rfl
      · rename_i h
        have := channelSide_attempt s s.uncore (sramCluster p) { chan := sramChannel p, core := 0, wb := 0, bits := 0, val := 0, poison := false, va := 0#64, block := p }
        rw [h] at this
        exact this

/-- The beats of a read change nothing but the channels and the mark of a held step. -/
theorem channelSide_transfers (s : State) (a n : Nat) : ChannelSide s (transfers s a n).2 := by
  unfold transfers
  split
  · generalize (List.range ((a % 32 + n + 31) / 32)).map _ = l
    suffices h : ∀ x : Bool × State, ChannelSide s x.2 → ChannelSide s (l.foldl _ x).2 from h (false, s) rfl
    induction l with
    | nil => exact fun _ h => h
    | cons p l ih =>
      intro x h
      refine ih _ ?_
      dsimp only
      split
      · exact h
      · exact h.trans (channelSide_driveBeat ..)
  · rfl

/-- A step held up leaves everything but the clusters as it was. -/
theorem heldBack_eq (s t : State) : heldBack s t = { s with clusters := (heldBack s t).clusters } := rfl

@[simp] theorem stalledOn_self (s : State) : stalledOn s s = none := by
  unfold stalledOn; split <;> simp_all

@[simp] theorem unlessHeld_self (s : State) : unlessHeld s s = s := by simp [unlessHeld]

theorem unlessHeld_of_none {s t : State} (h : stalledOn s t = none) : unlessHeld s t = t := by simp [unlessHeld, h]

end Sys2Proof.Machine
end

