-- ==== Sys2Proof/Laws/Tab.lean ====
section
/-! SUPPORT. Laws of the sparse tables, of memory as bytes, and of its canonical form. -/

namespace Sys2Proof.Machine

/-! ### Tables -/

@[simp] theorem tfind_nil {α : Type} (k : Nat) : tfind ([] : Tab α) k = none := rfl

@[simp] theorem tfind_tput_same {α : Type} (t : Tab α) (k : Nat) (v : α) : tfind (tput t k v) k = some v := by
  induction t with
  | nil => simp [tput, tfind]
  | cons e r ih =>
    obtain ⟨j, u⟩ := e
    by_cases h : j < k
    · simp [tput, h, tfind, Nat.ne_of_lt h, ih]
    · by_cases h2 : j = k <;> simp [tput, h, h2, tfind]

theorem tfind_tput_ne {α : Type} (t : Tab α) {k j : Nat} (v : α) (h : j ≠ k) : tfind (tput t k v) j = tfind t j := by
  induction t with
  | nil => simp [tput, tfind, Ne.symm h]
  | cons e r ih =>
    obtain ⟨i, u⟩ := e
    by_cases h1 : i < k
    · simp [tput, h1, tfind, ih]
    · by_cases h2 : i = k
      · subst h2; simp [tput, tfind, Ne.symm h]
      · simp [tput, h1, h2, tfind, Ne.symm h]

@[simp] theorem tget_tput_same {α : Type} (t : Tab α) (d : α) (k : Nat) (v : α) : tget (tput t k v) d k = v := by
  simp [tget]

theorem tget_tput_ne {α : Type} (t : Tab α) (d : α) {k j : Nat} (v : α) (h : j ≠ k) :
    tget (tput t k v) d j = tget t d j := by
  simp [tget, tfind_tput_ne t v h]

@[simp] theorem tput_tput_same {α : Type} (t : Tab α) (k : Nat) (u v : α) : tput (tput t k u) k v = tput t k v := by
  induction t with
  | nil => simp [tput]
  | cons e r ih =>
    obtain ⟨j, w⟩ := e
    by_cases h : j < k
    · simp [tput, h, ih]
    · by_cases h2 : j = k <;> simp [tput, h, h2]

/-! ### Memory -/

/-- Every address listed is above a bound. -/
def Memory.above (m : List Host.Cell) (a : Nat) : Prop := ∀ e ∈ m, a < e.1

theorem Memory.wf_cons_iff (j : Nat) (v : Byte) (r : List Host.Cell) :
    Memory.wf ((j, v) :: r) = true ↔ v ≠ 0#8 ∧ Memory.above r j ∧ Memory.wf r = true := by
  induction r generalizing j v with
  | nil => simp [Memory.wf, Memory.above]
  | cons e r ih =>
    obtain ⟨k, u⟩ := e
    have hk := ih k u
    simp only [Memory.wf, Bool.and_eq_true, bne_iff_ne, ne_eq, decide_eq_true_eq] at hk ⊢
    constructor
    · rintro ⟨⟨hv, hjk⟩, hw⟩
      refine ⟨hv, ?_, hw⟩
      intro e he
      rcases List.mem_cons.1 he with rfl | he
      · exact hjk
      · exact Nat.lt_trans hjk ((hk.1 hw).2.1 e he)
    · rintro ⟨hv, ha, hw⟩
      exact ⟨⟨hv, ha (k, u) (by simp)⟩, hw⟩

theorem memByte_of_above {m : List Host.Cell} {a : Nat} (h : Memory.above m a) : memByte m a = 0#8 := by
  induction m with
  | nil => rfl
  | cons e r ih =>
    obtain ⟨j, v⟩ := e
    have hj : a < j := h (j, v) (by simp)
    simp [memByte, (Nat.ne_of_lt hj).symm, ih fun e he => h e (by simp [he])]

theorem Memory.above_memPut {m : List Host.Cell} {b a : Nat} {v : Byte} (h : Memory.above m b) (hb : b < a) :
    Memory.above (memPut m a v) b := by
  induction m with
  | nil =>
    intro e he
    unfold memPut at he
    split at he
    · simp at he
    · simp at he; subst he; exact hb
  | cons e r ih =>
    obtain ⟨j, u⟩ := e
    have hr : Memory.above r b := fun e he => h e (by simp [he])
    have hj : b < j := h (j, u) (by simp)
    intro e he
    unfold memPut at he
    split at he
    · rcases List.mem_cons.1 he with rfl | he
      · exact hj
      · exact ih hr e he
    · split at he
      · split at he
        · exact hr e he
        · rcases List.mem_cons.1 he with rfl | he
          · exact hb
          · exact hr e he
      · split at he
        · exact h e he
        · rcases List.mem_cons.1 he with rfl | he
          · exact hb
          · exact h e he

/-- Writing a byte keeps memory canonical. -/
theorem Memory.wf_memPut {m : List Host.Cell} (h : Memory.wf m = true) (a : Nat) (v : Byte) :
    Memory.wf (memPut m a v) = true := by
  induction m with
  | nil => by_cases hv : v = 0#8 <;> simp [memPut, Memory.wf, hv]
  | cons e r ih =>
    obtain ⟨j, u⟩ := e
    obtain ⟨hu, ha, hr⟩ := (Memory.wf_cons_iff j u r).1 h
    unfold memPut
    split
    · next hlt => exact (Memory.wf_cons_iff _ _ _).2 ⟨hu, Memory.above_memPut ha hlt, ih hr⟩
    · next hge =>
      split
      · next heq =>
        subst heq
        split
        · exact hr
        · next hv => exact (Memory.wf_cons_iff _ _ _).2 ⟨hv, ha, hr⟩
      · next hne =>
        split
        · exact h
        · next hv =>
          refine (Memory.wf_cons_iff _ _ _).2 ⟨hv, ?_, h⟩
          intro e he
          rcases List.mem_cons.1 he with rfl | he
          · simp only; omega
          · have := ha e he; omega

/-- A byte written reads back. -/
theorem memByte_memPut_same {m : List Host.Cell} (h : Memory.wf m = true) (a : Nat) (v : Byte) :
    memByte (memPut m a v) a = v := by
  induction m with
  | nil => by_cases hv : v = 0#8 <;> simp [memPut, memByte, hv]
  | cons e r ih =>
    obtain ⟨j, u⟩ := e
    obtain ⟨hu, ha, hr⟩ := (Memory.wf_cons_iff j u r).1 h
    unfold memPut
    split
    · next hlt => simp [memByte, Nat.ne_of_lt hlt, ih hr]
    · next hge =>
      split
      · next heq =>
        subst heq
        split
        · next hv => rw [hv]; exact memByte_of_above ha
        · simp [memByte]
      · next hne =>
        split
        · next hv =>
          rw [hv]
          refine memByte_of_above fun e he => ?_
          rcases List.mem_cons.1 he with rfl | he
          · simp only; omega
          · have := ha e he; omega
        · simp [memByte]

/-- Writing a byte leaves every other byte as it was. -/
theorem memByte_memPut_ne {m : List Host.Cell} {a b : Nat} (v : Byte) (hb : b ≠ a) :
    memByte (memPut m a v) b = memByte m b := by
  induction m with
  | nil => by_cases hv : v = 0#8 <;> simp [memPut, memByte, hv, Ne.symm hb]
  | cons e r ih =>
    obtain ⟨j, u⟩ := e
    unfold memPut
    split
    · simp only [memByte, ih]
    · split
      · next heq =>
        subst heq
        split <;> simp [memByte, Ne.symm hb]
      · split <;> simp [memByte, Ne.symm hb]

theorem Memory.wf_memPuts {m : List Host.Cell} (h : Memory.wf m = true) (a : Nat) (bs : List Byte) :
    Memory.wf (memPuts m a bs) = true := by
  induction bs generalizing m a with
  | nil => exact h
  | cons b r ih => exact ih (Memory.wf_memPut h a b) (a + 1)

/-- Bytes written from an address upward leave every byte outside them as it was. -/
theorem memByte_memPuts_ne {m : List Host.Cell} {a b : Nat} {bs : List Byte} (hb : b < a ∨ a + bs.length ≤ b) :
    memByte (memPuts m a bs) b = memByte m b := by
  induction bs generalizing m a with
  | nil => rfl
  | cons v r ih =>
    simp only [List.length_cons] at hb
    rw [memPuts, ih (by omega), memByte_memPut_ne v (by omega)]

theorem Memory.wf_memPutWord {m : List Host.Cell} (h : Memory.wf m = true) (a : Nat) (w : Word) :
    Memory.wf (memPutWord m a w) = true := Memory.wf_memPuts h a _

theorem Memory.wf_memPutWords {m : List Host.Cell} (h : Memory.wf m = true) (a : Nat) (ws : List Word) :
    Memory.wf (memPutWords m a ws) = true := by
  induction ws generalizing m a with
  | nil => exact h
  | cons w r ih => exact ih (Memory.wf_memPutWord h a w) (a + 8)

/-- Memory with some of its entries taken out is canonical. -/
theorem Memory.wf_filter {m : List Host.Cell} (h : Memory.wf m = true) (p : Host.Cell → Bool) :
    Memory.wf (m.filter p) = true := by
  induction m with
  | nil => rfl
  | cons e r ih =>
    obtain ⟨j, u⟩ := e
    obtain ⟨hu, ha, hr⟩ := (Memory.wf_cons_iff j u r).1 h
    by_cases hp : p (j, u)
    · rw [List.filter_cons_of_pos hp]
      exact (Memory.wf_cons_iff _ _ _).2 ⟨hu, fun e he => ha e (List.mem_filter.1 he).1, ih hr⟩
    · rw [List.filter_cons_of_neg hp]; exact ih hr

end Sys2Proof.Machine
end

