-- ==== Sys2Proof/Laws/Memory.lean ====
section
/-! SUPPORT. Every operation that changes memory keeps its canonical form: one lemma each, so that the invariant of a step needs no other fact
about memory. -/

namespace Sys2Proof.Machine

open Sys2Proof.Claims

@[simp] theorem logArray_mem (s : State) (kind tne bit pa : Nat) : (logArray s kind tne bit pa).mem = s.mem := rfl

@[simp] theorem scrubSecded_mem (s : State) (a : Nat) : (scrubSecded s a).mem = s.mem := by
  unfold scrubSecded
  dsimp only
  split <;> rfl

@[simp] theorem scrubBurst_mem (s : State) (a : Nat) : (scrubBurst s a).mem = s.mem := by
  unfold scrubBurst
  dsimp only
  split
  · rfl
  · split
    · rfl
    · split <;> rfl

@[simp] theorem scrubSector_mem (s : State) (a : Nat) : (scrubSector s a).mem = s.mem := by
  unfold scrubSector
  induction List.range 8 generalizing s with
  | nil => rfl
  | cons j r ih => simp [ih]

@[simp] theorem scrubWord_mem (s : State) (a : Nat) : (scrubWord s a).mem = s.mem := by
  unfold scrubWord
  split
  · simp
  · split <;> simp

@[simp] theorem scrub_mem (s : State) (a n : Nat) : (scrub s a n).mem = s.mem := by
  unfold scrub
  induction wordsOf a n generalizing s with
  | nil => rfl
  | cons w l ih => simp [ih]

@[simp] theorem sectorRead_mem (s : State) (a : Nat) : (sectorRead s a).2.mem = s.mem := by
  unfold sectorRead; repeat' split
  all_goals rfl

@[simp] theorem transfers_mem (s : State) (a n : Nat) : (transfers s a n).2.mem = s.mem := by rw [channelSide_transfers s a n]

/-- A read of the arrays changes no byte of memory, whatever it corrects, logs or is held up by. -/
@[simp] theorem memoryRead_mem (s : State) (a n : Nat) : (memoryRead s a n).2.mem = s.mem := by simp [memoryRead, arrayRead]

@[simp] theorem heldBack_mem (s t : State) : (heldBack s t).mem = s.mem := rfl

theorem unlessHeld_canonical {s t : State} (h : Canonical s) (g : Canonical t) : Canonical (unlessHeld s t) := by
  unfold unlessHeld; split
  · exact h
  · exact g

@[simp] theorem markWord_mem (s : State) (bs : List MByte) (p : Bool) (a : Nat) : (markWord s bs p a).mem = s.mem := by
  unfold markWord
  split
  · rfl
  · split <;> simp

/-- A byte stored at its home keeps memory canonical. -/
theorem putByte_canonical {s : State} (h : Canonical s) (b : MByte) : Canonical (putByte s b) := by
  unfold putByte
  split
  · exact h
  · exact Memory.wf_memPut h _ _

theorem foldl_putByte_canonical {s : State} (h : Canonical s) (bs : List MByte) : Canonical (bs.foldl putByte s) := by
  induction bs generalizing s with
  | nil => exact h
  | cons b r ih => exact ih (putByte_canonical h b)

/-- The marks of a store's words change no byte. -/
theorem marks_mem (s : State) (bs : List MByte) (p : Bool) (l : List Nat) :
    (l.foldl (fun t w => if inInbox w then t else markWord t bs p w) s).mem = s.mem := by
  induction l generalizing s with
  | nil => rfl
  | cons a r ih =>
    simp only [List.foldl_cons, ih]
    split <;> simp

/-- A store performed at its home keeps memory canonical. -/
theorem performStore_canonical {s : State} (h : Canonical s) (bs : List MByte) (p : Bool) : Canonical (performStore s bs p) :=
  foldl_putByte_canonical (by unfold Canonical; rw [marks_mem]; exact h) bs

/-- A message written to its inbox entry keeps memory canonical. -/
theorem writeEntry_canonical {s : State} (h : Canonical s) (k e : Nat) (ws : List Word) : Canonical (writeEntry s k e ws) :=
  Memory.wf_memPutWords h _ _

/-- A quad store cleared for another world keeps memory canonical. -/
theorem clearQuad_canonical {s : State} (h : Canonical s) (q : Nat) : Canonical (clearQuad s q) := Memory.wf_filter h _

/-- Bytes cleared as they enter or leave secure memory keep memory canonical. -/
theorem clearMoved_canonical {s t : State} (h : Canonical t) : Canonical (clearMoved s t) := Memory.wf_filter h _

/-- A device reset keeps memory canonical. -/
theorem deviceReset_canonical {s t : State} (h : Canonical s) (e : exec .deviceReset s = .next t) : Canonical t := by
  have : execDeviceReset s = .next t := e
  unfold execDeviceReset at this
  injection this with this
  subst this
  exact Memory.wf_filter h _

/-- Placing an instruction where it is fetched next keeps memory canonical. -/
theorem withFetchWord_canonical {s : State} (h : Canonical s) (nbits w : Nat) : Canonical (s.withFetchWord nbits w) :=
  Memory.wf_memPuts h _ _

end Sys2Proof.Machine
end

