-- ==== Sys2Proof/Laws/State.lean ====
section
/-! SUPPORT. What each update of the state leaves as it was, field by field, and what the places read after it. -/

namespace Sys2Proof.Machine

@[simp] theorem setCore_quads (s : State) (k : Nat) (c : Core) : (setCore s k c).quads = s.quads := rfl
@[simp] theorem setCore_clusters (s : State) (k : Nat) (c : Core) : (setCore s k c).clusters = s.clusters := rfl
@[simp] theorem setCore_dev (s : State) (k : Nat) (c : Core) : (setCore s k c).dev = s.dev := rfl
@[simp] theorem setCore_fab (s : State) (k : Nat) (c : Core) : (setCore s k c).fab = s.fab := rfl
@[simp] theorem setCore_queues (s : State) (k : Nat) (c : Core) : (setCore s k c).queues = s.queues := rfl
@[simp] theorem setCore_mbox (s : State) (k : Nat) (c : Core) : (setCore s k c).mbox = s.mbox := rfl
@[simp] theorem setCore_launches (s : State) (k : Nat) (c : Core) : (setCore s k c).launches = s.launches := rfl
@[simp] theorem setCore_nextLaunch (s : State) (k : Nat) (c : Core) : (setCore s k c).nextLaunch = s.nextLaunch := rfl
@[simp] theorem setCore_uncore (s : State) (k : Nat) (c : Core) : (setCore s k c).uncore = s.uncore := rfl
@[simp] theorem setCore_mem (s : State) (k : Nat) (c : Core) : (setCore s k c).mem = s.mem := rfl
@[simp] theorem setCore_full (s : State) (k : Nat) (c : Core) : (setCore s k c).full = s.full := rfl
@[simp] theorem setCore_poison (s : State) (k : Nat) (c : Core) : (setCore s k c).poison = s.poison := rfl
@[simp] theorem setCore_flips (s : State) (k : Nat) (c : Core) : (setCore s k c).flips = s.flips := rfl
@[simp] theorem setCore_tagBad (s : State) (k : Nat) (c : Core) : (setCore s k c).tagBad = s.tagBad := rfl
@[simp] theorem setCore_mediaBad (s : State) (k : Nat) (c : Core) : (setCore s k c).mediaBad = s.mediaBad := rfl
@[simp] theorem setCore_parked (s : State) (k : Nat) (c : Core) : (setCore s k c).parked = s.parked := rfl
@[simp] theorem setCore_runs (s : State) (k : Nat) (c : Core) : (setCore s k c).runs = s.runs := rfl
@[simp] theorem setCore_hwMsgs (s : State) (k : Nat) (c : Core) : (setCore s k c).hwMsgs = s.hwMsgs := rfl
@[simp] theorem setCore_serial (s : State) (k : Nat) (c : Core) : (setCore s k c).serial = s.serial := rfl
@[simp] theorem setCore_cur (s : State) (k : Nat) (c : Core) : (setCore s k c).cur = s.cur := rfl
@[simp] theorem setCore_turns (s : State) (k : Nat) (c : Core) : (setCore s k c).turns = s.turns := rfl
@[simp] theorem setCore_agenda (s : State) (k : Nat) (c : Core) : (setCore s k c).agenda = s.agenda := rfl
@[simp] theorem setCore_rot (s : State) (k : Nat) (c : Core) : (setCore s k c).rot = s.rot := rfl
@[simp] theorem setCore_haste (s : State) (k : Nat) (c : Core) : (setCore s k c).haste = s.haste := rfl
@[simp] theorem setCore_fresh (s : State) (k : Nat) (c : Core) : (setCore s k c).fresh = s.fresh := rfl
@[simp] theorem setCore_stall (s : State) (k : Nat) (c : Core) : (setCore s k c).stall = s.stall := rfl

@[simp] theorem modCore_quads (s : State) (k : Nat) (f : Core → Core) : (modCore s k f).quads = s.quads := rfl
@[simp] theorem modCore_clusters (s : State) (k : Nat) (f : Core → Core) : (modCore s k f).clusters = s.clusters := rfl
@[simp] theorem modCore_dev (s : State) (k : Nat) (f : Core → Core) : (modCore s k f).dev = s.dev := rfl
@[simp] theorem modCore_fab (s : State) (k : Nat) (f : Core → Core) : (modCore s k f).fab = s.fab := rfl
@[simp] theorem modCore_queues (s : State) (k : Nat) (f : Core → Core) : (modCore s k f).queues = s.queues := rfl
@[simp] theorem modCore_mbox (s : State) (k : Nat) (f : Core → Core) : (modCore s k f).mbox = s.mbox := rfl
@[simp] theorem modCore_launches (s : State) (k : Nat) (f : Core → Core) : (modCore s k f).launches = s.launches := rfl
@[simp] theorem modCore_nextLaunch (s : State) (k : Nat) (f : Core → Core) : (modCore s k f).nextLaunch = s.nextLaunch := rfl
@[simp] theorem modCore_uncore (s : State) (k : Nat) (f : Core → Core) : (modCore s k f).uncore = s.uncore := rfl
@[simp] theorem modCore_mem (s : State) (k : Nat) (f : Core → Core) : (modCore s k f).mem = s.mem := rfl
@[simp] theorem modCore_full (s : State) (k : Nat) (f : Core → Core) : (modCore s k f).full = s.full := rfl
@[simp] theorem modCore_poison (s : State) (k : Nat) (f : Core → Core) : (modCore s k f).poison = s.poison := rfl
@[simp] theorem modCore_flips (s : State) (k : Nat) (f : Core → Core) : (modCore s k f).flips = s.flips := rfl
@[simp] theorem modCore_tagBad (s : State) (k : Nat) (f : Core → Core) : (modCore s k f).tagBad = s.tagBad := rfl
@[simp] theorem modCore_mediaBad (s : State) (k : Nat) (f : Core → Core) : (modCore s k f).mediaBad = s.mediaBad := rfl
@[simp] theorem modCore_parked (s : State) (k : Nat) (f : Core → Core) : (modCore s k f).parked = s.parked := rfl
@[simp] theorem modCore_runs (s : State) (k : Nat) (f : Core → Core) : (modCore s k f).runs = s.runs := rfl
@[simp] theorem modCore_hwMsgs (s : State) (k : Nat) (f : Core → Core) : (modCore s k f).hwMsgs = s.hwMsgs := rfl
@[simp] theorem modCore_serial (s : State) (k : Nat) (f : Core → Core) : (modCore s k f).serial = s.serial := rfl
@[simp] theorem modCore_cur (s : State) (k : Nat) (f : Core → Core) : (modCore s k f).cur = s.cur := rfl
@[simp] theorem modCore_turns (s : State) (k : Nat) (f : Core → Core) : (modCore s k f).turns = s.turns := rfl
@[simp] theorem modCore_agenda (s : State) (k : Nat) (f : Core → Core) : (modCore s k f).agenda = s.agenda := rfl
@[simp] theorem modCore_rot (s : State) (k : Nat) (f : Core → Core) : (modCore s k f).rot = s.rot := rfl
@[simp] theorem modCore_haste (s : State) (k : Nat) (f : Core → Core) : (modCore s k f).haste = s.haste := rfl
@[simp] theorem modCore_fresh (s : State) (k : Nat) (f : Core → Core) : (modCore s k f).fresh = s.fresh := rfl
@[simp] theorem modCore_stall (s : State) (k : Nat) (f : Core → Core) : (modCore s k f).stall = s.stall := rfl

@[simp] theorem setSlot_quads (s : State) (k i : Nat) (x : Slot) : (setSlot s k i x).quads = s.quads := rfl
@[simp] theorem setSlot_clusters (s : State) (k i : Nat) (x : Slot) : (setSlot s k i x).clusters = s.clusters := rfl
@[simp] theorem setSlot_dev (s : State) (k i : Nat) (x : Slot) : (setSlot s k i x).dev = s.dev := rfl
@[simp] theorem setSlot_fab (s : State) (k i : Nat) (x : Slot) : (setSlot s k i x).fab = s.fab := rfl
@[simp] theorem setSlot_queues (s : State) (k i : Nat) (x : Slot) : (setSlot s k i x).queues = s.queues := rfl
@[simp] theorem setSlot_mbox (s : State) (k i : Nat) (x : Slot) : (setSlot s k i x).mbox = s.mbox := rfl
@[simp] theorem setSlot_launches (s : State) (k i : Nat) (x : Slot) : (setSlot s k i x).launches = s.launches := rfl
@[simp] theorem setSlot_nextLaunch (s : State) (k i : Nat) (x : Slot) : (setSlot s k i x).nextLaunch = s.nextLaunch := rfl
@[simp] theorem setSlot_uncore (s : State) (k i : Nat) (x : Slot) : (setSlot s k i x).uncore = s.uncore := rfl
@[simp] theorem setSlot_mem (s : State) (k i : Nat) (x : Slot) : (setSlot s k i x).mem = s.mem := rfl
@[simp] theorem setSlot_full (s : State) (k i : Nat) (x : Slot) : (setSlot s k i x).full = s.full := rfl
@[simp] theorem setSlot_poison (s : State) (k i : Nat) (x : Slot) : (setSlot s k i x).poison = s.poison := rfl
@[simp] theorem setSlot_flips (s : State) (k i : Nat) (x : Slot) : (setSlot s k i x).flips = s.flips := rfl
@[simp] theorem setSlot_tagBad (s : State) (k i : Nat) (x : Slot) : (setSlot s k i x).tagBad = s.tagBad := rfl
@[simp] theorem setSlot_mediaBad (s : State) (k i : Nat) (x : Slot) : (setSlot s k i x).mediaBad = s.mediaBad := rfl
@[simp] theorem setSlot_parked (s : State) (k i : Nat) (x : Slot) : (setSlot s k i x).parked = s.parked := rfl
@[simp] theorem setSlot_runs (s : State) (k i : Nat) (x : Slot) : (setSlot s k i x).runs = s.runs := rfl
@[simp] theorem setSlot_hwMsgs (s : State) (k i : Nat) (x : Slot) : (setSlot s k i x).hwMsgs = s.hwMsgs := rfl
@[simp] theorem setSlot_serial (s : State) (k i : Nat) (x : Slot) : (setSlot s k i x).serial = s.serial := rfl
@[simp] theorem setSlot_cur (s : State) (k i : Nat) (x : Slot) : (setSlot s k i x).cur = s.cur := rfl
@[simp] theorem setSlot_turns (s : State) (k i : Nat) (x : Slot) : (setSlot s k i x).turns = s.turns := rfl
@[simp] theorem setSlot_agenda (s : State) (k i : Nat) (x : Slot) : (setSlot s k i x).agenda = s.agenda := rfl
@[simp] theorem setSlot_rot (s : State) (k i : Nat) (x : Slot) : (setSlot s k i x).rot = s.rot := rfl
@[simp] theorem setSlot_haste (s : State) (k i : Nat) (x : Slot) : (setSlot s k i x).haste = s.haste := rfl
@[simp] theorem setSlot_fresh (s : State) (k i : Nat) (x : Slot) : (setSlot s k i x).fresh = s.fresh := rfl
@[simp] theorem setSlot_stall (s : State) (k i : Nat) (x : Slot) : (setSlot s k i x).stall = s.stall := rfl

@[simp] theorem modSlot_quads (s : State) (k i : Nat) (f : Slot → Slot) : (modSlot s k i f).quads = s.quads := rfl
@[simp] theorem modSlot_clusters (s : State) (k i : Nat) (f : Slot → Slot) : (modSlot s k i f).clusters = s.clusters := rfl
@[simp] theorem modSlot_dev (s : State) (k i : Nat) (f : Slot → Slot) : (modSlot s k i f).dev = s.dev := rfl
@[simp] theorem modSlot_fab (s : State) (k i : Nat) (f : Slot → Slot) : (modSlot s k i f).fab = s.fab := rfl
@[simp] theorem modSlot_queues (s : State) (k i : Nat) (f : Slot → Slot) : (modSlot s k i f).queues = s.queues := rfl
@[simp] theorem modSlot_mbox (s : State) (k i : Nat) (f : Slot → Slot) : (modSlot s k i f).mbox = s.mbox := rfl
@[simp] theorem modSlot_launches (s : State) (k i : Nat) (f : Slot → Slot) : (modSlot s k i f).launches = s.launches := rfl
@[simp] theorem modSlot_nextLaunch (s : State) (k i : Nat) (f : Slot → Slot) : (modSlot s k i f).nextLaunch = s.nextLaunch := rfl
@[simp] theorem modSlot_uncore (s : State) (k i : Nat) (f : Slot → Slot) : (modSlot s k i f).uncore = s.uncore := rfl
@[simp] theorem modSlot_mem (s : State) (k i : Nat) (f : Slot → Slot) : (modSlot s k i f).mem = s.mem := rfl
@[simp] theorem modSlot_full (s : State) (k i : Nat) (f : Slot → Slot) : (modSlot s k i f).full = s.full := rfl
@[simp] theorem modSlot_poison (s : State) (k i : Nat) (f : Slot → Slot) : (modSlot s k i f).poison = s.poison := rfl
@[simp] theorem modSlot_flips (s : State) (k i : Nat) (f : Slot → Slot) : (modSlot s k i f).flips = s.flips := rfl
@[simp] theorem modSlot_tagBad (s : State) (k i : Nat) (f : Slot → Slot) : (modSlot s k i f).tagBad = s.tagBad := rfl
@[simp] theorem modSlot_mediaBad (s : State) (k i : Nat) (f : Slot → Slot) : (modSlot s k i f).mediaBad = s.mediaBad := rfl
@[simp] theorem modSlot_parked (s : State) (k i : Nat) (f : Slot → Slot) : (modSlot s k i f).parked = s.parked := rfl
@[simp] theorem modSlot_runs (s : State) (k i : Nat) (f : Slot → Slot) : (modSlot s k i f).runs = s.runs := rfl
@[simp] theorem modSlot_hwMsgs (s : State) (k i : Nat) (f : Slot → Slot) : (modSlot s k i f).hwMsgs = s.hwMsgs := rfl
@[simp] theorem modSlot_serial (s : State) (k i : Nat) (f : Slot → Slot) : (modSlot s k i f).serial = s.serial := rfl
@[simp] theorem modSlot_cur (s : State) (k i : Nat) (f : Slot → Slot) : (modSlot s k i f).cur = s.cur := rfl
@[simp] theorem modSlot_turns (s : State) (k i : Nat) (f : Slot → Slot) : (modSlot s k i f).turns = s.turns := rfl
@[simp] theorem modSlot_agenda (s : State) (k i : Nat) (f : Slot → Slot) : (modSlot s k i f).agenda = s.agenda := rfl
@[simp] theorem modSlot_rot (s : State) (k i : Nat) (f : Slot → Slot) : (modSlot s k i f).rot = s.rot := rfl
@[simp] theorem modSlot_haste (s : State) (k i : Nat) (f : Slot → Slot) : (modSlot s k i f).haste = s.haste := rfl
@[simp] theorem modSlot_fresh (s : State) (k i : Nat) (f : Slot → Slot) : (modSlot s k i f).fresh = s.fresh := rfl
@[simp] theorem modSlot_stall (s : State) (k i : Nat) (f : Slot → Slot) : (modSlot s k i f).stall = s.stall := rfl

@[simp] theorem modCur_quads (s : State) (f : Slot → Slot) : (modCur s f).quads = s.quads := rfl
@[simp] theorem modCur_clusters (s : State) (f : Slot → Slot) : (modCur s f).clusters = s.clusters := rfl
@[simp] theorem modCur_dev (s : State) (f : Slot → Slot) : (modCur s f).dev = s.dev := rfl
@[simp] theorem modCur_fab (s : State) (f : Slot → Slot) : (modCur s f).fab = s.fab := rfl
@[simp] theorem modCur_queues (s : State) (f : Slot → Slot) : (modCur s f).queues = s.queues := rfl
@[simp] theorem modCur_mbox (s : State) (f : Slot → Slot) : (modCur s f).mbox = s.mbox := rfl
@[simp] theorem modCur_launches (s : State) (f : Slot → Slot) : (modCur s f).launches = s.launches := rfl
@[simp] theorem modCur_nextLaunch (s : State) (f : Slot → Slot) : (modCur s f).nextLaunch = s.nextLaunch := rfl
@[simp] theorem modCur_uncore (s : State) (f : Slot → Slot) : (modCur s f).uncore = s.uncore := rfl
@[simp] theorem modCur_mem (s : State) (f : Slot → Slot) : (modCur s f).mem = s.mem := rfl
@[simp] theorem modCur_full (s : State) (f : Slot → Slot) : (modCur s f).full = s.full := rfl
@[simp] theorem modCur_poison (s : State) (f : Slot → Slot) : (modCur s f).poison = s.poison := rfl
@[simp] theorem modCur_flips (s : State) (f : Slot → Slot) : (modCur s f).flips = s.flips := rfl
@[simp] theorem modCur_tagBad (s : State) (f : Slot → Slot) : (modCur s f).tagBad = s.tagBad := rfl
@[simp] theorem modCur_mediaBad (s : State) (f : Slot → Slot) : (modCur s f).mediaBad = s.mediaBad := rfl
@[simp] theorem modCur_parked (s : State) (f : Slot → Slot) : (modCur s f).parked = s.parked := rfl
@[simp] theorem modCur_runs (s : State) (f : Slot → Slot) : (modCur s f).runs = s.runs := rfl
@[simp] theorem modCur_hwMsgs (s : State) (f : Slot → Slot) : (modCur s f).hwMsgs = s.hwMsgs := rfl
@[simp] theorem modCur_serial (s : State) (f : Slot → Slot) : (modCur s f).serial = s.serial := rfl
@[simp] theorem modCur_cur (s : State) (f : Slot → Slot) : (modCur s f).cur = s.cur := rfl
@[simp] theorem modCur_turns (s : State) (f : Slot → Slot) : (modCur s f).turns = s.turns := rfl
@[simp] theorem modCur_agenda (s : State) (f : Slot → Slot) : (modCur s f).agenda = s.agenda := rfl
@[simp] theorem modCur_rot (s : State) (f : Slot → Slot) : (modCur s f).rot = s.rot := rfl
@[simp] theorem modCur_haste (s : State) (f : Slot → Slot) : (modCur s f).haste = s.haste := rfl
@[simp] theorem modCur_fresh (s : State) (f : Slot → Slot) : (modCur s f).fresh = s.fresh := rfl
@[simp] theorem modCur_stall (s : State) (f : Slot → Slot) : (modCur s f).stall = s.stall := rfl

@[simp] theorem goTo_quads (s : State) (pc : Word) : (goTo s pc).quads = s.quads := rfl
@[simp] theorem goTo_clusters (s : State) (pc : Word) : (goTo s pc).clusters = s.clusters := rfl
@[simp] theorem goTo_dev (s : State) (pc : Word) : (goTo s pc).dev = s.dev := rfl
@[simp] theorem goTo_fab (s : State) (pc : Word) : (goTo s pc).fab = s.fab := rfl
@[simp] theorem goTo_queues (s : State) (pc : Word) : (goTo s pc).queues = s.queues := rfl
@[simp] theorem goTo_mbox (s : State) (pc : Word) : (goTo s pc).mbox = s.mbox := rfl
@[simp] theorem goTo_launches (s : State) (pc : Word) : (goTo s pc).launches = s.launches := rfl
@[simp] theorem goTo_nextLaunch (s : State) (pc : Word) : (goTo s pc).nextLaunch = s.nextLaunch := rfl
@[simp] theorem goTo_uncore (s : State) (pc : Word) : (goTo s pc).uncore = s.uncore := rfl
@[simp] theorem goTo_mem (s : State) (pc : Word) : (goTo s pc).mem = s.mem := rfl
@[simp] theorem goTo_full (s : State) (pc : Word) : (goTo s pc).full = s.full := rfl
@[simp] theorem goTo_poison (s : State) (pc : Word) : (goTo s pc).poison = s.poison := rfl
@[simp] theorem goTo_flips (s : State) (pc : Word) : (goTo s pc).flips = s.flips := rfl
@[simp] theorem goTo_tagBad (s : State) (pc : Word) : (goTo s pc).tagBad = s.tagBad := rfl
@[simp] theorem goTo_mediaBad (s : State) (pc : Word) : (goTo s pc).mediaBad = s.mediaBad := rfl
@[simp] theorem goTo_parked (s : State) (pc : Word) : (goTo s pc).parked = s.parked := rfl
@[simp] theorem goTo_runs (s : State) (pc : Word) : (goTo s pc).runs = s.runs := rfl
@[simp] theorem goTo_hwMsgs (s : State) (pc : Word) : (goTo s pc).hwMsgs = s.hwMsgs := rfl
@[simp] theorem goTo_serial (s : State) (pc : Word) : (goTo s pc).serial = s.serial := rfl
@[simp] theorem goTo_cur (s : State) (pc : Word) : (goTo s pc).cur = s.cur := rfl
@[simp] theorem goTo_turns (s : State) (pc : Word) : (goTo s pc).turns = s.turns := rfl
@[simp] theorem goTo_agenda (s : State) (pc : Word) : (goTo s pc).agenda = s.agenda := rfl
@[simp] theorem goTo_rot (s : State) (pc : Word) : (goTo s pc).rot = s.rot := rfl
@[simp] theorem goTo_haste (s : State) (pc : Word) : (goTo s pc).haste = s.haste := rfl
@[simp] theorem goTo_fresh (s : State) (pc : Word) : (goTo s pc).fresh = s.fresh := rfl
@[simp] theorem goTo_stall (s : State) (pc : Word) : (goTo s pc).stall = s.stall := rfl

@[simp] theorem setName_quads (s : State) (k i : Nat) (n : Name) (e : NameEntry) : (setName s k i n e).quads = s.quads := rfl
@[simp] theorem setName_clusters (s : State) (k i : Nat) (n : Name) (e : NameEntry) : (setName s k i n e).clusters = s.clusters := rfl
@[simp] theorem setName_dev (s : State) (k i : Nat) (n : Name) (e : NameEntry) : (setName s k i n e).dev = s.dev := rfl
@[simp] theorem setName_fab (s : State) (k i : Nat) (n : Name) (e : NameEntry) : (setName s k i n e).fab = s.fab := rfl
@[simp] theorem setName_queues (s : State) (k i : Nat) (n : Name) (e : NameEntry) : (setName s k i n e).queues = s.queues := rfl
@[simp] theorem setName_mbox (s : State) (k i : Nat) (n : Name) (e : NameEntry) : (setName s k i n e).mbox = s.mbox := rfl
@[simp] theorem setName_launches (s : State) (k i : Nat) (n : Name) (e : NameEntry) : (setName s k i n e).launches = s.launches := rfl
@[simp] theorem setName_nextLaunch (s : State) (k i : Nat) (n : Name) (e : NameEntry) : (setName s k i n e).nextLaunch = s.nextLaunch := rfl
@[simp] theorem setName_uncore (s : State) (k i : Nat) (n : Name) (e : NameEntry) : (setName s k i n e).uncore = s.uncore := rfl
@[simp] theorem setName_mem (s : State) (k i : Nat) (n : Name) (e : NameEntry) : (setName s k i n e).mem = s.mem := rfl
@[simp] theorem setName_full (s : State) (k i : Nat) (n : Name) (e : NameEntry) : (setName s k i n e).full = s.full := rfl
@[simp] theorem setName_poison (s : State) (k i : Nat) (n : Name) (e : NameEntry) : (setName s k i n e).poison = s.poison := rfl
@[simp] theorem setName_flips (s : State) (k i : Nat) (n : Name) (e : NameEntry) : (setName s k i n e).flips = s.flips := rfl
@[simp] theorem setName_tagBad (s : State) (k i : Nat) (n : Name) (e : NameEntry) : (setName s k i n e).tagBad = s.tagBad := rfl
@[simp] theorem setName_mediaBad (s : State) (k i : Nat) (n : Name) (e : NameEntry) : (setName s k i n e).mediaBad = s.mediaBad := rfl
@[simp] theorem setName_parked (s : State) (k i : Nat) (n : Name) (e : NameEntry) : (setName s k i n e).parked = s.parked := rfl
@[simp] theorem setName_runs (s : State) (k i : Nat) (n : Name) (e : NameEntry) : (setName s k i n e).runs = s.runs := rfl
@[simp] theorem setName_hwMsgs (s : State) (k i : Nat) (n : Name) (e : NameEntry) : (setName s k i n e).hwMsgs = s.hwMsgs := rfl
@[simp] theorem setName_serial (s : State) (k i : Nat) (n : Name) (e : NameEntry) : (setName s k i n e).serial = s.serial := rfl
@[simp] theorem setName_cur (s : State) (k i : Nat) (n : Name) (e : NameEntry) : (setName s k i n e).cur = s.cur := rfl
@[simp] theorem setName_turns (s : State) (k i : Nat) (n : Name) (e : NameEntry) : (setName s k i n e).turns = s.turns := rfl
@[simp] theorem setName_agenda (s : State) (k i : Nat) (n : Name) (e : NameEntry) : (setName s k i n e).agenda = s.agenda := rfl
@[simp] theorem setName_rot (s : State) (k i : Nat) (n : Name) (e : NameEntry) : (setName s k i n e).rot = s.rot := rfl
@[simp] theorem setName_haste (s : State) (k i : Nat) (n : Name) (e : NameEntry) : (setName s k i n e).haste = s.haste := rfl
@[simp] theorem setName_fresh (s : State) (k i : Nat) (n : Name) (e : NameEntry) : (setName s k i n e).fresh = s.fresh := rfl
@[simp] theorem setName_stall (s : State) (k i : Nat) (n : Name) (e : NameEntry) : (setName s k i n e).stall = s.stall := rfl

@[simp] theorem setDq_quads (s : State) (k q : Nat) (d : DataQueue) : (setDq s k q d).quads = s.quads := rfl
@[simp] theorem setDq_clusters (s : State) (k q : Nat) (d : DataQueue) : (setDq s k q d).clusters = s.clusters := rfl
@[simp] theorem setDq_dev (s : State) (k q : Nat) (d : DataQueue) : (setDq s k q d).dev = s.dev := rfl
@[simp] theorem setDq_fab (s : State) (k q : Nat) (d : DataQueue) : (setDq s k q d).fab = s.fab := rfl
@[simp] theorem setDq_queues (s : State) (k q : Nat) (d : DataQueue) : (setDq s k q d).queues = s.queues := rfl
@[simp] theorem setDq_mbox (s : State) (k q : Nat) (d : DataQueue) : (setDq s k q d).mbox = s.mbox := rfl
@[simp] theorem setDq_launches (s : State) (k q : Nat) (d : DataQueue) : (setDq s k q d).launches = s.launches := rfl
@[simp] theorem setDq_nextLaunch (s : State) (k q : Nat) (d : DataQueue) : (setDq s k q d).nextLaunch = s.nextLaunch := rfl
@[simp] theorem setDq_uncore (s : State) (k q : Nat) (d : DataQueue) : (setDq s k q d).uncore = s.uncore := rfl
@[simp] theorem setDq_mem (s : State) (k q : Nat) (d : DataQueue) : (setDq s k q d).mem = s.mem := rfl
@[simp] theorem setDq_full (s : State) (k q : Nat) (d : DataQueue) : (setDq s k q d).full = s.full := rfl
@[simp] theorem setDq_poison (s : State) (k q : Nat) (d : DataQueue) : (setDq s k q d).poison = s.poison := rfl
@[simp] theorem setDq_flips (s : State) (k q : Nat) (d : DataQueue) : (setDq s k q d).flips = s.flips := rfl
@[simp] theorem setDq_tagBad (s : State) (k q : Nat) (d : DataQueue) : (setDq s k q d).tagBad = s.tagBad := rfl
@[simp] theorem setDq_mediaBad (s : State) (k q : Nat) (d : DataQueue) : (setDq s k q d).mediaBad = s.mediaBad := rfl
@[simp] theorem setDq_parked (s : State) (k q : Nat) (d : DataQueue) : (setDq s k q d).parked = s.parked := rfl
@[simp] theorem setDq_runs (s : State) (k q : Nat) (d : DataQueue) : (setDq s k q d).runs = s.runs := rfl
@[simp] theorem setDq_hwMsgs (s : State) (k q : Nat) (d : DataQueue) : (setDq s k q d).hwMsgs = s.hwMsgs := rfl
@[simp] theorem setDq_serial (s : State) (k q : Nat) (d : DataQueue) : (setDq s k q d).serial = s.serial := rfl
@[simp] theorem setDq_cur (s : State) (k q : Nat) (d : DataQueue) : (setDq s k q d).cur = s.cur := rfl
@[simp] theorem setDq_turns (s : State) (k q : Nat) (d : DataQueue) : (setDq s k q d).turns = s.turns := rfl
@[simp] theorem setDq_agenda (s : State) (k q : Nat) (d : DataQueue) : (setDq s k q d).agenda = s.agenda := rfl
@[simp] theorem setDq_rot (s : State) (k q : Nat) (d : DataQueue) : (setDq s k q d).rot = s.rot := rfl
@[simp] theorem setDq_haste (s : State) (k q : Nat) (d : DataQueue) : (setDq s k q d).haste = s.haste := rfl
@[simp] theorem setDq_fresh (s : State) (k q : Nat) (d : DataQueue) : (setDq s k q d).fresh = s.fresh := rfl
@[simp] theorem setDq_stall (s : State) (k q : Nat) (d : DataQueue) : (setDq s k q d).stall = s.stall := rfl

@[simp] theorem park_quads (s : State) (w : Wait) : (park s w).quads = s.quads := rfl
@[simp] theorem park_clusters (s : State) (w : Wait) : (park s w).clusters = s.clusters := rfl
@[simp] theorem park_dev (s : State) (w : Wait) : (park s w).dev = s.dev := rfl
@[simp] theorem park_fab (s : State) (w : Wait) : (park s w).fab = s.fab := rfl
@[simp] theorem park_queues (s : State) (w : Wait) : (park s w).queues = s.queues := rfl
@[simp] theorem park_mbox (s : State) (w : Wait) : (park s w).mbox = s.mbox := rfl
@[simp] theorem park_launches (s : State) (w : Wait) : (park s w).launches = s.launches := rfl
@[simp] theorem park_nextLaunch (s : State) (w : Wait) : (park s w).nextLaunch = s.nextLaunch := rfl
@[simp] theorem park_uncore (s : State) (w : Wait) : (park s w).uncore = s.uncore := rfl
@[simp] theorem park_mem (s : State) (w : Wait) : (park s w).mem = s.mem := rfl
@[simp] theorem park_full (s : State) (w : Wait) : (park s w).full = s.full := rfl
@[simp] theorem park_poison (s : State) (w : Wait) : (park s w).poison = s.poison := rfl
@[simp] theorem park_flips (s : State) (w : Wait) : (park s w).flips = s.flips := rfl
@[simp] theorem park_tagBad (s : State) (w : Wait) : (park s w).tagBad = s.tagBad := rfl
@[simp] theorem park_mediaBad (s : State) (w : Wait) : (park s w).mediaBad = s.mediaBad := rfl
@[simp] theorem park_parked (s : State) (w : Wait) : (park s w).parked = s.parked := rfl
@[simp] theorem park_runs (s : State) (w : Wait) : (park s w).runs = s.runs := rfl
@[simp] theorem park_hwMsgs (s : State) (w : Wait) : (park s w).hwMsgs = s.hwMsgs := rfl
@[simp] theorem park_serial (s : State) (w : Wait) : (park s w).serial = s.serial := rfl
@[simp] theorem park_cur (s : State) (w : Wait) : (park s w).cur = s.cur := rfl
@[simp] theorem park_turns (s : State) (w : Wait) : (park s w).turns = s.turns := rfl
@[simp] theorem park_agenda (s : State) (w : Wait) : (park s w).agenda = s.agenda := rfl
@[simp] theorem park_rot (s : State) (w : Wait) : (park s w).rot = s.rot := rfl
@[simp] theorem park_haste (s : State) (w : Wait) : (park s w).haste = s.haste := rfl
@[simp] theorem park_fresh (s : State) (w : Wait) : (park s w).fresh = s.fresh := rfl
@[simp] theorem park_stall (s : State) (w : Wait) : (park s w).stall = s.stall := rfl

@[simp] theorem finishWait_quads (s : State) (k i : Nat) : (finishWait s k i).quads = s.quads := rfl
@[simp] theorem finishWait_clusters (s : State) (k i : Nat) : (finishWait s k i).clusters = s.clusters := rfl
@[simp] theorem finishWait_dev (s : State) (k i : Nat) : (finishWait s k i).dev = s.dev := rfl
@[simp] theorem finishWait_fab (s : State) (k i : Nat) : (finishWait s k i).fab = s.fab := rfl
@[simp] theorem finishWait_queues (s : State) (k i : Nat) : (finishWait s k i).queues = s.queues := rfl
@[simp] theorem finishWait_mbox (s : State) (k i : Nat) : (finishWait s k i).mbox = s.mbox := rfl
@[simp] theorem finishWait_launches (s : State) (k i : Nat) : (finishWait s k i).launches = s.launches := rfl
@[simp] theorem finishWait_nextLaunch (s : State) (k i : Nat) : (finishWait s k i).nextLaunch = s.nextLaunch := rfl
@[simp] theorem finishWait_uncore (s : State) (k i : Nat) : (finishWait s k i).uncore = s.uncore := rfl
@[simp] theorem finishWait_mem (s : State) (k i : Nat) : (finishWait s k i).mem = s.mem := rfl
@[simp] theorem finishWait_full (s : State) (k i : Nat) : (finishWait s k i).full = s.full := rfl
@[simp] theorem finishWait_poison (s : State) (k i : Nat) : (finishWait s k i).poison = s.poison := rfl
@[simp] theorem finishWait_flips (s : State) (k i : Nat) : (finishWait s k i).flips = s.flips := rfl
@[simp] theorem finishWait_tagBad (s : State) (k i : Nat) : (finishWait s k i).tagBad = s.tagBad := rfl
@[simp] theorem finishWait_mediaBad (s : State) (k i : Nat) : (finishWait s k i).mediaBad = s.mediaBad := rfl
@[simp] theorem finishWait_parked (s : State) (k i : Nat) : (finishWait s k i).parked = s.parked := rfl
@[simp] theorem finishWait_runs (s : State) (k i : Nat) : (finishWait s k i).runs = s.runs := rfl
@[simp] theorem finishWait_hwMsgs (s : State) (k i : Nat) : (finishWait s k i).hwMsgs = s.hwMsgs := rfl
@[simp] theorem finishWait_serial (s : State) (k i : Nat) : (finishWait s k i).serial = s.serial := rfl
@[simp] theorem finishWait_cur (s : State) (k i : Nat) : (finishWait s k i).cur = s.cur := rfl
@[simp] theorem finishWait_turns (s : State) (k i : Nat) : (finishWait s k i).turns = s.turns := rfl
@[simp] theorem finishWait_agenda (s : State) (k i : Nat) : (finishWait s k i).agenda = s.agenda := rfl
@[simp] theorem finishWait_rot (s : State) (k i : Nat) : (finishWait s k i).rot = s.rot := rfl
@[simp] theorem finishWait_haste (s : State) (k i : Nat) : (finishWait s k i).haste = s.haste := rfl
@[simp] theorem finishWait_fresh (s : State) (k i : Nat) : (finishWait s k i).fresh = s.fresh := rfl
@[simp] theorem finishWait_stall (s : State) (k i : Nat) : (finishWait s k i).stall = s.stall := rfl

@[simp] theorem wake_quads (s : State) (k i : Nat) : (wake s k i).quads = s.quads := rfl
@[simp] theorem wake_clusters (s : State) (k i : Nat) : (wake s k i).clusters = s.clusters := rfl
@[simp] theorem wake_dev (s : State) (k i : Nat) : (wake s k i).dev = s.dev := rfl
@[simp] theorem wake_fab (s : State) (k i : Nat) : (wake s k i).fab = s.fab := rfl
@[simp] theorem wake_queues (s : State) (k i : Nat) : (wake s k i).queues = s.queues := rfl
@[simp] theorem wake_mbox (s : State) (k i : Nat) : (wake s k i).mbox = s.mbox := rfl
@[simp] theorem wake_launches (s : State) (k i : Nat) : (wake s k i).launches = s.launches := rfl
@[simp] theorem wake_nextLaunch (s : State) (k i : Nat) : (wake s k i).nextLaunch = s.nextLaunch := rfl
@[simp] theorem wake_uncore (s : State) (k i : Nat) : (wake s k i).uncore = s.uncore := rfl
@[simp] theorem wake_mem (s : State) (k i : Nat) : (wake s k i).mem = s.mem := rfl
@[simp] theorem wake_full (s : State) (k i : Nat) : (wake s k i).full = s.full := rfl
@[simp] theorem wake_poison (s : State) (k i : Nat) : (wake s k i).poison = s.poison := rfl
@[simp] theorem wake_flips (s : State) (k i : Nat) : (wake s k i).flips = s.flips := rfl
@[simp] theorem wake_tagBad (s : State) (k i : Nat) : (wake s k i).tagBad = s.tagBad := rfl
@[simp] theorem wake_mediaBad (s : State) (k i : Nat) : (wake s k i).mediaBad = s.mediaBad := rfl
@[simp] theorem wake_parked (s : State) (k i : Nat) : (wake s k i).parked = s.parked := rfl
@[simp] theorem wake_runs (s : State) (k i : Nat) : (wake s k i).runs = s.runs := rfl
@[simp] theorem wake_hwMsgs (s : State) (k i : Nat) : (wake s k i).hwMsgs = s.hwMsgs := rfl
@[simp] theorem wake_serial (s : State) (k i : Nat) : (wake s k i).serial = s.serial := rfl
@[simp] theorem wake_cur (s : State) (k i : Nat) : (wake s k i).cur = s.cur := rfl
@[simp] theorem wake_turns (s : State) (k i : Nat) : (wake s k i).turns = s.turns := rfl
@[simp] theorem wake_agenda (s : State) (k i : Nat) : (wake s k i).agenda = s.agenda := rfl
@[simp] theorem wake_rot (s : State) (k i : Nat) : (wake s k i).rot = s.rot := rfl
@[simp] theorem wake_haste (s : State) (k i : Nat) : (wake s k i).haste = s.haste := rfl
@[simp] theorem wake_fresh (s : State) (k i : Nat) : (wake s k i).fresh = s.fresh := rfl
@[simp] theorem wake_stall (s : State) (k i : Nat) : (wake s k i).stall = s.stall := rfl

@[simp] theorem modQuad_cores (s : State) (q : Nat) (f : Quad → Quad) : (modQuad s q f).cores = s.cores := rfl
@[simp] theorem modQuad_clusters (s : State) (q : Nat) (f : Quad → Quad) : (modQuad s q f).clusters = s.clusters := rfl
@[simp] theorem modQuad_dev (s : State) (q : Nat) (f : Quad → Quad) : (modQuad s q f).dev = s.dev := rfl
@[simp] theorem modQuad_fab (s : State) (q : Nat) (f : Quad → Quad) : (modQuad s q f).fab = s.fab := rfl
@[simp] theorem modQuad_queues (s : State) (q : Nat) (f : Quad → Quad) : (modQuad s q f).queues = s.queues := rfl
@[simp] theorem modQuad_mbox (s : State) (q : Nat) (f : Quad → Quad) : (modQuad s q f).mbox = s.mbox := rfl
@[simp] theorem modQuad_launches (s : State) (q : Nat) (f : Quad → Quad) : (modQuad s q f).launches = s.launches := rfl
@[simp] theorem modQuad_nextLaunch (s : State) (q : Nat) (f : Quad → Quad) : (modQuad s q f).nextLaunch = s.nextLaunch := rfl
@[simp] theorem modQuad_uncore (s : State) (q : Nat) (f : Quad → Quad) : (modQuad s q f).uncore = s.uncore := rfl
@[simp] theorem modQuad_mem (s : State) (q : Nat) (f : Quad → Quad) : (modQuad s q f).mem = s.mem := rfl
@[simp] theorem modQuad_full (s : State) (q : Nat) (f : Quad → Quad) : (modQuad s q f).full = s.full := rfl
@[simp] theorem modQuad_poison (s : State) (q : Nat) (f : Quad → Quad) : (modQuad s q f).poison = s.poison := rfl
@[simp] theorem modQuad_flips (s : State) (q : Nat) (f : Quad → Quad) : (modQuad s q f).flips = s.flips := rfl
@[simp] theorem modQuad_tagBad (s : State) (q : Nat) (f : Quad → Quad) : (modQuad s q f).tagBad = s.tagBad := rfl
@[simp] theorem modQuad_mediaBad (s : State) (q : Nat) (f : Quad → Quad) : (modQuad s q f).mediaBad = s.mediaBad := rfl
@[simp] theorem modQuad_parked (s : State) (q : Nat) (f : Quad → Quad) : (modQuad s q f).parked = s.parked := rfl
@[simp] theorem modQuad_runs (s : State) (q : Nat) (f : Quad → Quad) : (modQuad s q f).runs = s.runs := rfl
@[simp] theorem modQuad_hwMsgs (s : State) (q : Nat) (f : Quad → Quad) : (modQuad s q f).hwMsgs = s.hwMsgs := rfl
@[simp] theorem modQuad_serial (s : State) (q : Nat) (f : Quad → Quad) : (modQuad s q f).serial = s.serial := rfl
@[simp] theorem modQuad_cur (s : State) (q : Nat) (f : Quad → Quad) : (modQuad s q f).cur = s.cur := rfl
@[simp] theorem modQuad_turns (s : State) (q : Nat) (f : Quad → Quad) : (modQuad s q f).turns = s.turns := rfl
@[simp] theorem modQuad_agenda (s : State) (q : Nat) (f : Quad → Quad) : (modQuad s q f).agenda = s.agenda := rfl
@[simp] theorem modQuad_rot (s : State) (q : Nat) (f : Quad → Quad) : (modQuad s q f).rot = s.rot := rfl
@[simp] theorem modQuad_haste (s : State) (q : Nat) (f : Quad → Quad) : (modQuad s q f).haste = s.haste := rfl
@[simp] theorem modQuad_fresh (s : State) (q : Nat) (f : Quad → Quad) : (modQuad s q f).fresh = s.fresh := rfl
@[simp] theorem modQuad_stall (s : State) (q : Nat) (f : Quad → Quad) : (modQuad s q f).stall = s.stall := rfl

@[simp] theorem modCluster_cores (s : State) (c : Nat) (f : Cluster → Cluster) : (modCluster s c f).cores = s.cores := rfl
@[simp] theorem modCluster_quads (s : State) (c : Nat) (f : Cluster → Cluster) : (modCluster s c f).quads = s.quads := rfl
@[simp] theorem modCluster_dev (s : State) (c : Nat) (f : Cluster → Cluster) : (modCluster s c f).dev = s.dev := rfl
@[simp] theorem modCluster_fab (s : State) (c : Nat) (f : Cluster → Cluster) : (modCluster s c f).fab = s.fab := rfl
@[simp] theorem modCluster_queues (s : State) (c : Nat) (f : Cluster → Cluster) : (modCluster s c f).queues = s.queues := rfl
@[simp] theorem modCluster_mbox (s : State) (c : Nat) (f : Cluster → Cluster) : (modCluster s c f).mbox = s.mbox := rfl
@[simp] theorem modCluster_launches (s : State) (c : Nat) (f : Cluster → Cluster) : (modCluster s c f).launches = s.launches := rfl
@[simp] theorem modCluster_nextLaunch (s : State) (c : Nat) (f : Cluster → Cluster) : (modCluster s c f).nextLaunch = s.nextLaunch := rfl
@[simp] theorem modCluster_uncore (s : State) (c : Nat) (f : Cluster → Cluster) : (modCluster s c f).uncore = s.uncore := rfl
@[simp] theorem modCluster_mem (s : State) (c : Nat) (f : Cluster → Cluster) : (modCluster s c f).mem = s.mem := rfl
@[simp] theorem modCluster_full (s : State) (c : Nat) (f : Cluster → Cluster) : (modCluster s c f).full = s.full := rfl
@[simp] theorem modCluster_poison (s : State) (c : Nat) (f : Cluster → Cluster) : (modCluster s c f).poison = s.poison := rfl
@[simp] theorem modCluster_flips (s : State) (c : Nat) (f : Cluster → Cluster) : (modCluster s c f).flips = s.flips := rfl
@[simp] theorem modCluster_tagBad (s : State) (c : Nat) (f : Cluster → Cluster) : (modCluster s c f).tagBad = s.tagBad := rfl
@[simp] theorem modCluster_mediaBad (s : State) (c : Nat) (f : Cluster → Cluster) : (modCluster s c f).mediaBad = s.mediaBad := rfl
@[simp] theorem modCluster_parked (s : State) (c : Nat) (f : Cluster → Cluster) : (modCluster s c f).parked = s.parked := rfl
@[simp] theorem modCluster_runs (s : State) (c : Nat) (f : Cluster → Cluster) : (modCluster s c f).runs = s.runs := rfl
@[simp] theorem modCluster_hwMsgs (s : State) (c : Nat) (f : Cluster → Cluster) : (modCluster s c f).hwMsgs = s.hwMsgs := rfl
@[simp] theorem modCluster_serial (s : State) (c : Nat) (f : Cluster → Cluster) : (modCluster s c f).serial = s.serial := rfl
@[simp] theorem modCluster_cur (s : State) (c : Nat) (f : Cluster → Cluster) : (modCluster s c f).cur = s.cur := rfl
@[simp] theorem modCluster_turns (s : State) (c : Nat) (f : Cluster → Cluster) : (modCluster s c f).turns = s.turns := rfl
@[simp] theorem modCluster_agenda (s : State) (c : Nat) (f : Cluster → Cluster) : (modCluster s c f).agenda = s.agenda := rfl
@[simp] theorem modCluster_rot (s : State) (c : Nat) (f : Cluster → Cluster) : (modCluster s c f).rot = s.rot := rfl
@[simp] theorem modCluster_haste (s : State) (c : Nat) (f : Cluster → Cluster) : (modCluster s c f).haste = s.haste := rfl
@[simp] theorem modCluster_fresh (s : State) (c : Nat) (f : Cluster → Cluster) : (modCluster s c f).fresh = s.fresh := rfl
@[simp] theorem modCluster_stall (s : State) (c : Nat) (f : Cluster → Cluster) : (modCluster s c f).stall = s.stall := rfl

@[simp] theorem modLogical_cores (s : State) (c l : Nat) (f : Logical → Logical) : (modLogical s c l f).cores = s.cores := rfl
@[simp] theorem modLogical_quads (s : State) (c l : Nat) (f : Logical → Logical) : (modLogical s c l f).quads = s.quads := rfl
@[simp] theorem modLogical_dev (s : State) (c l : Nat) (f : Logical → Logical) : (modLogical s c l f).dev = s.dev := rfl
@[simp] theorem modLogical_fab (s : State) (c l : Nat) (f : Logical → Logical) : (modLogical s c l f).fab = s.fab := rfl
@[simp] theorem modLogical_queues (s : State) (c l : Nat) (f : Logical → Logical) : (modLogical s c l f).queues = s.queues := rfl
@[simp] theorem modLogical_mbox (s : State) (c l : Nat) (f : Logical → Logical) : (modLogical s c l f).mbox = s.mbox := rfl
@[simp] theorem modLogical_launches (s : State) (c l : Nat) (f : Logical → Logical) : (modLogical s c l f).launches = s.launches := rfl
@[simp] theorem modLogical_nextLaunch (s : State) (c l : Nat) (f : Logical → Logical) : (modLogical s c l f).nextLaunch = s.nextLaunch := rfl
@[simp] theorem modLogical_uncore (s : State) (c l : Nat) (f : Logical → Logical) : (modLogical s c l f).uncore = s.uncore := rfl
@[simp] theorem modLogical_mem (s : State) (c l : Nat) (f : Logical → Logical) : (modLogical s c l f).mem = s.mem := rfl
@[simp] theorem modLogical_full (s : State) (c l : Nat) (f : Logical → Logical) : (modLogical s c l f).full = s.full := rfl
@[simp] theorem modLogical_poison (s : State) (c l : Nat) (f : Logical → Logical) : (modLogical s c l f).poison = s.poison := rfl
@[simp] theorem modLogical_flips (s : State) (c l : Nat) (f : Logical → Logical) : (modLogical s c l f).flips = s.flips := rfl
@[simp] theorem modLogical_tagBad (s : State) (c l : Nat) (f : Logical → Logical) : (modLogical s c l f).tagBad = s.tagBad := rfl
@[simp] theorem modLogical_mediaBad (s : State) (c l : Nat) (f : Logical → Logical) : (modLogical s c l f).mediaBad = s.mediaBad := rfl
@[simp] theorem modLogical_parked (s : State) (c l : Nat) (f : Logical → Logical) : (modLogical s c l f).parked = s.parked := rfl
@[simp] theorem modLogical_runs (s : State) (c l : Nat) (f : Logical → Logical) : (modLogical s c l f).runs = s.runs := rfl
@[simp] theorem modLogical_hwMsgs (s : State) (c l : Nat) (f : Logical → Logical) : (modLogical s c l f).hwMsgs = s.hwMsgs := rfl
@[simp] theorem modLogical_serial (s : State) (c l : Nat) (f : Logical → Logical) : (modLogical s c l f).serial = s.serial := rfl
@[simp] theorem modLogical_cur (s : State) (c l : Nat) (f : Logical → Logical) : (modLogical s c l f).cur = s.cur := rfl
@[simp] theorem modLogical_turns (s : State) (c l : Nat) (f : Logical → Logical) : (modLogical s c l f).turns = s.turns := rfl
@[simp] theorem modLogical_agenda (s : State) (c l : Nat) (f : Logical → Logical) : (modLogical s c l f).agenda = s.agenda := rfl
@[simp] theorem modLogical_rot (s : State) (c l : Nat) (f : Logical → Logical) : (modLogical s c l f).rot = s.rot := rfl
@[simp] theorem modLogical_haste (s : State) (c l : Nat) (f : Logical → Logical) : (modLogical s c l f).haste = s.haste := rfl
@[simp] theorem modLogical_fresh (s : State) (c l : Nat) (f : Logical → Logical) : (modLogical s c l f).fresh = s.fresh := rfl
@[simp] theorem modLogical_stall (s : State) (c l : Nat) (f : Logical → Logical) : (modLogical s c l f).stall = s.stall := rfl

@[simp] theorem sendTrap_cores (s : State) (k i : Nat) : (sendTrap s k i).cores = s.cores := rfl
@[simp] theorem sendTrap_quads (s : State) (k i : Nat) : (sendTrap s k i).quads = s.quads := rfl
@[simp] theorem sendTrap_dev (s : State) (k i : Nat) : (sendTrap s k i).dev = s.dev := rfl
@[simp] theorem sendTrap_fab (s : State) (k i : Nat) : (sendTrap s k i).fab = s.fab := rfl
@[simp] theorem sendTrap_queues (s : State) (k i : Nat) : (sendTrap s k i).queues = s.queues := rfl
@[simp] theorem sendTrap_mbox (s : State) (k i : Nat) : (sendTrap s k i).mbox = s.mbox := rfl
@[simp] theorem sendTrap_launches (s : State) (k i : Nat) : (sendTrap s k i).launches = s.launches := rfl
@[simp] theorem sendTrap_nextLaunch (s : State) (k i : Nat) : (sendTrap s k i).nextLaunch = s.nextLaunch := rfl
@[simp] theorem sendTrap_uncore (s : State) (k i : Nat) : (sendTrap s k i).uncore = s.uncore := rfl
@[simp] theorem sendTrap_mem (s : State) (k i : Nat) : (sendTrap s k i).mem = s.mem := rfl
@[simp] theorem sendTrap_full (s : State) (k i : Nat) : (sendTrap s k i).full = s.full := rfl
@[simp] theorem sendTrap_poison (s : State) (k i : Nat) : (sendTrap s k i).poison = s.poison := rfl
@[simp] theorem sendTrap_flips (s : State) (k i : Nat) : (sendTrap s k i).flips = s.flips := rfl
@[simp] theorem sendTrap_tagBad (s : State) (k i : Nat) : (sendTrap s k i).tagBad = s.tagBad := rfl
@[simp] theorem sendTrap_mediaBad (s : State) (k i : Nat) : (sendTrap s k i).mediaBad = s.mediaBad := rfl
@[simp] theorem sendTrap_parked (s : State) (k i : Nat) : (sendTrap s k i).parked = s.parked := rfl
@[simp] theorem sendTrap_runs (s : State) (k i : Nat) : (sendTrap s k i).runs = s.runs := rfl
@[simp] theorem sendTrap_hwMsgs (s : State) (k i : Nat) : (sendTrap s k i).hwMsgs = s.hwMsgs := rfl
@[simp] theorem sendTrap_serial (s : State) (k i : Nat) : (sendTrap s k i).serial = s.serial := rfl
@[simp] theorem sendTrap_cur (s : State) (k i : Nat) : (sendTrap s k i).cur = s.cur := rfl
@[simp] theorem sendTrap_turns (s : State) (k i : Nat) : (sendTrap s k i).turns = s.turns := rfl
@[simp] theorem sendTrap_agenda (s : State) (k i : Nat) : (sendTrap s k i).agenda = s.agenda := rfl
@[simp] theorem sendTrap_rot (s : State) (k i : Nat) : (sendTrap s k i).rot = s.rot := rfl
@[simp] theorem sendTrap_haste (s : State) (k i : Nat) : (sendTrap s k i).haste = s.haste := rfl
@[simp] theorem sendTrap_fresh (s : State) (k i : Nat) : (sendTrap s k i).fresh = s.fresh := rfl
@[simp] theorem sendTrap_stall (s : State) (k i : Nat) : (sendTrap s k i).stall = s.stall := rfl

@[simp] theorem modQueue_cores (s : State) (q : Nat) (f : Queue → Queue) : (modQueue s q f).cores = s.cores := rfl
@[simp] theorem modQueue_quads (s : State) (q : Nat) (f : Queue → Queue) : (modQueue s q f).quads = s.quads := rfl
@[simp] theorem modQueue_clusters (s : State) (q : Nat) (f : Queue → Queue) : (modQueue s q f).clusters = s.clusters := rfl
@[simp] theorem modQueue_dev (s : State) (q : Nat) (f : Queue → Queue) : (modQueue s q f).dev = s.dev := rfl
@[simp] theorem modQueue_fab (s : State) (q : Nat) (f : Queue → Queue) : (modQueue s q f).fab = s.fab := rfl
@[simp] theorem modQueue_mbox (s : State) (q : Nat) (f : Queue → Queue) : (modQueue s q f).mbox = s.mbox := rfl
@[simp] theorem modQueue_launches (s : State) (q : Nat) (f : Queue → Queue) : (modQueue s q f).launches = s.launches := rfl
@[simp] theorem modQueue_nextLaunch (s : State) (q : Nat) (f : Queue → Queue) : (modQueue s q f).nextLaunch = s.nextLaunch := rfl
@[simp] theorem modQueue_uncore (s : State) (q : Nat) (f : Queue → Queue) : (modQueue s q f).uncore = s.uncore := rfl
@[simp] theorem modQueue_mem (s : State) (q : Nat) (f : Queue → Queue) : (modQueue s q f).mem = s.mem := rfl
@[simp] theorem modQueue_full (s : State) (q : Nat) (f : Queue → Queue) : (modQueue s q f).full = s.full := rfl
@[simp] theorem modQueue_poison (s : State) (q : Nat) (f : Queue → Queue) : (modQueue s q f).poison = s.poison := rfl
@[simp] theorem modQueue_flips (s : State) (q : Nat) (f : Queue → Queue) : (modQueue s q f).flips = s.flips := rfl
@[simp] theorem modQueue_tagBad (s : State) (q : Nat) (f : Queue → Queue) : (modQueue s q f).tagBad = s.tagBad := rfl
@[simp] theorem modQueue_mediaBad (s : State) (q : Nat) (f : Queue → Queue) : (modQueue s q f).mediaBad = s.mediaBad := rfl
@[simp] theorem modQueue_parked (s : State) (q : Nat) (f : Queue → Queue) : (modQueue s q f).parked = s.parked := rfl
@[simp] theorem modQueue_runs (s : State) (q : Nat) (f : Queue → Queue) : (modQueue s q f).runs = s.runs := rfl
@[simp] theorem modQueue_hwMsgs (s : State) (q : Nat) (f : Queue → Queue) : (modQueue s q f).hwMsgs = s.hwMsgs := rfl
@[simp] theorem modQueue_serial (s : State) (q : Nat) (f : Queue → Queue) : (modQueue s q f).serial = s.serial := rfl
@[simp] theorem modQueue_cur (s : State) (q : Nat) (f : Queue → Queue) : (modQueue s q f).cur = s.cur := rfl
@[simp] theorem modQueue_turns (s : State) (q : Nat) (f : Queue → Queue) : (modQueue s q f).turns = s.turns := rfl
@[simp] theorem modQueue_agenda (s : State) (q : Nat) (f : Queue → Queue) : (modQueue s q f).agenda = s.agenda := rfl
@[simp] theorem modQueue_rot (s : State) (q : Nat) (f : Queue → Queue) : (modQueue s q f).rot = s.rot := rfl
@[simp] theorem modQueue_haste (s : State) (q : Nat) (f : Queue → Queue) : (modQueue s q f).haste = s.haste := rfl
@[simp] theorem modQueue_fresh (s : State) (q : Nat) (f : Queue → Queue) : (modQueue s q f).fresh = s.fresh := rfl
@[simp] theorem modQueue_stall (s : State) (q : Nat) (f : Queue → Queue) : (modQueue s q f).stall = s.stall := rfl

@[simp] theorem modDev_cores (s : State) (f : Device → Device) : (modDev s f).cores = s.cores := rfl
@[simp] theorem modDev_quads (s : State) (f : Device → Device) : (modDev s f).quads = s.quads := rfl
@[simp] theorem modDev_clusters (s : State) (f : Device → Device) : (modDev s f).clusters = s.clusters := rfl
@[simp] theorem modDev_fab (s : State) (f : Device → Device) : (modDev s f).fab = s.fab := rfl
@[simp] theorem modDev_queues (s : State) (f : Device → Device) : (modDev s f).queues = s.queues := rfl
@[simp] theorem modDev_mbox (s : State) (f : Device → Device) : (modDev s f).mbox = s.mbox := rfl
@[simp] theorem modDev_launches (s : State) (f : Device → Device) : (modDev s f).launches = s.launches := rfl
@[simp] theorem modDev_nextLaunch (s : State) (f : Device → Device) : (modDev s f).nextLaunch = s.nextLaunch := rfl
@[simp] theorem modDev_uncore (s : State) (f : Device → Device) : (modDev s f).uncore = s.uncore := rfl
@[simp] theorem modDev_mem (s : State) (f : Device → Device) : (modDev s f).mem = s.mem := rfl
@[simp] theorem modDev_full (s : State) (f : Device → Device) : (modDev s f).full = s.full := rfl
@[simp] theorem modDev_poison (s : State) (f : Device → Device) : (modDev s f).poison = s.poison := rfl
@[simp] theorem modDev_flips (s : State) (f : Device → Device) : (modDev s f).flips = s.flips := rfl
@[simp] theorem modDev_tagBad (s : State) (f : Device → Device) : (modDev s f).tagBad = s.tagBad := rfl
@[simp] theorem modDev_mediaBad (s : State) (f : Device → Device) : (modDev s f).mediaBad = s.mediaBad := rfl
@[simp] theorem modDev_parked (s : State) (f : Device → Device) : (modDev s f).parked = s.parked := rfl
@[simp] theorem modDev_runs (s : State) (f : Device → Device) : (modDev s f).runs = s.runs := rfl
@[simp] theorem modDev_hwMsgs (s : State) (f : Device → Device) : (modDev s f).hwMsgs = s.hwMsgs := rfl
@[simp] theorem modDev_serial (s : State) (f : Device → Device) : (modDev s f).serial = s.serial := rfl
@[simp] theorem modDev_cur (s : State) (f : Device → Device) : (modDev s f).cur = s.cur := rfl
@[simp] theorem modDev_turns (s : State) (f : Device → Device) : (modDev s f).turns = s.turns := rfl
@[simp] theorem modDev_agenda (s : State) (f : Device → Device) : (modDev s f).agenda = s.agenda := rfl
@[simp] theorem modDev_rot (s : State) (f : Device → Device) : (modDev s f).rot = s.rot := rfl
@[simp] theorem modDev_haste (s : State) (f : Device → Device) : (modDev s f).haste = s.haste := rfl
@[simp] theorem modDev_fresh (s : State) (f : Device → Device) : (modDev s f).fresh = s.fresh := rfl
@[simp] theorem modDev_stall (s : State) (f : Device → Device) : (modDev s f).stall = s.stall := rfl

@[simp] theorem post_cores (s : State) (i : Instr) : (post s i).cores = s.cores := rfl
@[simp] theorem post_quads (s : State) (i : Instr) : (post s i).quads = s.quads := rfl
@[simp] theorem post_clusters (s : State) (i : Instr) : (post s i).clusters = s.clusters := rfl
@[simp] theorem post_dev (s : State) (i : Instr) : (post s i).dev = s.dev := rfl
@[simp] theorem post_fab (s : State) (i : Instr) : (post s i).fab = s.fab := rfl
@[simp] theorem post_queues (s : State) (i : Instr) : (post s i).queues = s.queues := rfl
@[simp] theorem post_mbox (s : State) (i : Instr) : (post s i).mbox = s.mbox := rfl
@[simp] theorem post_launches (s : State) (i : Instr) : (post s i).launches = s.launches := rfl
@[simp] theorem post_nextLaunch (s : State) (i : Instr) : (post s i).nextLaunch = s.nextLaunch := rfl
@[simp] theorem post_uncore (s : State) (i : Instr) : (post s i).uncore = s.uncore := rfl
@[simp] theorem post_mem (s : State) (i : Instr) : (post s i).mem = s.mem := rfl
@[simp] theorem post_full (s : State) (i : Instr) : (post s i).full = s.full := rfl
@[simp] theorem post_poison (s : State) (i : Instr) : (post s i).poison = s.poison := rfl
@[simp] theorem post_flips (s : State) (i : Instr) : (post s i).flips = s.flips := rfl
@[simp] theorem post_tagBad (s : State) (i : Instr) : (post s i).tagBad = s.tagBad := rfl
@[simp] theorem post_mediaBad (s : State) (i : Instr) : (post s i).mediaBad = s.mediaBad := rfl
@[simp] theorem post_parked (s : State) (i : Instr) : (post s i).parked = s.parked := rfl
@[simp] theorem post_runs (s : State) (i : Instr) : (post s i).runs = s.runs := rfl
@[simp] theorem post_hwMsgs (s : State) (i : Instr) : (post s i).hwMsgs = s.hwMsgs := rfl
@[simp] theorem post_serial (s : State) (i : Instr) : (post s i).serial = s.serial := rfl
@[simp] theorem post_cur (s : State) (i : Instr) : (post s i).cur = s.cur := rfl
@[simp] theorem post_turns (s : State) (i : Instr) : (post s i).turns = s.turns := rfl
@[simp] theorem post_rot (s : State) (i : Instr) : (post s i).rot = s.rot := rfl
@[simp] theorem post_haste (s : State) (i : Instr) : (post s i).haste = s.haste := rfl
@[simp] theorem post_fresh (s : State) (i : Instr) : (post s i).fresh = s.fresh := rfl
@[simp] theorem post_stall (s : State) (i : Instr) : (post s i).stall = s.stall := rfl

/-! ### Places after an update -/

@[simp] theorem coreOf_setCore_same (s : State) (k : Nat) (c : Core) : coreOf (setCore s k c) k = c := by
  simp [coreOf, setCore]

theorem coreOf_setCore_ne (s : State) {k j : Nat} (c : Core) (h : j ≠ k) : coreOf (setCore s k c) j = coreOf s j := by
  simp [coreOf, setCore, tget_tput_ne _ _ _ h]

@[simp] theorem coreOf_modCore_same (s : State) (k : Nat) (f : Core → Core) : coreOf (modCore s k f) k = f (coreOf s k) := by
  simp [modCore]

theorem coreOf_modCore_ne (s : State) {k j : Nat} (f : Core → Core) (h : j ≠ k) : coreOf (modCore s k f) j = coreOf s j := by
  simp [modCore, coreOf_setCore_ne _ _ h]

@[simp] theorem setCore_setCore (s : State) (k : Nat) (c d : Core) : setCore (setCore s k c) k d = setCore s k d := by
  simp [setCore]

@[simp] theorem slotOf_setSlot_same (s : State) (k i : Nat) (x : Slot) : slotOf (setSlot s k i x) k i = x := by
  simp [slotOf, setSlot]

theorem slotOf_setSlot_ne (s : State) {k i j : Nat} (x : Slot) (h : j ≠ i) : slotOf (setSlot s k i x) k j = slotOf s k j := by
  simp [slotOf, setSlot, tget_tput_ne _ _ _ h]

theorem coreOf_setSlot_ne (s : State) {k i j : Nat} (x : Slot) (h : j ≠ k) : coreOf (setSlot s k i x) j = coreOf s j := by
  simp [setSlot, coreOf_modCore_ne _ _ h]

theorem slotOf_setSlot_core (s : State) {k i j n : Nat} (x : Slot) (h : j ≠ k) : slotOf (setSlot s k i x) j n = slotOf s j n := by
  simp [slotOf, coreOf_setSlot_ne _ _ h]

@[simp] theorem setSlot_setSlot (s : State) (k i : Nat) (x y : Slot) : setSlot (setSlot s k i x) k i y = setSlot s k i y := by
  simp [setSlot, modCore]

@[simp] theorem slotOf_modSlot_same (s : State) (k i : Nat) (f : Slot → Slot) : slotOf (modSlot s k i f) k i = f (slotOf s k i) := by
  simp [modSlot]

@[simp] theorem modSlot_modSlot (s : State) (k i : Nat) (f g : Slot → Slot) :
    modSlot (modSlot s k i f) k i g = modSlot s k i fun x => g (f x) := by
  simp [modSlot]

@[simp] theorem quadOf_modQuad_same (s : State) (q : Nat) (f : Quad → Quad) : quadOf (modQuad s q f) q = f (quadOf s q) := by
  simp [quadOf, modQuad]

theorem quadOf_modQuad_ne (s : State) {q j : Nat} (f : Quad → Quad) (h : j ≠ q) : quadOf (modQuad s q f) j = quadOf s j := by
  simp [quadOf, modQuad, tget_tput_ne _ _ _ h]

@[simp] theorem clusterOf_modCluster_same (s : State) (c : Nat) (f : Cluster → Cluster) :
    clusterOf (modCluster s c f) c = f (clusterOf s c) := by
  simp [clusterOf, modCluster]

theorem clusterOf_modCluster_ne (s : State) {c j : Nat} (f : Cluster → Cluster) (h : j ≠ c) :
    clusterOf (modCluster s c f) j = clusterOf s j := by
  simp [clusterOf, modCluster, tget_tput_ne _ _ _ h]

@[simp] theorem logicalOf_modLogical_same (s : State) (c l : Nat) (f : Logical → Logical) :
    logicalOf (modLogical s c l f) c l = f (logicalOf s c l) := by
  simp [logicalOf, modLogical]

@[simp] theorem queueOf_modQueue_same (s : State) (q : Nat) (f : Queue → Queue) : queueOf (modQueue s q f) q = f (queueOf s q) := by
  simp [queueOf, modQueue]

theorem queueOf_modQueue_ne (s : State) {q j : Nat} (f : Queue → Queue) (h : j ≠ q) : queueOf (modQueue s q f) j = queueOf s j := by
  simp [queueOf, modQueue, tget_tput_ne _ _ _ h]

/-! Updates of one part leave the others' places as they were. -/

@[simp] theorem quadOf_setCore (s : State) (k : Nat) (c : Core) (j : Nat) : quadOf (setCore s k c) j = quadOf s j := rfl
@[simp] theorem clusterOf_setCore (s : State) (k : Nat) (c : Core) (j : Nat) : clusterOf (setCore s k c) j = clusterOf s j := rfl
@[simp] theorem logicalOf_setCore (s : State) (k : Nat) (c : Core) (j m : Nat) : logicalOf (setCore s k c) j m = logicalOf s j m := rfl
@[simp] theorem queueOf_setCore (s : State) (k : Nat) (c : Core) (j : Nat) : queueOf (setCore s k c) j = queueOf s j := rfl
@[simp] theorem quadOf_modCore (s : State) (k : Nat) (f : Core → Core) (j : Nat) : quadOf (modCore s k f) j = quadOf s j := rfl
@[simp] theorem clusterOf_modCore (s : State) (k : Nat) (f : Core → Core) (j : Nat) : clusterOf (modCore s k f) j = clusterOf s j := rfl
@[simp] theorem logicalOf_modCore (s : State) (k : Nat) (f : Core → Core) (j m : Nat) : logicalOf (modCore s k f) j m = logicalOf s j m := rfl
@[simp] theorem queueOf_modCore (s : State) (k : Nat) (f : Core → Core) (j : Nat) : queueOf (modCore s k f) j = queueOf s j := rfl
@[simp] theorem quadOf_setSlot (s : State) (k i : Nat) (x : Slot) (j : Nat) : quadOf (setSlot s k i x) j = quadOf s j := rfl
@[simp] theorem clusterOf_setSlot (s : State) (k i : Nat) (x : Slot) (j : Nat) : clusterOf (setSlot s k i x) j = clusterOf s j := rfl
@[simp] theorem logicalOf_setSlot (s : State) (k i : Nat) (x : Slot) (j m : Nat) : logicalOf (setSlot s k i x) j m = logicalOf s j m := rfl
@[simp] theorem queueOf_setSlot (s : State) (k i : Nat) (x : Slot) (j : Nat) : queueOf (setSlot s k i x) j = queueOf s j := rfl
@[simp] theorem quadOf_modSlot (s : State) (k i : Nat) (f : Slot → Slot) (j : Nat) : quadOf (modSlot s k i f) j = quadOf s j := rfl
@[simp] theorem clusterOf_modSlot (s : State) (k i : Nat) (f : Slot → Slot) (j : Nat) : clusterOf (modSlot s k i f) j = clusterOf s j := rfl
@[simp] theorem logicalOf_modSlot (s : State) (k i : Nat) (f : Slot → Slot) (j m : Nat) : logicalOf (modSlot s k i f) j m = logicalOf s j m := rfl
@[simp] theorem queueOf_modSlot (s : State) (k i : Nat) (f : Slot → Slot) (j : Nat) : queueOf (modSlot s k i f) j = queueOf s j := rfl
@[simp] theorem quadOf_modCur (s : State) (f : Slot → Slot) (j : Nat) : quadOf (modCur s f) j = quadOf s j := rfl
@[simp] theorem clusterOf_modCur (s : State) (f : Slot → Slot) (j : Nat) : clusterOf (modCur s f) j = clusterOf s j := rfl
@[simp] theorem logicalOf_modCur (s : State) (f : Slot → Slot) (j m : Nat) : logicalOf (modCur s f) j m = logicalOf s j m := rfl
@[simp] theorem queueOf_modCur (s : State) (f : Slot → Slot) (j : Nat) : queueOf (modCur s f) j = queueOf s j := rfl
@[simp] theorem quadOf_goTo (s : State) (pc : Word) (j : Nat) : quadOf (goTo s pc) j = quadOf s j := rfl
@[simp] theorem clusterOf_goTo (s : State) (pc : Word) (j : Nat) : clusterOf (goTo s pc) j = clusterOf s j := rfl
@[simp] theorem logicalOf_goTo (s : State) (pc : Word) (j m : Nat) : logicalOf (goTo s pc) j m = logicalOf s j m := rfl
@[simp] theorem queueOf_goTo (s : State) (pc : Word) (j : Nat) : queueOf (goTo s pc) j = queueOf s j := rfl
@[simp] theorem quadOf_setName (s : State) (k i : Nat) (n : Name) (e : NameEntry) (j : Nat) : quadOf (setName s k i n e) j = quadOf s j := rfl
@[simp] theorem clusterOf_setName (s : State) (k i : Nat) (n : Name) (e : NameEntry) (j : Nat) : clusterOf (setName s k i n e) j = clusterOf s j := rfl
@[simp] theorem logicalOf_setName (s : State) (k i : Nat) (n : Name) (e : NameEntry) (j m : Nat) : logicalOf (setName s k i n e) j m = logicalOf s j m := rfl
@[simp] theorem queueOf_setName (s : State) (k i : Nat) (n : Name) (e : NameEntry) (j : Nat) : queueOf (setName s k i n e) j = queueOf s j := rfl
@[simp] theorem quadOf_setDq (s : State) (k q : Nat) (d : DataQueue) (j : Nat) : quadOf (setDq s k q d) j = quadOf s j := rfl
@[simp] theorem clusterOf_setDq (s : State) (k q : Nat) (d : DataQueue) (j : Nat) : clusterOf (setDq s k q d) j = clusterOf s j := rfl
@[simp] theorem logicalOf_setDq (s : State) (k q : Nat) (d : DataQueue) (j m : Nat) : logicalOf (setDq s k q d) j m = logicalOf s j m := rfl
@[simp] theorem queueOf_setDq (s : State) (k q : Nat) (d : DataQueue) (j : Nat) : queueOf (setDq s k q d) j = queueOf s j := rfl
@[simp] theorem quadOf_park (s : State) (w : Wait) (j : Nat) : quadOf (park s w) j = quadOf s j := rfl
@[simp] theorem clusterOf_park (s : State) (w : Wait) (j : Nat) : clusterOf (park s w) j = clusterOf s j := rfl
@[simp] theorem logicalOf_park (s : State) (w : Wait) (j m : Nat) : logicalOf (park s w) j m = logicalOf s j m := rfl
@[simp] theorem queueOf_park (s : State) (w : Wait) (j : Nat) : queueOf (park s w) j = queueOf s j := rfl
@[simp] theorem quadOf_finishWait (s : State) (k i : Nat) (j : Nat) : quadOf (finishWait s k i) j = quadOf s j := rfl
@[simp] theorem clusterOf_finishWait (s : State) (k i : Nat) (j : Nat) : clusterOf (finishWait s k i) j = clusterOf s j := rfl
@[simp] theorem logicalOf_finishWait (s : State) (k i : Nat) (j m : Nat) : logicalOf (finishWait s k i) j m = logicalOf s j m := rfl
@[simp] theorem queueOf_finishWait (s : State) (k i : Nat) (j : Nat) : queueOf (finishWait s k i) j = queueOf s j := rfl
@[simp] theorem quadOf_wake (s : State) (k i : Nat) (j : Nat) : quadOf (wake s k i) j = quadOf s j := rfl
@[simp] theorem clusterOf_wake (s : State) (k i : Nat) (j : Nat) : clusterOf (wake s k i) j = clusterOf s j := rfl
@[simp] theorem logicalOf_wake (s : State) (k i : Nat) (j m : Nat) : logicalOf (wake s k i) j m = logicalOf s j m := rfl
@[simp] theorem queueOf_wake (s : State) (k i : Nat) (j : Nat) : queueOf (wake s k i) j = queueOf s j := rfl
@[simp] theorem coreOf_modQuad (s : State) (q : Nat) (f : Quad → Quad) (j : Nat) : coreOf (modQuad s q f) j = coreOf s j := rfl
@[simp] theorem slotOf_modQuad (s : State) (q : Nat) (f : Quad → Quad) (j m : Nat) : slotOf (modQuad s q f) j m = slotOf s j m := rfl
@[simp] theorem clusterOf_modQuad (s : State) (q : Nat) (f : Quad → Quad) (j : Nat) : clusterOf (modQuad s q f) j = clusterOf s j := rfl
@[simp] theorem logicalOf_modQuad (s : State) (q : Nat) (f : Quad → Quad) (j m : Nat) : logicalOf (modQuad s q f) j m = logicalOf s j m := rfl
@[simp] theorem queueOf_modQuad (s : State) (q : Nat) (f : Quad → Quad) (j : Nat) : queueOf (modQuad s q f) j = queueOf s j := rfl
@[simp] theorem coreOf_modCluster (s : State) (c : Nat) (f : Cluster → Cluster) (j : Nat) : coreOf (modCluster s c f) j = coreOf s j := rfl
@[simp] theorem slotOf_modCluster (s : State) (c : Nat) (f : Cluster → Cluster) (j m : Nat) : slotOf (modCluster s c f) j m = slotOf s j m := rfl
@[simp] theorem quadOf_modCluster (s : State) (c : Nat) (f : Cluster → Cluster) (j : Nat) : quadOf (modCluster s c f) j = quadOf s j := rfl
@[simp] theorem queueOf_modCluster (s : State) (c : Nat) (f : Cluster → Cluster) (j : Nat) : queueOf (modCluster s c f) j = queueOf s j := rfl
@[simp] theorem coreOf_modLogical (s : State) (c l : Nat) (f : Logical → Logical) (j : Nat) : coreOf (modLogical s c l f) j = coreOf s j := rfl
@[simp] theorem slotOf_modLogical (s : State) (c l : Nat) (f : Logical → Logical) (j m : Nat) : slotOf (modLogical s c l f) j m = slotOf s j m := rfl
@[simp] theorem quadOf_modLogical (s : State) (c l : Nat) (f : Logical → Logical) (j : Nat) : quadOf (modLogical s c l f) j = quadOf s j := rfl
@[simp] theorem queueOf_modLogical (s : State) (c l : Nat) (f : Logical → Logical) (j : Nat) : queueOf (modLogical s c l f) j = queueOf s j := rfl
@[simp] theorem coreOf_sendTrap (s : State) (k i : Nat) (j : Nat) : coreOf (sendTrap s k i) j = coreOf s j := rfl
@[simp] theorem slotOf_sendTrap (s : State) (k i : Nat) (j m : Nat) : slotOf (sendTrap s k i) j m = slotOf s j m := rfl
@[simp] theorem quadOf_sendTrap (s : State) (k i : Nat) (j : Nat) : quadOf (sendTrap s k i) j = quadOf s j := rfl
@[simp] theorem queueOf_sendTrap (s : State) (k i : Nat) (j : Nat) : queueOf (sendTrap s k i) j = queueOf s j := rfl
@[simp] theorem coreOf_modQueue (s : State) (q : Nat) (f : Queue → Queue) (j : Nat) : coreOf (modQueue s q f) j = coreOf s j := rfl
@[simp] theorem slotOf_modQueue (s : State) (q : Nat) (f : Queue → Queue) (j m : Nat) : slotOf (modQueue s q f) j m = slotOf s j m := rfl
@[simp] theorem quadOf_modQueue (s : State) (q : Nat) (f : Queue → Queue) (j : Nat) : quadOf (modQueue s q f) j = quadOf s j := rfl
@[simp] theorem clusterOf_modQueue (s : State) (q : Nat) (f : Queue → Queue) (j : Nat) : clusterOf (modQueue s q f) j = clusterOf s j := rfl
@[simp] theorem logicalOf_modQueue (s : State) (q : Nat) (f : Queue → Queue) (j m : Nat) : logicalOf (modQueue s q f) j m = logicalOf s j m := rfl
@[simp] theorem coreOf_modDev (s : State) (f : Device → Device) (j : Nat) : coreOf (modDev s f) j = coreOf s j := rfl
@[simp] theorem slotOf_modDev (s : State) (f : Device → Device) (j m : Nat) : slotOf (modDev s f) j m = slotOf s j m := rfl
@[simp] theorem quadOf_modDev (s : State) (f : Device → Device) (j : Nat) : quadOf (modDev s f) j = quadOf s j := rfl
@[simp] theorem clusterOf_modDev (s : State) (f : Device → Device) (j : Nat) : clusterOf (modDev s f) j = clusterOf s j := rfl
@[simp] theorem logicalOf_modDev (s : State) (f : Device → Device) (j m : Nat) : logicalOf (modDev s f) j m = logicalOf s j m := rfl
@[simp] theorem queueOf_modDev (s : State) (f : Device → Device) (j : Nat) : queueOf (modDev s f) j = queueOf s j := rfl
@[simp] theorem coreOf_post (s : State) (i : Instr) (j : Nat) : coreOf (post s i) j = coreOf s j := rfl
@[simp] theorem slotOf_post (s : State) (i : Instr) (j m : Nat) : slotOf (post s i) j m = slotOf s j m := rfl
@[simp] theorem quadOf_post (s : State) (i : Instr) (j : Nat) : quadOf (post s i) j = quadOf s j := rfl
@[simp] theorem clusterOf_post (s : State) (i : Instr) (j : Nat) : clusterOf (post s i) j = clusterOf s j := rfl
@[simp] theorem logicalOf_post (s : State) (i : Instr) (j m : Nat) : logicalOf (post s i) j m = logicalOf s j m := rfl
@[simp] theorem queueOf_post (s : State) (i : Instr) (j : Nat) : queueOf (post s i) j = queueOf s j := rfl

@[simp] theorem curSlot_modCur (s : State) (f : Slot → Slot) : curSlot (modCur s f) = f (curSlot s) := by
  simp [curSlot, modCur]

@[simp] theorem modCur_modCur (s : State) (f g : Slot → Slot) : modCur (modCur s f) g = modCur s fun x => g (f x) := by
  simp [modCur]

end Sys2Proof.Machine
end

