-- ==== Sys2Proof/Laws/Operands.lean ====
section
/-! SUPPORT. What reading and writing a name can do: everything but the cores, the clusters' copies of the flags and the serial counter stays as it was. -/

namespace Sys2Proof.Claims

open Sys2Proof.Machine

theorem StrandSide.refl (s : State) : StrandSide s s := rfl

theorem StrandSide.trans {s t u : State} (h : StrandSide s t) (k : StrandSide t u) : StrandSide s u := by
  unfold StrandSide at *; rw [k, h]

theorem StrandSide.cur {s t : State} (h : StrandSide s t) : t.cur = s.cur := by rw [h]
theorem StrandSide.mem {s t : State} (h : StrandSide s t) : t.mem = s.mem := by rw [h]

theorem StrandSide.device {s t : State} (h : StrandSide s t) : SameDevice s t := by
  rw [h]; simp [SameDevice, SameMemory]

@[simp] theorem StrandSide.of_modCore (s : State) (k : Nat) (f : Core → Core) : StrandSide s (modCore s k f) := rfl
@[simp] theorem StrandSide.of_setSlot (s : State) (k i : Nat) (x : Slot) : StrandSide s (setSlot s k i x) := rfl
@[simp] theorem StrandSide.of_modSlot (s : State) (k i : Nat) (f : Slot → Slot) : StrandSide s (modSlot s k i f) := rfl
@[simp] theorem StrandSide.of_setName (s : State) (k i : Nat) (n : Name) (e : NameEntry) : StrandSide s (setName s k i n e) := rfl
@[simp] theorem StrandSide.of_setDq (s : State) (k q : Nat) (d : DataQueue) : StrandSide s (setDq s k q d) := rfl
@[simp] theorem StrandSide.of_modCluster (s : State) (c : Nat) (f : Cluster → Cluster) : StrandSide s (modCluster s c f) := rfl
@[simp] theorem StrandSide.of_modLogical (s : State) (c l : Nat) (f : Logical → Logical) : StrandSide s (modLogical s c l f) := rfl
@[simp] theorem StrandSide.of_sendTrap (s : State) (k i : Nat) : StrandSide s (sendTrap s k i) := rfl
@[simp] theorem StrandSide.of_serial (s : State) (n : Nat) : StrandSide s { s with serial := n } := rfl

theorem StrandSide.of_raiseFlags (s : State) (k i : Nat) (f : BitVec 8) : StrandSide s (raiseFlags s k i f) := by
  unfold Machine.raiseFlags
  split
  · exact .refl s
  · split <;> rfl

theorem StrandSide.of_putName (s : State) (k i : Nat) (n : Name) (e : NameEntry) (v : Int) (b : Bool) :
    StrandSide s (putName s k i n e v b) := (StrandSide.of_setName s k i n _).trans (.of_raiseFlags _ k i _)

theorem StrandSide.of_finishVfrom (s : State) (k q : Nat) : StrandSide s (finishVfrom s k q) := by
  unfold Machine.finishVfrom
  simp only
  split
  · split
    · split
      · split <;> rfl
      · rfl
    · exact .refl s
  · exact .refl s

theorem StrandSide.of_settleOnce (s : State) (k q : Nat) : StrandSide s (settleOnce k q s) :=
  (show StrandSide s { Machine.setDq s k q (settle (queueCap q) s.serial 64 (dqOf s k q)) with serial := s.serial + 64 }
    from rfl).trans (.of_finishVfrom _ k q)

theorem StrandSide.of_settleTimes (n k q : Nat) (s : State) : StrandSide s (settleTimes n k q s) := by
  induction n generalizing s with
  | zero => exact .refl s
  | succ n ih => exact (StrandSide.of_settleOnce s k q).trans (ih _)

theorem StrandSide.of_settleQueue (s : State) (k q : Nat) : StrandSide s (settleQueue s k q) := by
  unfold Machine.settleQueue
  simp only
  split
  · exact .refl s
  · exact .of_settleTimes _ k q s

theorem popHead_ok {q : Nat} {s t : State} {w : Word} (h : popHead q s = .ok w t) : StrandSide s t := by
  unfold popHead at h
  simp only at h
  split at h
  · cases h; exact ((StrandSide.of_setDq s _ q _).trans (.of_settleQueue _ _ q)).trans (.of_modSlot _ _ _ _)
  · cases h

theorem popQueue_ok {q : Nat} {s t : State} {w : Word} (h : popQueue q s = .ok w t) : StrandSide s t := by
  unfold popQueue at h
  simp only at h
  split at h
  · cases h; exact .of_modSlot _ _ _ _
  · exact popHead_ok h

/-- What a raise point leaves when it raises nothing: the state as it was. -/
theorem raisePoint_ok {s t : State} (h : raisePoint s = .ok () t) : t = s := by
  unfold raisePoint at h
  split at h <;> cases h
  rfl

theorem pushNow_ok {q : Nat} {v : Word} {s t : State} (h : pushNow q v s = .ok () t) : StrandSide s t := by
  unfold pushNow at h
  simp only at h
  split at h
  · cases h
    exact (show StrandSide s { Machine.setDq s s.cur.core q _ with serial := s.serial + 1 } from rfl).trans (.of_settleQueue _ _ q)
  · cases h

/-- What precedes a body in a sequence, when the whole completes. -/
theorem seq_ok {α : Type} {x : Ans Unit} {f : State → Ans α} {r : α} {t : State} (h : x.seq f = .ok r t) : ∃ u, x = .ok () u ∧ f u = .ok r t := by
  cases x <;> first | exact ⟨_, rfl, h⟩ | cases h

theorem pushQueue_ok {q : Nat} {v : Word} {s t : State} (h : pushQueue q v s = .ok () t) : StrandSide s t := by
  obtain ⟨u, hu, h⟩ := seq_ok h
  cases raisePoint_ok hu
  exact pushNow_ok h

theorem reserveQueue_ok {q n : Nat} {s t : State} (h : reserveQueue q s = .ok n t) : StrandSide s t := by
  obtain ⟨u, hu, h⟩ := seq_ok h
  cases raisePoint_ok hu
  simp only at h
  split at h
  · cases h; rfl
  · cases h

/-- A value read leaves everything but the queue it was popped from. -/
theorem readName_ok {n : Name} {s t : State} {x : Int} (h : readName n s = .ok x t) : StrandSide s t := by
  unfold readName at h
  split at h
  · cases hp : popQueue (queueIdx n) s with
    | ok w u => rw [hp] at h; cases h; exact popQueue_ok hp
    | _ => rw [hp] at h; cases h
  · split at h
    · cases h; exact .refl s
    · split at h
      · cases h; exact .refl s
      · cases h

theorem writeName_ok {n : Name} {s t : State} {x : Int} (h : writeName n x s = .ok () t) : StrandSide s t := by
  unfold writeName at h
  split at h
  · exact pushQueue_ok h
  · split at h
    · split at h
      · cases h; rfl
      · cases h
    · split at h
      · cases h
      · split at h
        · cases h; exact .of_putName s _ _ n _ _ _
        · cases h

theorem widthOfName_ok {n : Name} {s t : State} {w : Nat} (h : widthOfName n s = .ok w t) : t = s := by
  unfold widthOfName at h
  split at h
  · cases h; rfl
  · split at h <;> cases h
    rfl

theorem signedOfName_ok {n : Name} {s t : State} {g : Bool} (h : signedOfName n s = .ok g t) : t = s := by
  unfold signedOfName at h
  split at h
  · cases h; rfl
  · split at h <;> cases h
    rfl

theorem deferWrite_ok {n : Name} {s t : State} {x : Option Int} {err : Option (Nat × Word)} {p : Bool} {m : Nat}
    (h : deferWrite n x err p s = .ok m t) : StrandSide s t := by
  unfold deferWrite at h
  simp only at h
  split at h
  · cases hr : reserveQueue (queueIdx n) s with
    | ok w u => rw [hr] at h; cases h; exact (reserveQueue_ok hr).trans (show StrandSide u (Machine.modCore { u with serial := u.serial + 1 } _ _) from rfl)
    | _ => rw [hr] at h; cases h
  · split at h
    · split at h
      · cases h; rfl
      · cases h
    · split at h
      · cases h
      · cases h; rfl

/-! ### Reading and writing never refuse or stop the machine -/

/-- How a body ends is always a next state. -/
theorem endOf_next {α : Type} (x : Ans α) (s : State) (done : α → State → State) : ∃ t, endOf x s done = .next t := by
  cases x <;> exact ⟨_, rfl⟩

end Sys2Proof.Claims
end

