-- ==== Sys2Proof/Tests/Slice0.lean ====
section
/-! SUPPORT. The model's own tests: the checks on ill-formed instructions, words written out from the spec's encoding tables, and for every
obligation states and operands that meet its hypotheses, most with the result that the spec gives them. -/

namespace Sys2Proof.Tests

open Sys2Proof Sys2Proof.Machine Sys2Proof.Claims

set_option Elab.async false

/-! ### Small states -/

/-- A declared name in row 0. -/
def nm (width : Nat) (signed : Bool) (mode : FitMode) (v : Int) (bit : Nat) : NameEntry :=
  { row := 0, bit := bit, width := width, signed := signed, mode := mode, bits := BitVec.ofInt 64 v }

/-- The names of the test strand: 0 signed 32-bit trap, 1 signed 32-bit wrap, 2 signed 8-bit saturate, 3 signed 1-bit, 4 unsigned 8-bit wrap,
5 unsigned 64-bit wrap, 6 unsigned 4-bit trap. -/
def names : Tab NameEntry :=
  [(0, nm 32 true .trap 5 0), (1, nm 32 true .wrap 7 32), (2, nm 8 true .sat (-3) 64), (3, nm 1 true .wrap 0 72), (4, nm 8 false .wrap 200 80),
   (5, nm 64 false .wrap 0x1000 128), (6, nm 4 false .trap 15 192)]

/-- The test strand. -/
def strand : Slot := { status := .ready, uid := 7, pc := 0x1002#64, names := names }

/-- A state whose issue latch holds a strand of a core's slot at 0x1002, in a line of three heads. -/
def at' (k i : Nat) (x : Slot) : State := setSlot { State.reset with cur := { core := k, slot := i, pc := 0x1002#64, h := 3 }, serial := 100 } k i x

/-- The test strand in slot 0 of core 0. -/
def base : State := at' 0 0 strand

/-- The test strand in a handler slot. -/
def handler : State := at' 0 15 strand

/-- Whether a step answers a next state of which something holds. -/
def holds (o : Host.Outcome State Fault Refusal) (p : State → Bool) : Bool := match o with | .next t => p t | _ => false

/-- The value of a name of the test strand after a step. -/
def value (t : State) (n : Nat) : Option Int := (tfind (curSlot t).names n).map NameEntry.value

/-- The PC of the strand. -/
def pcOf (t : State) : Nat := (curSlot t).pc.toNat

/-- Whether the strand trapped with a cause and a value. -/
def trapped (t : State) (cause : Nat) (v : Word) : Bool := (curSlot t).cause.toNat == cause && (curSlot t).trapVal == v

/-! ### Operands and the integer class -/

theorem test_fit_wrap : holds (exec (.movi 4#8 0x123#64) base) (fun t => value t 4 == some 0x23 && (curSlot t).flags == 0#8) = true := by decide +kernel
theorem test_fit_sat : holds (exec (.addi 2#8 1#8 200#16) base) (fun t => value t 2 == some 127 && (curSlot t).flags == flagSAT) = true := by decide +kernel
theorem test_fit_trap : holds (exec (.addi 6#8 6#8 1#16) base) (fun t => value t 6 == some 15 && trapped t 0x04 16#64) = true := by decide +kernel
theorem test_undeclared : holds (exec (.mov 0#8 9#8) base) (fun t => trapped t 0x03 9#64) = true := by decide +kernel

theorem witness_FitModes : nameOf base 0 0 4#8 = some (nm 8 false .wrap 200 80) ∧ nameOf base 0 0 2#8 = some (nm 8 true .sat (-3) 64) ∧
    nameOf base 0 0 6#8 = some (nm 4 false .trap 15 192) ∧
    holds (exec (.add 0#8 1#8 2#8) base) (fun t => (curSlot t).flags &&& ~~~flagSAT == 0#8) = true := by decide +kernel

/-- Core 0 with words in $q0 and outcomes in $bq. -/
def queued : State := setDq (setDq base 0 0 { entries := [⟨1, some 9#64, false, false⟩, ⟨2, some 8#64, false, false⟩] }) 0 4 { entries := [⟨3, some 1#64, false, false⟩] }

/-- Core 0 with a full $q0 and a full $bq. -/
def fullQueues : State :=
  setDq (setDq base 0 0 { entries := (List.range 8).map fun i => ⟨i, some 0#64, false, false⟩ }) 0 4 { entries := (List.range 16).map fun i => ⟨i, some 0#64, false, false⟩ }

theorem witness_SourceReads : nameOf base 0 0 1#8 = some (nm 32 true .wrap 7 32) ∧ nameOf base 0 0 9#8 = none ∧ namesQueue 241#8 ∧ namesQueue 245#8 ∧
    (dqOf queued 0 0).entries = ⟨1, some 9#64, false, false⟩ :: [⟨2, some 8#64, false, false⟩] ∧ (dqOf queued 0 0).vto = [] ∧ (dqOf queued 0 0).vfrom = [] ∧
    (dqOf base 0 4).entries = [] ∧ readName 245#8 base = .wait (.queueRead 4 0) ∧ readName 247#8 base = .ok (selfAgent base 0 0).toNat base := by
  unfold namesQueue; decide +kernel

/-- The test strand replaying an instruction that popped 9 from $q0 and read $cyc as 5 and $step as 2. -/
def replaying : State := setSlot base 0 0 { strand with kept := [(0, ⟨1, some 9#64, false, false⟩)], sampled := some (5#64, 2#64) }

theorem witness_SourceReads_replay : (curSlot base).sampled = none ∧ (∀ e ∈ (curSlot queued).kept, e.1 ≠ 0) ∧ (curSlot replaying).sampled = some (5#64, 2#64) ∧
    (curSlot replaying).kept = [(0, ⟨1, some 9#64, false, false⟩)] ∧ readName 255#8 replaying = .ok 5 replaying ∧ readName 246#8 replaying = .ok 2 replaying ∧
    (readName 241#8 replaying matches .ok 9 _) = true := by decide +kernel

theorem witness_FixedDestinations : (dqOf queued 0 0).entries.length < 8 ∧ (dqOf queued 0 4).entries.length < 16 ∧ 8 ≤ (dqOf fullQueues 0 0).entries.length ∧
    16 ≤ (dqOf fullQueues 0 4).entries.length ∧ namesQueue 244#8 ∧ (246#8 : Name) ∈ [246#8, 247#8, 248#8, 249#8, 255#8] ∧
    writeName 245#8 3 fullQueues = .wait (.queueWrite 4 1) ∧ holds (exec (.addi 241#8 1#8 1#16) queued) (fun t => (dqOf t 0 0).entries.length == 3) = true := by
  unfold namesQueue; decide +kernel

theorem test_add : holds (exec (.add 0#8 1#8 2#8) base) (fun t => value t 0 == some 4 && pcOf t == 0x1004) = true := by decide +kernel
theorem test_sub_into_source : holds (exec (.sub 1#8 1#8 2#8) base) (fun t => value t 1 == some 10) = true := by decide +kernel
theorem test_andn : holds (exec (.andn 1#8 1#8 2#8) base) (fun t => value t 1 == some 2) = true := by decide +kernel
theorem test_shr_floor : holds (exec (.shri 1#8 2#8 1#7) base) (fun t => value t 1 == some (-2)) = true := by decide +kernel
theorem test_lea : holds (exec (.lea 1#8 1#8 2#8 3#3) base) (fun t => value t 1 == some (-17)) = true := by decide +kernel

theorem witness_IntegerResult : readName 1#8 base = .ok 7 base ∧ readName 2#8 base = .ok (-3) base ∧
    writeName 0#8 4 base = .ok () (setName base 0 0 0#8 (nm 32 true .trap 4 0)) ∧ writeName 0#8 7 base = .ok () (setName base 0 0 0#8 (nm 32 true .trap 7 0)) := by
  decide +kernel

theorem test_clt_signed_bit : holds (exec (.clt 3#8 2#8 4#8) base) (fun t => value t 3 == some (-1)) = true := by decide +kernel
theorem test_ceqi_false : holds (exec (.ceqi 4#8 2#8 3#16) base) (fun t => value t 4 == some 0) = true := by decide +kernel

theorem witness_CompareResult : readName 2#8 base = .ok (-3) base ∧ readName 4#8 base = .ok 200 base ∧ truthFor base 3#8 true = -1 ∧ truthFor base 4#8 true = 1 ∧
    (writeName 3#8 (truthFor base 3#8 true) base matches .ok () _) = true := by decide +kernel

theorem test_mulh : holds (exec (.mulh 4#8 4#8 4#8) base) (fun t => value t 4 == some 156) = true := by decide +kernel
theorem test_rot : holds (exec (.rot 4#8 4#8 1#8) base) (fun t => value t 4 == some 100) = true := by decide +kernel
theorem test_clz : holds (exec (.clz 4#8 6#8) base) (fun t => value t 4 == some 0) = true := by decide +kernel
theorem test_popc : holds (exec (.popc 4#8 2#8) base) (fun t => value t 4 == some 7) = true := by decide +kernel
theorem test_bfx : holds (exec (.bfx 1#8 4#8 240#8 0#8) base) (fun t => value t 1 == some 8) = true := by decide +kernel

theorem witness_IntegerFieldResult : readName 4#8 base = .ok 200 base ∧ readName 1#8 base = .ok 7 base ∧ readName 0#8 base = .ok 5 base ∧ widthOfName 4#8 base = .ok 8 base ∧ widthOfName 240#8 base = .ok 64 base ∧
    signedOfName 4#8 base = .ok false base ∧ signedOfName 1#8 base = .ok true base ∧ (writeName 4#8 156 base matches .ok () _) = true ∧
    (0 ≤ 8 ∧ (BitVec.ofInt 8 200).getLsbD (8 - 1 - 0) = true) ∧ ((BitVec.ofInt 8 200).getLsbD 3 = true ∧ ∀ j, j < 3 → (BitVec.ofInt 8 200).getLsbD j = false) ∧
    (3 = ((List.range 8).filter fun j => (BitVec.ofInt 8 200).getLsbD j).length) ∧
    (let p : BitVec 8 := 0xCA#8; ∀ j, j < 8 → p.getLsbD j = if 1 ≤ j ∧ j < 1 + 3 then (BitVec.ofInt 64 5).getLsbD (j - 1) else (BitVec.ofInt 8 200).getLsbD j) := by
  decide +kernel

theorem test_and_of_minus_one : bitwise (fun p q => p &&& q) (-1) 0xFF = 255 := by decide +kernel

theorem witness_BitwiseIsInfinite : readName 2#8 base = .ok (-3) base ∧ readName 4#8 base = .ok 200 base ∧ (∀ j, j < 64 → bitOf 200 j = (bitOf (-3) j && bitOf 200 j)) ∧
    (writeName 1#8 200 base matches .ok () _) = true ∧ bitOf (-(2 ^ 63)) 200 = true ∧ bitOf (2 ^ 64 - 1) 64 = false := by decide +kernel

theorem test_div_toward_zero : holds (exec (.div 1#8 2#8 6#8) base) (fun t => (coreOf t 0).wbs.map (·.val) == [some 0] && (coreOf t 0).divFree == 32) = true := by decide +kernel
theorem test_rem_sign : holds (exec (.rem 1#8 2#8 1#8) base) (fun t => (coreOf t 0).wbs.map (·.val) == [some (-3)]) = true := by decide +kernel
theorem test_div_zero : holds (exec (.div 1#8 2#8 240#8) base) (fun t => trapped t 0x07 (BitVec.ofInt 64 (-3))) = true := by decide +kernel

theorem witness_LateDestinations : (nameOf base 0 0 1#8).isSome = true ∧ nameOf base 0 0 9#8 = none ∧ (dqOf queued 0 0).vto = [] ∧ (dqOf queued 0 0).entries.length < 8 ∧
    8 ≤ (dqOf fullQueues 0 0).entries.length ∧ (deferWrite 241#8 (some 1) none false queued matches .ok 101 _) = true := by decide +kernel

/-- The test strand with a pending error. -/
def erring : State := setSlot base 0 0 { strand with pendErr := some { cause := 0x0F, addr := 8#64 } }

theorem witness_DestinationsRaise : (curSlot queued).pendErr = none ∧ (curSlot erring).pendErr = some { cause := 0x0F, addr := 8#64 } ∧ namesQueue 241#8 ∧
    (writeName 241#8 3 erring matches .raise 0x0F 8#64 _) = true ∧ (deferWrite 241#8 none none false erring matches .raise 0x0F 8#64 _) = true := by
  unfold namesQueue; decide +kernel

theorem witness_DivideResult : readName 2#8 base = .ok (-3) base ∧ readName 6#8 base = .ok 15 base ∧ readName 240#8 base = .ok 0 base ∧ (coreOf base 0).divFree ≤ cycOf base 0 ∧
    (let s := modCore base 0 fun c => { c with divFree := 32 }; cycOf s 0 < (coreOf s 0).divFree ∧ readName 2#8 s = .ok (-3) s) := by decide +kernel

theorem witness_IntegerFrame : Instr.add 0#8 1#8 2#8 ∈ integerClass 0#8 1#8 2#8 3#8 0#16 0#7 0#3 0#64 ∧ ¬namesQueue 0#8 ∧ ¬namesQueue 1#8 ∧ ¬namesQueue 2#8 ∧ ¬namesQueue 3#8 ∧
    holds (exec (.add 0#8 1#8 2#8) base) (fun _ => true) = true := by unfold namesQueue; decide +kernel

/-! ### Control, strands and events -/

theorem witness_NextHead : (0x1002#64 : Word).toNat = 64 * 64 + 2 * 1 ∧ nextPc 0x1002#64 3 = 0x1004#64 ∧ nextPc 0x1006#64 3 = 0x1042#64 := by decide +kernel

theorem test_jl : holds (exec (.jl 250#8 ⟨1#11, 2#5⟩) base) (fun t => pcOf t == 0x1044 && (curSlot t).lnk == 0x1004#64) = true := by decide +kernel
theorem test_j_back : holds (exec (.j ⟨0x7FF#11, 1#5⟩) base) (fun t => pcOf t == 0xFC2) = true := by decide +kernel
theorem test_jlr_old_target : holds (exec (.jlr 5#8 5#8) base) (fun t => pcOf t == 0x1000 && value t 5 == some 0x1004) = true := by decide +kernel
theorem test_blt_exact : holds (exec (.blt 2#8 240#8 ⟨2#11, 1#5⟩) base) (fun t => pcOf t == 0x1082) = true := by decide +kernel
theorem test_bqf_pops : holds (exec (.bqf ⟨2#11, 1#5⟩) queued) (fun t => pcOf t == 0x1004 && (dqOf t 0 4).entries.isEmpty) = true := by decide +kernel
theorem test_loop : holds (exec (.loop 4#8 ⟨0#11, 1#5⟩) base) (fun t => pcOf t == 0x1002 && value t 4 == some 199) = true := by decide +kernel

theorem witness_ControlResult : writeName 250#8 0x1004 base = .ok () (withStrand base { curSlot base with lnk := 0x1004#64 }) ∧ readName 5#8 base = .ok 0x1000 base ∧
    readName 2#8 base = .ok (-3) base ∧ (readName 245#8 queued matches .ok 1 _) = true ∧ readName 4#8 base = .ok 200 base ∧
    writeName 4#8 199 base = .ok () (setName base 0 0 4#8 (nm 8 false .wrap 199 80)) ∧
    readName 4#8 (setName base 0 0 4#8 (nm 8 false .wrap 199 80)) = .ok 199 (setName base 0 0 4#8 (nm 8 false .wrap 199 80)) := by decide +kernel

theorem test_exit : holds (exec .exit base) (fun t => (curSlot t).status == .free && (curSlot t).names.isEmpty) = true := by decide +kernel
theorem test_wfe_sleeps : holds (exec .wfe base) (fun t => (curSlot t).status == .sleep) = true := by decide +kernel
theorem test_hret : holds (exec .hret (at' 0 15 { strand with handling := some 2 })) (fun t => (curSlot t).status == .free && (curSlot t).names == names) = true := by decide +kernel

theorem witness_StrandResult : base.cur.slot < 14 ∧ (curSlot base).pendErr = none ∧ exitReady (unpaceStrand base 0 0) 0 0 = true ∧ 14 ≤ handler.cur.slot ∧ pushing handler 0 15 = false ∧
    (curSlot base).event = false ∧ (curSlot (at' 0 0 { strand with event := true })).event = true ∧ holds (exec .yield base) (fun t => pcOf t == 0x1004) = true := by decide +kernel

/-- The agent of slot 3 of core 1, and a strand that sleeps there. -/
def sleeper : State := setSlot base 1 3 { strand with status := .sleep, uid := 8, nextPc := 0x2002#64 }

theorem witness_EventResult : (let g := selfAgent base 1 3; let s := setName base 0 0 5#8 (nm 64 false .wrap g.toNat 128);
    (curSlot s).pendErr = none ∧ readName 5#8 s = .ok g.toNat s ∧ agentValid s g = true ∧ agentHere s g = true ∧ agentKey s g = 1 ∧ agentSlot g = 3 ∧
    (slotOf sleeper 1 3).status = .sleep ∧ (slotOf base 1 3).status = .free ∧ (slotOf (setSlot base 1 3 strand) 1 3).status = .ready ∧
    holds (exec (.eventArrival g) sleeper) (fun t => (slotOf t 1 3).status == .ready && (slotOf t 1 3).pc == 0x2002#64) = true) ∧
    agentValid base 0xFFFFFFFF#32 = false := by decide +kernel

/-- A domain of two devices: port 0 leads to device 1. -/
def twoDevices : State := { base with dev := { base.dev with size := 2 }, fab := { base.fab with table := [(1, 0)], ports := [(0, { state := 2, lanes := 15#4, peerDev := 1 })] } }

theorem witness_EventResult_peer : (let g := mkAgent 3 1 0 1; agentValid twoDevices g = true ∧ agentHere twoDevices g = false ∧ unreachable twoDevices (agentDev twoDevices g) = false) := by decide +kernel


theorem test_fork : holds (exec (.fork 5#8 1#8 ⟨1#11, 1#5⟩) base) (fun t => value t 5 == some (selfAgent base 0 1).toNat && (slotOf t 0 1).status == .ready &&
    (slotOf t 0 1).pc == 0x1042#64 && ((tfind (slotOf t 0 1).names 0).map NameEntry.value) == some 7) = true := by decide +kernel

/-- A strand with a name that is wider than a row, for which no child finds a place. -/
def noPlace : State := setSlot base 0 0 { strand with names := tput names 9 { nm 64 false .wrap 0 0 with row := 9, width := 129 } }

/-- A core that has no FREE work slot. -/
def noSlot : State := (List.range 14).foldl (fun s i => setSlot s 0 i { strand with uid := i + 1 }) base

theorem witness_ForkResult : tfind (curSlot base).names 0 = some (nm 32 true .trap 5 0) ∧ readName 1#8 base = .ok 7 base ∧ (fitTo 7 32 true .trap).isSome = true ∧
    freeWork base 0 = some 1 ∧ (placeChild base 1 7 0x1042#64).isSome = true ∧ freeWork noSlot 0 = none ∧ freeWork noPlace 0 = some 1 ∧
    (placeChild noPlace 1 7 0x1042#64).isNone = true ∧ holds (exec (.fork 5#8 1#8 ⟨1#11, 1#5⟩) noSlot) (fun t => value t 5 == some 0xFFFFFFFF) = true ∧
    holds (exec (.fork 5#8 1#8 ⟨1#11, 1#5⟩) noPlace) (fun t => value t 5 == some 0xFFFFFFFE) = true := by decide +kernel

theorem witness_ForkResult_operands : base.cur.slot < 14 ∧ Steady base 1#8 ∧ TakesAny base 250#8 ∧ tfind (curSlot base).names 0 = some (nm 32 true .trap 5 0) ∧
    (fitTo (sourceValue base 1#8) 32 true .trap).isSome = true ∧ drainBusy base 0 0 1 ((curSlot base).fenced.getD base.serial) = false ∧
    (let s := at' 0 0 { strand with names := tdel names 0 }; tfind (curSlot s).names 0 = none ∧ Steady s 240#8) :=
  ⟨by decide, by unfold Steady namesQueue; decide +kernel, .inl (by decide), by unfold Steady namesQueue; decide +kernel⟩

/-- The test strand owned by a queue that pre-empts. -/
def preempted : State := modQueue (setSlot base 0 0 { strand with owner := some 3 }) 3 fun q => { q with state := 2 }

theorem witness_MigrationPoint : base.cur.slot < 14 ∧ (curSlot base).pendErr = none ∧ huskDue base 0 0 = false ∧ 14 ≤ handler.cur.slot ∧
    (curSlot preempted).pendErr = none ∧ migrationDue preempted 0 = false ∧ preemptingQueue preempted 0 0 = some 3 ∧ huskable preempted 0 0 = true ∧
    holds (exec .migpt preempted) (fun t => (curSlot t).status == .free && (queueOf t 3).husked.map (fun h => h.1.take 8) == [toBytes 8 0x1004]) = true := by
  decide +kernel

/-- Core 0 chosen for migration to the area at 0x10000. -/
def migrating : State := modCluster base 0 fun c => { c with migPend := true, migCore := 0, migArea := 0x10000 }

theorem witness_MigrationPoint_area : migrating.cur.slot < 14 ∧ (curSlot migrating).pendErr = none ∧ migrationDue migrating 0 = true ∧ huskable migrating 0 0 = true ∧
    Memory.wf migrating.mem = true ∧ inPeer 0x10000 = false ∧ inPeer (0x10000 + 1024) = false ∧ (∀ j, j < 64 → inInbox (0x10000 + j) = false) ∧
    (∀ j, j < (spillBytes (curSlot migrating)).length → inInbox (0x10000 + 1024 + j) = false) ∧
    holds (exec .migpt migrating) (fun t => (quadOf t 0).wq.map (fun e => (e.op.span, e.rel)) == [((0x10400, (spillBytes (curSlot migrating)).length), false), ((0x10000, 64), true)] &&
      (curSlot t).status == .free && t.hwMsgs.map (fun h => h.msg.words.getD 2 0#64) == [0x10000#64]) = true := by
  decide +kernel

/-! ### Write-backs, waits, the map class -/

/-- A write-back to a name of the test strand, at cycle 9. -/
def late (n : Name) (v : Int) : State :=
  modCore { base with uncore := 9 } 0 fun c => { c with wbs := [{ serial := 1, slot := 0, uid := 7, name := n, val := some v }] }

/-- The same after a pause whose last cycle is 8. -/
def pausedState : State := modCore (late 1#8 44) 0 fun c => { c with pauseTo := some 8 }

theorem test_pause_last_cycle : holds (exec (.pauseEnd 0) (modCore (late 1#8 44) 0 fun c => { c with pauseTo := some 9 })) (fun t => (coreOf t 0).pauseTo == some 9) = true := by decide +kernel

theorem test_late_value : holds (exec (.writeBackArrival 0 0) (late 4#8 300)) (fun t => value t 4 == some 44 && (coreOf t 0).wbs.isEmpty) = true := by decide +kernel
theorem test_late_misfit : holds (exec (.writeBackArrival 0 0) (late 6#8 16)) (fun t => value t 6 == some 15 && (curSlot t).lateFit == some 16#64) = true := by decide +kernel

theorem witness_LateValuesLand :
    ((coreOf (late 4#8 300) 0).wbs[0]?.isSome = true ∧ (coreOf (late 4#8 300) 0).pauseTo = none ∧ (slotOf (late 4#8 300) 0 0).uid = 7 ∧
      fitTo 300 8 false .wrap = some (44, false) ∧ fitTo 16 4 false .trap = none ∧ (slotOf (late 6#8 16) 0 0).status = .ready) ∧
    ((coreOf pausedState 0).pauseTo.isSome = true ∧ (coreOf pausedState 0).held.length < 16 ∧ 8 < cycOf pausedState 0 ∧
      holds (exec (.writeBackArrival 0 0) pausedState) (fun t => (coreOf t 0).held.length == 1 && value t 1 == some 7 &&
        holds (exec (.pauseEnd 0) t) (fun u => value u 1 == some 44 && (coreOf u 0).pauseTo.isNone)) = true) ∧
    (let s := setSlot base 0 0 { strand with lateFit := some 16#64, tvec := 0x3002#64 };
      (curSlot s).lateFit = some 16#64 ∧ (curSlot s).tvec ≠ 0#64 ∧ (curSlot s).active = false ∧
      holds (exec .lateFitTrap s) (fun t => trapped t 0x04 16#64 && pcOf t == 0x3002) = true) ∧
    (let s := setSlot base 0 0 { strand with status := .parked .names }; waitOver s 0 0 .names = true ∧ huskPoint s 0 0 = false ∧
      holds (exec (.waitEnd 0 0) s) (fun t => (curSlot t).status == .ready) = true) := by decide +kernel

/-- The same in a pause in which sixteen write-backs are held. -/
def crowded : State := modCore pausedState 0 fun c => { c with held := List.replicate 16 { serial := 1, slot := 0, uid := 7, name := 1#8, val := some 3 } }

theorem witness_LateValuesLand_full : (coreOf crowded 0).wbs.length = 1 ∧ (coreOf crowded 0).pauseTo.isSome = true ∧ 16 ≤ (coreOf crowded 0).held.length ∧
    holds (exec (.writeBackArrival 0 0) crowded) (fun t => (coreOf t 0).late.length == 1 && (coreOf t 0).held.length == 16 &&
      holds (exec (.pauseEnd 0) t) (fun u => value u 1 == some 44)) = true := by decide +kernel

/-- The same in a pause that another placement has made longer by seven cycles. -/
def pausedTwice : State := modCore pausedState 0 fun c => { c with pauses := [7] }

theorem witness_LateValues_pauses : (coreOf pausedTwice 0).pauseTo = some 8 ∧ 8 < cycOf pausedTwice 0 ∧
    holds (exec (.pauseEnd 0) pausedTwice) (fun t => (coreOf t 0).pauseTo == some 15 && (coreOf t 0).pauses.isEmpty) = true := by decide +kernel

/-- A window on the first 512 bytes of the strand's own quad store. -/
def win : Word := BitVec.ofNat 64 (9 * 2 ^ 19 + 0x3FF * 2 ^ 24)

/-- The first byte of the quad store of core 0. -/
def q0 : Nat := 0x200000000

/-- The test strand with that window in $w0, and words at the start of the store. -/
def windowed (ws : List Word) : State := { setSlot base 0 0 { strand with w0 := win } with mem := memPutWords [] q0 ws }

/-- A map of three names, unsigned 8-bit wrap, signed 32-bit trap, signed 1-bit saturate, and one vector id of type I8. -/
def mapWord : State := windowed [0x0007000100030#64 * 0#64 + 0x015F000700010003#64, 0x000000050000#64 + 0x00C0#64]

theorem test_mapld : holds (exec (.mapld 251#8 240#8 0#16) mapWord) (fun t =>
    (curSlot t).names.map (fun e => (e.1, e.2.width, e.2.signed, e.2.mode, e.2.bits)) ==
      [(0, 8, false, .wrap, 0#64), (1, 32, true, .trap, 0#64), (2, 1, true, .sat, 0#64)] && (curSlot t).vecs.map (fun e => (e.1, e.2.ty)) == [(0, 5)]) = true := by
  decide +kernel

theorem witness_MapReplaced : (readWindow 251#8 false mapWord matches .ok _ _) = true ∧ (readName 240#8 mapWord matches .ok 0 _) = true ∧
    (match readParcels win 0 6 mapWord with
      | .ok ps t => (match parseImage false false ps with | .inr img => (match placeMap t 0 0 img with | .inr _ => true | .inl _ => false) | .inl _ => false)
      | _ => false) = true ∧ imageLength 3 1 = 6 ∧ namesQuiet mapWord 0 0 = true ∧
    holds (exec .maprel mapWord) (fun t => (curSlot t).names.isEmpty && pcOf t == 0x1004) = true := by decide +kernel

theorem test_narrow : holds (exec (.resize 2#8 2#7) base) (fun t => value t 2 == some (-2) && (curSlot t).flags == flagSAT) = true := by decide +kernel
theorem test_widen_in_place : holds (exec (.resize 3#8 8#7) base) (fun t => value t 3 == some 0 && (nameOf t 0 0 3#8).map (·.width) == some 8) = true := by decide +kernel
theorem test_setmode : holds (exec (.setmode 4#8 1#1 1#2) base) (fun t => value t 4 == some (-56)) = true := by decide +kernel
theorem test_modeof : holds (exec (.modeof 4#8 2#8) base) (fun t => value t 4 == some 5) = true := by decide +kernel
theorem test_seatof : holds (exec (.seatof 1#8 5#8) base) (fun t => value t 1 == some 128) = true := by decide +kernel

/-- The test strand with an array of two I8 ids and one BF16 id. -/
def arrays : State := setSlot base 0 0 { strand with vecs := [(0, ⟨0, 5, 0, 3#1024⟩), (1, ⟨1, 5, 0, 4#1024⟩), (2, ⟨2, 1, 2, 0#1024⟩)] }

theorem witness_NamesReshapedAndQueried : nameOf base 0 0 4#8 = some (nm 8 false .wrap 200 80) ∧ outstanding base 0 0 4#8 = false ∧
    fitTo 200 4 false .wrap = some (8, false) ∧ fitTo 15 3 false .trap = none ∧ freeRun (occExcept base 0 0 4#8) 0 80 48 = true ∧
    trapped (match exec (.resize 6#8 3#7) base with | .next t => t | _ => base) 0x05 15#64 = true ∧
    (tfind (curSlot arrays).vecs 0).map (·.first) = some 0 ∧ namesQuiet arrays 0 0 = true ∧ (arrayIds (curSlot arrays).vecs 0).length = 2 ∧
    (resizeArray 2 3 1 arrays matches .ok () _) = true ∧
    holds (exec (.resizev 0#6 1#7) arrays) (fun t => (curSlot t).vecs.map (·.1) == [0, 2]) = true ∧
    holds (exec (.resizev 2#6 3#7) arrays) (fun t => (curSlot t).vecs.map (·.1) == [0, 1, 2, 3, 4]) = true ∧
    widthOfName 4#8 base = .ok 8 base ∧ writeName 1#8 8 base = .ok () (setName base 0 0 1#8 (nm 32 true .wrap 8 32)) ∧
    writeName 1#8 0xFFFF base = .ok () (setName base 0 0 1#8 (nm 32 true .wrap 0xFFFF 32)) := by decide +kernel

/-- No w bits lie free past the end of a row. -/
theorem freeRun_end (occ : List Occ) (r p w : Nat) (h : 128 < p + w) : freeRun occ r p w = false := by
  simp [freeRun, Nat.not_le.2 h]

/-- A handler slot whose rows 1 to 7 are full, and whose row 0 holds a bit at 0 and a word at 32; `more` further names. -/
def tight (more : Tab NameEntry) : State :=
  at' 0 14 { strand with names := [(0, { nm 1 false .wrap 1 0 with row := 0 }), (1, { nm 64 false .wrap 9 32 with row := 0 })] ++ more ++
    ((List.range 14).map fun j => (20 + j, { nm 64 false .wrap 0 (64 * (j % 2)) with row := 1 + j / 2 })) }

theorem tight_full : ∀ r p, 0 ≤ r → r < 8 → freeRun (occExcept (tight []) 0 14 0#8) r p 64 = false := by
  intro r p _ hr
  by_cases h : p ≤ 64
  · have : ∀ r < 8, ∀ p < 65, freeRun (occExcept (tight []) 0 14 0#8) r p 64 = false := by decide +kernel
    exact this r hr p (by omega)
  · exact freeRun_end _ _ _ _ (by omega)

theorem tighter_full : ∀ r p, 0 ≤ r → r < 8 → freeRun (occExcept (tight [(2, nm 1 false .wrap 0 96)]) 0 14 0#8) r p 64 = false := by
  intro r p _ hr
  by_cases h : p ≤ 64
  · have : ∀ r < 8, ∀ p < 65, freeRun (occExcept (tight [(2, nm 1 false .wrap 0 96)]) 0 14 0#8) r p 64 = false := by decide +kernel
    exact this r hr p (by omega)
  · exact freeRun_end _ _ _ _ (by omega)

theorem witness_NamesReshaped_moves : (freeRun (occExcept base 0 0 1#8) 0 32 33 = false ∧ domainOf 0 = (16, 496) ∧ freeRun (occExcept base 0 0 1#8) 16 0 33 = true ∧
      (∀ r p, 16 ≤ r → (r < 16 ∨ (r = 16 ∧ p < 0)) → freeRun (occExcept base 0 0 1#8) r p 33 = false) ∧
      holds (exec (.resize 1#8 33#7) base) (fun t => value t 1 == some 7 && (nameOf t 0 0 1#8).map (fun e => (e.row, e.bit)) == some (16, 0) && (coreOf t 0).pauseTo == some 6) = true) ∧
    domainOf 14 = (0, 8) ∧ nameOf (tight []) 0 14 0#8 = some (nm 1 false .wrap 1 0) ∧ outstanding (tight []) 0 14 0#8 = false ∧
    holds (exec (.resize 0#8 64#7) (tight [])) (fun t => value t 0 == some 1 && value t 1 == some 9 && (coreOf t 0).pauseTo.isSome) = true ∧
    trapped (match exec (.resize 0#8 64#7) (tight [(2, nm 1 false .wrap 0 96)]) with | .next t => t | _ => base) 0x06 64#64 = true := by
  refine ⟨⟨by decide +kernel, by decide, by decide +kernel, fun r p h1 h2 => by omega, by decide +kernel⟩, by decide +kernel⟩

/-- The quad's vector store with no row left for an array of the test strand: every row is taken by core 1. -/
def noRows : State := setSlot arrays 1 0 { strand with vecs := (List.range 253).map fun j => (j, ⟨j + 3, 5, 0, 0#1024⟩) }

theorem witness_Resizev_traps : (tfind (curSlot arrays).vecs 2).map (·.first) = some 2 ∧ (arrayIds (curSlot arrays).vecs 2).length = 1 ∧ (arrayIds (curSlot arrays).vecs 0).length = 2 ∧
    (let clash := fun s v j => 63 < v + j ∨ (tfind (curSlot s).vecs (v + j)).isSome = true;
      (clash arrays 0 2 ∧ (∀ j, 2 ≤ j → j < 2 → ¬clash arrays 0 j) ∧ holds (exec (.resizev 0#6 3#7) arrays) (fun t => trapped t 0x02 2#64) = true) ∧
      (∀ j, 1 ≤ j → j < 3 → ¬clash arrays 2 j)) ∧
    1 + (rowsFree (rowsTaken arrays (quadOfKey 0) 0 0 false)).length ≥ 3 ∧ holds (exec (.resizev 2#6 3#7) arrays) (fun t => pcOf t == 0x1004) = true ∧
    1 + (rowsFree (rowsTaken noRows (quadOfKey 0) 0 0 false)).length < 3 ∧ holds (exec (.resizev 2#6 3#7) noRows) (fun t => trapped t 0x06 3#64) = true := by
  refine ⟨by decide +kernel, by decide +kernel, by decide +kernel, ⟨⟨by decide +kernel, fun j h1 h2 => by omega, by decide +kernel⟩, fun j h1 h2 => ?_⟩, by decide +kernel, by decide +kernel, by decide +kernel, by decide +kernel⟩
  have : j = 1 ∨ j = 2 := by omega
  rcases this with rfl | rfl <;> decide +kernel

/-- A tree at address 0 that maps the first gigabyte of addresses to itself, to read and write. -/
def tree : List Host.Cell := [(0, 1#8), (1, 16#8), (0x1000, 1#8), (0x1001, 32#8), (0x2000, 1#8), (0x2001, 48#8), (0x3000, 15#8)]

/-- The test strand on that tree, its window on a record whose spill is at 0x100000. -/
def mapped : State := { setSlot base 0 0 { strand with w0 := win } with mem := memPutWord tree (q0 + 56) 0x100000#64 }

theorem test_husk_save_run : holds (exec (.huskSave 251#8 240#8 0#16) mapped) (fun t => pcOf t == 0x1004 && (quadOf t (queueKey 0)).wq.length == 2 &&
    holds (exec (.huskRun 251#8 240#8 0#16) t) fun u => pcOf u == 0x1004 && value u 2 == some (-3) && (curSlot u).w0 == win) = true := by decide +kernel
theorem test_husk_saveg_unmapped : holds (exec (.huskSaveg 240#8 240#8 0#16) base) (fun t => trapped t 0x08 0#64) = true := by decide +kernel
theorem test_husk_saveg : holds (exec (.huskSaveg 5#8 240#8 0#16) { mapped with mem := memPutWord tree 0x1038 0x100000#64 })
    (fun t => pcOf t == 0x1004 && (quadOf t (queueKey 0)).wq.length == 2) = true := by decide +kernel

theorem witness_HuskSaveAndRun : mapped.cur.slot < 14 ∧ (curSlot mapped).pendErr = none ∧ namesQuiet mapped 0 0 = true ∧ isSupervisor mapped.cur.core = false ∧
    huskPlace false 251#8 240#8 0#16 .store mapped = .ok (q0, BitVec.ofNat 64 q0) mapped ∧ (readClean (q0 + 56) 8 0#64 mapped matches .ok 0x100000 _) = true ∧
    (translateBlocks 0x100000#64 3 .store mapped matches .ok _ _) = true := by decide +kernel

/-- A step's next state. -/
def next (i : Instr) (s : State) : State := match exec i s with | .next t => t | _ => s

/-! ### Pacing -/

/-- The test strand on a core paced at step 4, its ring 0 of two steps in the window, and core 1 its producer, at count 4. -/
def paced : State := modLogical (setSlot base 0 0 { strand with w0 := win }) 0 0 fun x =>
  { x with paced := true, s := 4#32, f := 4#32, members := [(0, {})], rings := [(0, ⟨win, 2⟩)], producers := [(0, { agent := mkAgent 0 0 0 1, count := 4#32 })], limit := 1 }

/-- The same with the member arrived. -/
def arrived : State := modLogical (setSlot paced 0 0 { strand with status := .parked .step, nextPc := 0x1004#64 }) 0 0 fun x => { x with members := [(0, { arrived := true })] }

/-- The same with the step finished, and its producer too. -/
def finished : State := modLogical arrived 0 0 fun x => { x with f := 5#32, held := true, producers := [(0, { agent := mkAgent 0 0 0 1, count := 5#32 })] }

theorem test_depset : holds (exec (.depset 5#8 0#1 2#4) (setName base 0 0 5#8 (nm 64 false .wrap 1 128)))
    (fun t => (tfind (logicalOf t 0 0).producers 2).map (·.agent) == some (mkAgent 0 0 0 1) && t.agenda.length == 1) = true := by decide +kernel
theorem test_skewset_paced : holds (exec (.skewset 1#16) paced) (fun t => trapped t 0x02 1#64) = true := by decide +kernel
theorem test_ringset : holds (exec (.ringset 251#8 3#4 1#4) (windowed [])) (fun t => (logicalOf t 0 0).rings == [(3, ⟨win, 2⟩)]) = true := by decide +kernel
theorem test_unpace_last : holds (exec .unpace paced) (fun t => (logicalOf t 0 0).paced == false && (logicalOf t 0 0).ended && (logicalOf t 0 0).s == 4#32) = true := by decide +kernel

theorem witness_PacingSetUp : paceable base = true ∧ (logicalOf base 0 0).paced = false ∧ (logicalOf base 0 0).ended = false ∧ (tfind (logicalOf base 0 0).members 0).isNone = true ∧
    skewBreaks { logicalOf base 0 0 with limit := 15 } = false ∧ readName 251#8 (windowed []) = .ok win.toNat (windowed []) ∧ ringWindowOk 0 win 16 = true ∧
    skewBreaks { logicalOf base 0 0 with rings := [(0, ⟨win, 16⟩)] } = false ∧
    (let g : Agent := 1#32; agentValid base g = true ∧ agentUnit g < 64 ∧ agentDev base g = base.dev.num ∧ agentHere base g = true) ∧
    (logicalOf paced 0 0).paced = true ∧ paceable handler = false ∧ (tfind (logicalOf paced 0 0).members 0).isSome = true ∧ tdel (logicalOf paced 0 0).members 0 = [] ∧
    (let s := at' 0 1 strand; let p := modLogical s 0 0 fun x => { x with paced := true, members := [(0, {}), (1, {})] };
      tdel (logicalOf p 0 0).members 1 ≠ [] ∧ holds (exec .unpace p) (fun t => (logicalOf t 0 0).paced) = true) := by decide +kernel

/-- The test strand on a core whose count has ended, core 1 its producer. -/
def endedCount : State := modLogical base 0 0 fun x => { x with ended := true, producers := [(0, { agent := mkAgent 0 0 0 1, count := 4#32 })] }

theorem witness_PacingSetUp_traps : paceable paced = true ∧ (logicalOf paced 0 0).paced = true ∧ readName 251#8 paced = .ok win.toNat paced ∧ paceable handler = false ∧
    (∀ i ∈ [Instr.skewset 1#16, .depset 251#8 0#1 2#4, .ringset 251#8 3#4 1#4], holds (exec i paced) (fun t => trapped t 0x02 1#64) = true ∧
      holds (exec i handler) (fun t => trapped t 0x02 0#64) = true) ∧
    paceable endedCount = true ∧ (logicalOf endedCount 0 0).paced = false ∧ (logicalOf endedCount 0 0).ended = true ∧ (tfind (logicalOf endedCount 0 0).members 0).isNone = true ∧
    agentHere endedCount (mkAgent 0 0 0 1) = true ∧
    holds (exec .pace endedCount) (fun t => t.agenda == [.announceArrival (mkAgent 0 0 0 1) (mkAgent 0 0 0 0) 0#32 true false]) = true := by decide +kernel

theorem test_finish : holds (exec (.stepFinish 0) arrived) (fun t => (logicalOf t 0 0).f == 5#32 && (logicalOf t 0 0).held && t.agenda.length == 1) = true := by decide +kernel
theorem test_begin : holds (exec (.stepBegin 0) finished) (fun t => (logicalOf t 0 0).s == 5#32 && (curSlot t).status == .ready && pcOf t == 0x1004) = true := by decide +kernel

theorem witness_StepFinishBegin : paceable paced = true ∧ (tfind (logicalOf paced 0 0).members 0).isSome = true ∧ (logicalOf paced 0 0).held = false ∧
    canFinish arrived 0 0 = true ∧ canBegin finished 0 0 = true ∧ canBegin arrived 0 0 = false ∧
    holds (exec .step paced) (fun t => (curSlot t).status == .parked .step && (curSlot t).nextPc == 0x1004#64) = true := by decide +kernel

theorem witness_Step_held : (let s := modLogical paced 0 0 fun x => { x with held := true }; paceable s = true ∧ (curSlot s).pendErr = none ∧ (tfind (logicalOf s 0 0).members 0).isSome = true ∧
      (logicalOf s 0 0).held = true ∧ holds (exec .step s) (fun t => (curSlot t).status == .parked .step && (logicalOf t 0 0).members.map (·.2.arrived) == [false]) = true) ∧
    paceable base = true ∧ (tfind (logicalOf base 0 0).members 0).isNone = true ∧ holds (exec .step base) (fun t => trapped t 0x02 0#64) = true := by decide +kernel

theorem witness_CountsHeard : agentUnit (mkAgent 0 0 0 0) < 64 ∧ agentHere paced (mkAgent 0 0 0 1) = true ∧
    holds (exec (.announceArrival (mkAgent 0 0 0 0) (mkAgent 0 0 0 1) 5#32 false true) paced)
      (fun t => (logicalOf t 0 0).producers == [(0, { agent := mkAgent 0 0 0 1, count := 5#32, ended := true })]) = true ∧
    holds (exec (.announceArrival (mkAgent 0 0 0 0) (mkAgent 0 0 0 1) 2#32 true false) paced)
      (fun t => (logicalOf t 0 0).producers.map (·.2.count) == [2#32]) = true := by decide +kernel

/-- A GETS of core 1 for the word of core 0's ring at step 3, with its reader waiting. -/
def getsOf (n : BitVec 32) : GetsReq := { producer := mkAgent 0 0 0 0, ring := 0#2, off := 1#12, step := n, core := 1, slot := 0, uid := 9, serial := 50, reader := mkAgent 0 0 0 1, from' := none }

/-- The paced core and that reader. -/
def reader : State := modCore (setSlot { paced with mem := memPutWord [] (q0 + 264) 77#64 } 1 0
    { strand with uid := 9, status := .parked (.gets 50), nextPc := 0x2004#64 }) 1 fun c => { c with wbs := [{ serial := 50, slot := 0, uid := 9, name := 1#8 }] }

theorem witness_PutsGetsResult : (curSlot paced).pendErr = none ∧ (logicalOf paced 0 0).paced = true ∧ (tfind (logicalOf paced 0 0).rings 0).isSome = true ∧ hasRoom paced ∧
    holds (exec (.puts 1#8 0#2 1#12) paced) (fun t => (quadOf t (queueKey 0)).wq.map (·.op) == [.store (bytesAt (q0 + 8) 8 7#64) false]) = true ∧
    (let s := setName base 0 0 5#8 (nm 64 false .wrap 1 128); readName 5#8 s = .ok 1 s ∧ agentValid s 1#32 = true ∧ agentUnit 1#32 < 64 ∧ agentHere s 1#32 = true ∧
      (deferWrite 1#8 none none false s matches .ok 100 _) = true ∧ holds (exec (.gets 1#8 5#8 240#8 0#2 1#12) s) (fun t => (curSlot t).status == .parked (.gets 100)) = true) ∧
    (getsLive reader (getsOf 3#32) = true ∧ (getsLook reader (getsOf 3#32) matches .gives _) = true ∧ reader.flips = [] ∧ reader.poison = [] ∧
      holds (exec (.getsArrival (getsOf 3#32)) reader) (fun t => (slotOf t 1 0).status == .ready && (coreOf t 1).wbs.map (·.val) == [some 77]) = true) ∧
    ((getsLook reader (getsOf 4#32) matches .waits) = true ∧ (quadOf reader (getsQuad reader (getsOf 4#32))).stepWaits.length < 32 ∧
      (let full := modQuad reader 0 fun x => { x with stepWaits := List.replicate 32 (getsOf 4#32) }; 32 ≤ (quadOf full (getsQuad full (getsOf 4#32))).stepWaits.length ∧
        (getsLook full (getsOf 4#32) matches .waits) = true)) ∧
    (let s := { reader with quads := [(0, { ({} : Quad) with stepRetry := [(reader.uncore, getsOf 3#32)] })] };
      s.quads = [(0, quadOf s 0)] ∧ holds (exec (.getsRetry (getsOf 3#32)) s) (fun t => (slotOf t 1 0).status == .ready) = true) := by
  unfold hasRoom; decide +kernel

theorem witness_PutsGets_operands : paceable paced = true ∧ Steady paced 1#8 ∧ Steady paced 240#8 ∧ TakesLate paced 1#8 ∧ hasRoom paced ∧
    (let s := setName base 0 0 5#8 (nm 64 false .wrap 1 128); Steady s 5#8 ∧ Steady s 240#8 ∧ TakesLate s 1#8 ∧ sourceValue s 5#8 = 1 ∧ agentValid s 1#32 = true ∧ agentHere s 1#32 = true) ∧
    (let g := { getsOf 4#32 with from' := some (1, 9#32) }; let full := modQuad reader 0 fun x => { x with stepWaits := List.replicate 32 g };
      getsLive full g = true ∧ (getsLook full g matches .waits) = true ∧ 32 ≤ (quadOf full (getsQuad full g)).stepWaits.length) ∧
    (coreOf reader (getsOf 3#32).core).halted = false ∧ agentHere reader (getsOf 3#32).producer = true := by
  unfold hasRoom Steady TakesLate namesQueue; decide +kernel

/-- That reader, with a store of core 0's strand to the ring's word still queued. -/
def behind : State :=
  modQuad { reader with quads := [] } 0 fun q => { q with wq := [{ serial := 3, op := .fe .stfe (q0 + 264) 6#64, core := 1, slot := 0, uid := 9, va := 0#64 }] }

theorem witness_PutsGets_behind : (match getsLook behind (getsOf 3#32) with | .gives a => getsBehind behind (getsOf 3#32) a | _ => false) = true ∧ getsLive behind (getsOf 3#32) = true ∧
    (match getsLook reader (getsOf 3#32) with | .gives a => getsBehind reader (getsOf 3#32) a | _ => true) = false ∧
    holds (exec (.getsArrival (getsOf 3#32)) behind) (fun t => (quadOf t 0).stepRetry.map (·.1) == [1]) = true := by decide +kernel

/-- A GETS of a producer on device 1, behind the strand's own store to that device. -/
def peerQueued : State :=
  let s := setName twoDevices 0 0 5#8 (nm 64 false .wrap (mkAgent 0 1 0 0).toNat 128)
  modQuad s 0 fun q => { q with wq := [{ serial := 3, op := .store (bytesAt 0x4010000000000 8 9#64) false, core := 0, slot := 0, uid := 7, va := 0#64 }] }

theorem witness_PutsGets_queued : readName 5#8 peerQueued = .ok (mkAgent 0 1 0 0).toNat peerQueued ∧ agentValid peerQueued (mkAgent 0 1 0 0) = true ∧ agentUnit (mkAgent 0 1 0 0) < 64 ∧
    agentHere peerQueued (mkAgent 0 1 0 0) = false ∧ unreachable peerQueued (agentDev peerQueued (mkAgent 0 1 0 0)) = false ∧
    (shownTo peerQueued 0 0).map (fun e => (inPeer e.op.span.1, peerDev e.op.span.1)) = [(true, agentDev peerQueued (mkAgent 0 1 0 0))] ∧ (deferWrite 1#8 none none false peerQueued matches .ok 100 _) = true ∧
    holds (exec (.gets 1#8 5#8 240#8 0#2 1#12) peerQueued) (fun t => (quadOf t (queueKey 0)).stepRetry.map (·.1) == [1] && t.fab.out.isEmpty) = true := by decide +kernel

theorem witness_PutsGets_lost : (let s := setSlot reader 1 0 { slotOf reader 1 0 with tvec := 0x3002#64 }; getsLive s (getsOf 3#32) = true ∧ (slotOf s 1 0).tvec ≠ 0#64 ∧ (slotOf s 1 0).active = false ∧
    (let u := modCore s 0 fun c => { c with sealed := true }; physKey u 0 0 = 0 ∧ (coreOf u 0).sealed = true ∧ holds (exec (.getsArrival (getsOf 3#32)) u) (fun t => (slotOf t 1 0).cause == 0x0D#8) = true) ∧
    (let u := modLogical s 0 0 fun x => { x with restart := some false }; (logicalOf u 0 0).restart.isSome = true ∧
      holds (exec (.getsArrival (getsOf 3#32)) u) (fun t => (slotOf t 1 0).cause == 0x0D#8 && (slotOf t 1 0).pc == 0x3002#64) = true)) := by decide +kernel

/-! ### Memory -/

theorem test_win : holds (exec (.win 5#8 5#8 240#8 0#2 9#5) base) (fun t => value t 5 == some (0x1000 + 9 * 2 ^ 19 + 0x3FF * 2 ^ 24)) = true := by decide +kernel
theorem test_ldq_signed : holds (exec (.ldq 1#8 251#8 240#8 0#2 1#14) (windowed [0xFE00#64])) (fun t => (coreOf t 0).wbs.map (·.val) == [some (-2)]) = true := by decide +kernel
theorem test_ldq_poison : holds (exec (.ldq 1#8 251#8 240#8 3#2 0#14) { windowed [5#64] with poison := [q0] })
    (fun t => (coreOf t 0).wbs.map (fun w => (w.val, w.err)) == [(some 0, some (0x0E, BitVec.ofNat 64 q0))]) = true := by decide +kernel
theorem test_ldb : holds (exec (.ldb 4#8 251#8 240#8 62#10 3#6) (windowed [0x8000000000000000#64, 5#64])) (fun t => (coreOf t 0).wbs.map (·.val) == [some 6]) = true := by
  decide +kernel
theorem test_ldg_misaligned : holds (exec (.ldg 1#8 6#8 240#8 1#2 0#14) base) (fun t => trapped t 0x0B 15#64) = true := by decide +kernel
theorem test_ldg : holds (exec (.ldg 1#8 5#8 240#8 1#2 0#14) mapped) (fun t => (coreOf t 0).wbs.map (·.val) == [some 0x2001]) = true := by decide +kernel
theorem test_ldacq : holds (exec (.ldacq 1#8 5#8 0#2 5#3 1#11) mapped) (fun t => (coreOf t 0).wbs.map (·.val) == [some 0x20]) = true := by decide +kernel

/-- The test strand with a command window in $w0. -/
def commanding : State := setSlot base 0 0 { strand with w0 := win + 2 ^ 34 }

theorem witness_WindowAndLoadResult : readName 5#8 base = .ok 0x1000 base ∧ readName 240#8 base = .ok 0 base ∧ (writeName 5#8 0x3FF481000 base matches .ok () _) = true ∧
    readWindow 251#8 true (windowed []) = .ok win (windowed []) ∧ winKind win = 0 ∧ (readBytes q0 8 (windowed []) matches .ok _ _) = true ∧
    (loadTo 1#8 64 9 false 0#64 (windowed []) matches .ok () _) = true ∧
    readWindow 251#8 true commanding = .ok (win + 2 ^ 34) commanding ∧ winKind (win + 2 ^ 34) = 1 ∧
    holds (exec (.ldq 1#8 251#8 240#8 3#2 0#14) commanding) (fun t => (coreOf t 0).wbs.map (·.val) == [some 0]) = true ∧
    (readBits win 62 64 (windowed []) matches .ok _ _) = true ∧ 0x1000 % 8 = 0 ∧ (translateCur 0x1000#64 .load mapped matches .ok 0x1000 _) = true ∧ inPeer 0x1000 = false ∧
    (globalLoad 1#8 0x1000 8 0x1000#64 mapped matches .ok () _) = true ∧ checksLoads mapped = false ∧
    (deferWrite 1#8 none none false base matches .ok 100 _) = true ∧ isStreamer base.cur.core = false := by decide +kernel

/-- The test strand whose core holds a translation of the first gigabyte to itself. -/
def cached : State := modCore mapped 0 fun c => { c with tlb := [⟨none, 0, 30, 0, true, true, false, false, none⟩] }

theorem witness_WindowAndLoad_operands : Steady cached 5#8 ∧ Steady cached 240#8 ∧ Steady cached 251#8 ∧ TakesAny cached 250#8 ∧ TakesLate cached 1#8 ∧
    winValid (BitVec.ofInt 64 (sourceValue cached 251#8)) true = true ∧ winValid (BitVec.ofInt 64 (sourceValue cached 251#8)) false = true ∧
    winValid (BitVec.ofInt 64 (sourceValue commanding 251#8)) true = true ∧ winKind (BitVec.ofInt 64 (sourceValue commanding 251#8)) = 1 ∧
    inPeer q0 = false ∧ loadBehind cached 0 0 q0 8 = false ∧ loadBehind cached 0 0 (q0 + 8) 8 = false ∧ checksLoads cached = false ∧
    translateCur 0x1000#64 .load cached = .ok 0x1000 cached ∧ loadBehind cached 0 0 0x1000 8 = false ∧
    holds (exec (.ldg 1#8 5#8 240#8 3#2 0#14) cached) (fun t => pcOf t == 0x1004) = true :=
  ⟨by unfold Steady namesQueue; decide +kernel, by unfold Steady namesQueue; decide +kernel, by unfold Steady namesQueue; decide +kernel, .inl (by decide),
    by unfold TakesLate; decide +kernel⟩

theorem test_stq : holds (exec (.stq 2#8 251#8 240#8 0#2 3#14) (windowed [])) (fun t => (quadOf t 0).wq.map (·.op) == [.store [{ addr := q0 + 3, val := 0xFD#8 }] false]) = true := by
  decide +kernel
theorem test_stb_masks : holds (exec (.stb 6#8 251#8 240#8 6#10 3#6) (windowed []))
    (fun t => (quadOf t 0).wq.map (·.op) == [.store [{ addr := q0, val := 0xC0#8, mask := 0xC0#8 }, { addr := q0 + 1, val := 3#8, mask := 3#8 }] false]) = true := by decide +kernel
theorem test_command_word : holds (exec (.stq 1#8 251#8 240#8 3#2 56#14) commanding) (fun t => (coreOf t 0).mx.queue.map (fun c => c.words.getD 7 0#64) == [7#64]) = true := by
  decide +kernel
theorem test_stg : holds (exec (.stg 1#8 5#8 1#8 1#2 2#14) mapped)
    (fun t => (quadOf t 0).wq.map (·.op) == [.store [{ addr := 0x1010, val := 7#8 }, { addr := 0x1011, val := 0#8 }] false]) = true := by decide +kernel
theorem test_strel_waits : holds (exec (.strel 1#8 5#8 0#2 5#3 0#11) mapped) (fun t => (quadOf t 0).wq.map (·.rel) == [true]) = true := by decide +kernel

theorem witness_StoreResult : (curSlot (windowed [])).pendErr = none ∧ readName 2#8 (windowed []) = .ok (-3) (windowed []) ∧ hasRoom (windowed []) ∧ hasRoom mapped ∧
    winOffset (win + 2 ^ 34) 56 8 % 64 / 8 = 7 ∧ winOffset (win + 2 ^ 34) 48 8 % 64 / 8 = 6 ∧ (coreOf commanding 0).mx.queue.length < 8 ∧
    holds (exec (.stq 1#8 251#8 240#8 3#2 48#14) commanding) (fun t => (curSlot t).stage.getD 6 0#64 == 7#64) = true ∧
    readWindow 251#8 false (windowed []) = .ok win (windowed []) ∧ (translateCur 0x1000#64 .store mapped matches .ok 0x1000 _) = true := by unfold hasRoom; decide +kernel

theorem witness_AccessFrame : Instr.stff 1#8 251#8 240#8 0#8 ∈ [Instr.stfe 1#8 251#8 240#8 0#8, .stff 1#8 251#8 240#8 0#8] ∧
    holds (exec (.stff 1#8 251#8 240#8 0#8) (windowed [5#64])) (fun t => t.mem == (windowed [5#64]).mem) = true := by decide +kernel

/-- A state with one write of the test strand at the head of the queue of quad 0. -/
def queuedWrite (o : WOp) : State :=
  modQuad { (windowed [5#64]) with dev := { base.dev with fwRequest := 0x5000#64 } } 0 fun q => { q with wq := [{ serial := 3, op := o, core := 0, slot := 0, uid := 7, va := 0#64 }] }

theorem witness_StoreLands : (let s := queuedWrite (.store (bytesAt q0 2 0x1234#64) false); (quadOf s 0).wq.length > 0 ∧ 0 < 2 ∧ canPerform s 0 0 = true ∧ inPeer q0 = false ∧
      (∀ j, j < 2 → inInbox (q0 + j) = false) ∧ failingSectors s (bytesAt q0 2 0x1234#64) = [] ∧ s.runs = [] ∧ s.parked = [] ∧ Memory.wf s.mem = true ∧
      holds (exec (.storePerformed 0 0) s) (fun t => t.mem == memPutWord [] q0 0x1234#64 && (quadOf t 0).wq.isEmpty) = true) ∧
    seenBytes (sent base (.store (bytesAt q0 8 9#64) false) 0#64 false true) 0 0 q0 8 = toBytes 8 9 := by decide +kernel

theorem witness_StoreLands_masked : (let bs : List MByte := [{ addr := q0, val := 0xC0#8, mask := 0xC0#8 }, { addr := q0 + 1, val := 3#8, mask := 3#8 }]; let s := queuedWrite (.store bs false);
    (quadOf s 0).wq.length = 1 ∧ canPerform s 0 0 = true ∧ inPeer (WOp.store bs false).span.1 = false ∧ (∀ b ∈ bs, inInbox b.addr = false) ∧ (bs.map (·.addr)).Nodup ∧
      failingSectors (readSectors s bs) bs = [] ∧ s.runs = [] ∧ s.parked = [] ∧ Memory.wf s.mem = true ∧
      holds (exec (.storePerformed 0 0) s) (fun t => memByte t.mem q0 == 0xC5#8 && memByte t.mem (q0 + 1) == 3#8) = true) := by decide +kernel

/-! ### Full/empty words and atomics -/

/-- The window on a word that holds 5 and is full. -/
def fullWord : State := { windowed [5#64] with full := [q0] }

theorem test_ldfe : holds (exec (.ldfe 1#8 251#8 240#8 0#8) fullWord) (fun t => (coreOf t 0).wbs.map (·.val) == [some 5] && t.full.isEmpty) = true := by decide +kernel
theorem test_ldfe_waits : holds (exec (.ldfe 1#8 251#8 240#8 0#8) (windowed [])) (fun t => (curSlot t).status == .parked (.fullEmpty 100) && (quadOf t 0).feWaits.length == 1) = true := by
  decide +kernel
theorem test_ldff : holds (exec (.ldff 1#8 251#8 240#8 0#8) fullWord) (fun t => t.full == [q0]) = true := by decide +kernel
theorem test_festate : holds (exec (.festate 1#8 251#8 240#8 0#8) fullWord) (fun t => (coreOf t 0).wbs.map (·.val) == [some 1]) = true := by decide +kernel
theorem test_feempty : holds (exec (.feempty 1#8 251#8 240#8 0#8) fullWord) (fun t => (coreOf t 0).wbs.map (·.val) == [some 5] && t.full.isEmpty) = true := by decide +kernel
theorem test_stfe_performed : holds (exec (.storePerformed 0 0) (queuedWrite (.fe .stfe q0 6#64))) (fun t => memWord t.mem q0 == 6#64 && t.full == [q0]) = true := by decide +kernel
theorem test_stff_held : holds (exec (.storePerformed 0 0) (queuedWrite (.fe .stff q0 6#64))) (fun t => memWord t.mem q0 == 5#64 && (quadOf t 0).feWaits.length == 1) = true := by
  decide +kernel

/-- Entries of another strand of the quad: an STFE that a full word holds up, and a store to the word behind it. -/
def mateHeld : State :=
  let e : WEntry := { serial := 3, op := .fe .stfe q0 6#64, core := 1, slot := 2, uid := 9, va := 0#64 }
  modQuad fullWord 0 fun q => { q with wq := [e, { e with serial := 4, op := .store (bytesAt q0 8 9#64) false }] }

theorem test_feempty_passes_held : holds (exec (.feempty 1#8 251#8 240#8 0#8) mateHeld) (fun t =>
    (coreOf t 0).wbs.map (·.val) == [some 9] && t.full.isEmpty && (quadOf t 0).wq.length == 2) = true := by decide +kernel

/-- A release store of another strand of the quad, which follows an STFE of it that a port holds. -/
def mateReleases : State :=
  let e : WEntry := { serial := 4, op := .store (bytesAt q0 8 9#64) false, core := 1, slot := 2, uid := 9, va := 0#64, rel := true, after := [3] }
  modQuad fullWord 0 fun q =>
    { q with wq := [e], feWaits := [{ op := .stfe, addr := q0 + 8, val := 6#64, core := 1, slot := 2, uid := 9, local' := true, serial := 3 }] }

theorem test_ldq_passes_release : holds (exec (.ldq 1#8 251#8 240#8 3#2 0#14) mateReleases) (fun t =>
    (coreOf t 0).wbs.map (·.val) == [some 5] && canPerform t 0 0 == false) = true := by decide +kernel

theorem witness_FullEmptyResult : readWindow 251#8 false fullWord = .ok win fullWord ∧ readName 240#8 fullWord = .ok 0 fullWord ∧ feBehind fullWord q0 = false ∧ (shownTo fullWord 0 0).all (fun e => !(e.op.touches q0 8)) = true ∧
    (∀ op ∈ [FeOp.ldfe, .ldff, .feempty, .festate], feReady fullWord op q0 = true) ∧ feReady (windowed []) .ldfe q0 = false ∧ feReady (windowed []) .ldff q0 = false ∧
    (deferWrite 1#8 none none false (windowed []) matches .ok 100 _) = true ∧ hasRoom fullWord ∧ (curSlot fullWord).pendErr = none ∧
    inInbox q0 = false ∧ fullWord.flips = [] ∧ Memory.wf fullWord.mem = true ∧ q0 % 8 = 0 ∧ (∀ j, j < 8 → inInbox (q0 + j) = false) ∧
    holds (exec (.fefull 1#8 251#8 240#8 0#8) fullWord) (fun t => (quadOf t 0).wq.map (·.op) == [.fe .fefull q0 7#64]) = true := by unfold hasRoom; decide +kernel

/-- An atomic of the test strand on the first word of the store. -/
def atomicOn (cas : Bool) (op : Nat) (signed : Bool) (x y : Word) : AtomicReq :=
  { cas := cas, op := op, bytes := 8, addr := q0, signed := signed, operand := x, newVal := y, dest := 90 }

theorem test_amo : holds (exec (.amo 5#8 5#8 1#8 0#4 3#2 0#2 5#3) mapped) (fun t => (quadOf t 0).wq.length == 1 && (coreOf t 0).wbs.map (·.val) == [none]) = true := by decide +kernel
theorem test_amo_narrow : holds (exec (.amo 6#8 5#8 1#8 0#4 3#2 0#2 5#3) mapped) (fun t => trapped t 0x02 6#64) = true := by decide +kernel
theorem test_amo_min_signed : holds (exec (.atomicPerform 0 0) (queuedWrite (.atomic (atomicOn false 4 true (-1) 0#64)))) (fun t => memWord t.mem q0 == -1) = true := by decide +kernel
theorem test_cas_fails : holds (exec (.atomicPerform 0 0) (queuedWrite (.atomic (atomicOn true 0 false 4#64 9#64)))) (fun t => memWord t.mem q0 == 5#64) = true := by decide +kernel
theorem test_cas_swaps : holds (exec (.faultQueueRetry 0 0) (queuedWrite (.atomic (atomicOn true 0 false 5#64 9#64)))) (fun t => memWord t.mem q0 == 9#64) = true := by decide +kernel
theorem test_atomic_parks : holds (exec (.atomicPerform 0 0) { queuedWrite (.atomic (atomicOn false 0 false 1#64 0#64)) with poison := [q0] })
    (fun t => t.parked.length == 1 && memWord t.mem q0 == 5#64 && t.hwMsgs.length == 1) = true := by decide +kernel
theorem test_red : holds (exec (.red 1#8 5#8 2#4 3#2 0#2 5#3) mapped) (fun t => (quadOf t 0).wq.length == 1 && (coreOf t 0).wbs.isEmpty) = true := by decide +kernel

theorem witness_AtomicResult : (curSlot mapped).pendErr = none ∧ hasRoom mapped ∧ 0x1000 % 8 = 0 ∧ readName 5#8 mapped = .ok 0x1000 mapped ∧ readName 1#8 mapped = .ok 7 mapped ∧
    narrowTrap mapped 5#8 8 = false ∧ signedOfName 1#8 mapped = .ok true mapped ∧ (translateCur 0x1000#64 .both mapped matches .ok 0x1000 _) = true ∧
    (deferWrite 5#8 none none false mapped matches .ok 100 _) = true ∧
    mergeInto (quadOf mapped 0).wq (sentEntry mapped (.atomic (atomicOn false 0 true 7#64 0#64)) 0x1000#64 false true) (atomicOn false 0 true 7#64 0#64) = none ∧
    holds (exec (.cas 5#8 5#8 1#8 2#8 3#2 1#2 5#3) mapped) (fun t => (quadOf t 0).wq.length == 1) = true ∧
    (let s := queuedWrite (.atomic (atomicOn false 0 false 1#64 0#64)); (quadOf s 0).wq.length = 1 ∧ canPerform s 0 0 = true ∧ inPeer q0 = false ∧ s.poison = [] ∧ s.flips = [] ∧
      s.tagBad = [] ∧ s.mediaBad = [] ∧ Memory.wf s.mem = true ∧ q0 % 8 = 0 ∧ (∀ j, j < 8 → inInbox (q0 + j) = false) ∧
      holds (exec (.atomicPerform 0 0) s) (fun t => memWord t.mem q0 == 6#64) = true) := by unfold hasRoom; decide +kernel

theorem witness_AtomicResult_transfers : (let s := queuedWrite (.atomic (atomicOn false 0 false 1#64 0#64)); (transfers s q0 8).1 = false ∧ stalledOn s (transfers s q0 8).2 = none) ∧ mapped.serial = 100 := by decide +kernel

/-- The test strand under a launch of queue 2, whose barrier 1 is barrier 5 of cluster 0, of two strands. -/
def barred : State := modCluster (setSlot base 0 0 { strand with launch := some 1 }) 0 fun c => { c with barriers := [(5, { n := 2, owner := some (1, 1) })] }

/-- The same with one strand of core 1 waiting there. -/
def barWaiting : State := modBarrier (setSlot barred 1 3 { strand with uid := 9, launch := some 1, status := .parked .barrier, nextPc := 0x2004#64, pc := 0x2002#64, barWait := [⟨0x2002#64, 5, 0#32, false⟩] }) 0 5
  fun b => { b with a := 1 }

theorem test_fence : holds (exec (.fence 3#3 7#3) base) (fun t => pcOf t == 0x1004) = true := by decide +kernel
theorem test_bar_waits : holds (exec (.bar 0#1 1#5) barred) (fun t => (curSlot t).status == .parked .barrier && (barState t 0 5).a == 1) = true := by decide +kernel
theorem test_bar_ends : holds (exec (.bar 0#1 1#5) barWaiting) (fun t => (slotOf t 1 3).pc == 0x2004#64 && (barState t 0 5).g == 1#32 && pcOf t == 0x1004) = true := by decide +kernel

theorem witness_FenceAndBarrierResult : readsOut base 0 0 = false ∧ feLeft base 0 0 7 100 = false ∧ unperformed base 0 0 7 100 = false ∧ unsent base 0 0 = false ∧ unacknowledged base 0 0 = false ∧ (curSlot base).pendErr = none ∧
    (let s := setSlot base 0 0 { strand with pendErr := some { cause := 0x0E, addr := 8#64 } }; unacknowledged s 0 0 = false ∧ readsOut s 0 0 = false ∧
      holds (exec .errfence s) (fun t => trapped t 0x0E 8#64 && (coreOf t 0).sealed) = true) ∧
    barred.cur.slot < 14 ∧ isCore barred.cur.core = true ∧ (curSlot barred).launch = some 1 ∧ barrierOf barred 0 1 1 = some 5 ∧ drainBusy barred 0 0 3 100 = false ∧
    (curSlot barred).barCounted = false ∧ (∀ w ∈ (curSlot barred).barWait, w.pc ≠ barred.cur.pc) ∧ (barState barred 0 5).a + 1 ≠ (barState barred 0 5).n ∧ (barState barWaiting 0 5).a + 1 = (barState barWaiting 0 5).n ∧
    ((curSlot barred).launch.bind fun l => barrierOf barred 0 l 2) = none ∧ holds (exec (.bar 1#1 2#5) barred) (fun t => trapped t 0x12 2#64) = true ∧
    holds (exec (.bar 1#1 1#5) barred) (fun t => pcOf t == 0x1004 && (barState t 0 5).a == 1) = true ∧ 14 ≤ handler.cur.slot := by decide +kernel

/-! ### Traps, fetch and the system class -/

/-- The test strand with a trap vector. -/
def vectored : State := setSlot base 0 0 { strand with tvec := 0x3002#64 }

/-- The test strand of a supervisor core. -/
def supervisor : State := at' 64 0 { strand with tvec := 0x3002#64 }

theorem witness_TrapEntry : (slotOf vectored 0 0).tvec ≠ 0#64 ∧ (slotOf vectored 0 0).active = false ∧ isSupervisor 64 = true ∧ isCore 0 = true ∧ isCore 64 = false ∧
    (let t := takeTrapAt vectored 0 0 0x1002#64 0x13 9#64; (curSlot t).pc = 0x3002#64 ∧ (curSlot t).active = true ∧ (curSlot t).resume = true) ∧
    (let t := takeTrapAt base 0 0 0x1002#64 0x04 9#64; (curSlot t).status = .stopped .trapped ∧ (clusterOf t 0).trapWaits.length = 1) ∧
    (let t := takeTrapAt vectored 0 0 0x1002#64 0x0E 9#64; (coreOf t 0).sealed = true ∧ (curSlot t).status = .stopped .trapped) ∧
    (let t := takeTrapAt supervisor 64 0 0x1002#64 0x0E 9#64; (curSlot t).pc = 0x3002#64 ∧ (coreOf t 64).sealed = false) := by decide +kernel

theorem test_trap : holds (exec (.trap 7#16) vectored) (fun t => trapped t 0x13 7#64 && pcOf t == 0x3002) = true := by decide +kernel
theorem test_tret : holds (exec .tret (setSlot base 0 0 { strand with active := true, trapPc := 0x3004#64 })) (fun t => pcOf t == 0x3004 && (curSlot t).active == false) = true := by
  decide +kernel
theorem test_misplaced_pc : holds (exec .illegalEncoding { base with cur := { base.cur with h := 0 } }) (fun t => trapped t 0x01 0#64) = true := by decide +kernel

/-- A tree that maps the first gigabyte of addresses to itself for execution. -/
def codeTree : List Host.Cell := [(0, 1#8), (1, 16#8), (0x1000, 1#8), (0x1001, 32#8), (0x2000, 1#8), (0x2001, 48#8), (0x3000, 0x13#8)]

/-- A line of two NOPs: its header, then two heads. -/
def line : LineBuf := { pa := 0x5000, parcels := [2#16] ++ List.replicate 31 0#16 }

/-- The test strand at the first head of a line at 0x5000, under that tree. -/
def fetching : State := { setSlot base 0 0 { strand with pc := 0x5002#64 } with mem := memPuts codeTree 0x5000 [2#8] }

theorem test_line_fill : holds (exec (.lineFill 0 0) fetching) (fun t => (lineFor t 0 0 0x5002#64).isSome) = true := by decide +kernel
theorem test_fetch_fails : holds (exec (.lineFill 0 0) base) (fun t => trapped t 0x08 0#64) = true := by decide +kernel

/-- The third mismatch in a row. -/
def mismatched : State := setSlot base 0 0 { strand with mismatches := 2 }

theorem witness_TrapAndFetchResult : (curSlot base).active = false ∧ base.cur.h ≠ 0 ∧ ({ base with cur := { base.cur with h := 0 } }).cur.h = 0 ∧
    (let s := setSlot { fetching with cores := tput fetching.cores 0 { coreOf fetching 0 with lines := [line], tlb := [⟨none, 0, 30, 0, false, false, true, false, none⟩] } } 0 0
        { strand with active := true, resume := true, trapPc := 0x5002#64 };
      (lineFor s 0 0 0x5002#64).isSome = true ∧ holds (exec .tret s) (fun t => pcOf t == 0x5004) = true) ∧
    wantsLine fetching 0 0 = true ∧ (coreOf fetching 0).sealed = false ∧
    (match fetchLine (sendLines 8 fetching 0) 0 0 (slotOf fetching 0 0).pc with | .line b u => !b.poison && (stalledOn fetching u).isNone | _ => false) = true ∧
    wantsLine base 0 0 = true ∧ (match fetchLine base 0 0 (slotOf base 0 0).pc with | .fails c u => c == 0x08 && (stalledOn base u).isNone | _ => false) = true ∧
    (curSlot base).mismatches < 2 ∧ 2 ≤ (curSlot mismatched).mismatches ∧ isCore mismatched.cur.core = true ∧
    holds (exec .checkerReplay mismatched) (fun t => (coreOf t 0).checkerSealed && (curSlot t).cause == 0x0E#8) = true := by decide +kernel

theorem witness_TrapAndFetch_line : (match fetchLine (forgetLine fetching 0 0 (slotOf fetching 0 0).pc) 0 0 (slotOf fetching 0 0).pc with | .line b u => !b.poison && (stalledOn fetching u).isNone | _ => false) = true ∧
    (let s := { fetching with poison := [0x5008] }; wantsLine s 0 0 = true ∧
      (match fetchLine (forgetLine s 0 0 (slotOf s 0 0).pc) 0 0 (slotOf s 0 0).pc with | .line b u => b.poison && (stalledOn s u).isNone | _ => false) = true ∧
      holds (exec (.lineFill 0 0) s) (fun t => (curSlot t).cause == 0x0E#8) = true) ∧
    (match fetchLine (forgetLine base 0 0 (slotOf base 0 0).pc) 0 0 (slotOf base 0 0).pc with | .fails c _ => c == 0x08 | _ => false) = true ∧
    (popFields (latchedPops base) base matches .ok () _) = true := by decide +kernel

/-- The test strand with that line's page in the memory of device 1. -/
def fetchingPeer : State :=
  modCore { twoDevices with cores := fetching.cores } 0 fun c => { c with tlb := [⟨none, 0, 30, 0x4010000000000, false, false, true, false, none⟩] }

theorem witness_TrapAndFetch_peer : wantsLine fetchingPeer 0 0 = true ∧ (coreOf fetchingPeer 0).sealed = false ∧
    (match fetchLine (forgetLine (sendLines 8 fetchingPeer 0) 0 0 0x5002#64) 0 0 0x5002#64 with | .asks pa u => inPeer pa && (stalledOn fetchingPeer u).isNone | _ => false) = true := by decide +kernel

theorem witness_TrapAndFetch_found : (clusterOf fetching 0).lineWaits = [] ∧
    (match translate (forgetLine fetching 0 0 0x5002#64) 0 (fetchLaunch fetching 0 0) (lineBase 0x5002#64).toNat .fetch with
      | .inr (pa, t) => !(inPeer pa) && (stalledOn fetching t).isNone && t.flips.isEmpty && t.poison.isEmpty && t.mediaBad.isEmpty && t.tagBad.isEmpty &&
          (t.clusters.all fun e => e.2.inject == 0#64 && e.2.beats.isEmpty && e.2.brought.isEmpty) && (({} : Cluster).inject == 0#64) &&
          ((coreOf t 0).lines ++ (clusterOf t 0).icache).isEmpty
      | _ => false) = true := by decide +kernel

theorem witness_TrapAndFetch_wanted : (let s := modCore fetching 0 fun c => { c with wanted := [(none, 0x5042#64)] }; let s1 := fetchWanted s 0; wantsLine s1 0 0 = true ∧ (coreOf s1 0).sealed = false ∧
    (coreOf s1 0).lines.map (·.pa) = [0x5040] ∧ (match fetchLine (forgetLine s1 0 0 0x5002#64) 0 0 0x5002#64 with | .line b u => !b.poison && (stalledOn s1 u).isNone | _ => false) = true ∧
    (match translate (forgetLine s1 0 0 0x5002#64) 0 (fetchLaunch s1 0 0) (lineBase 0x5002#64).toNat .fetch with
      | .inr (pa, t) => !(inPeer pa) && !(wordBlocked t pa 64) && (stalledOn s1 t).isNone && ((coreOf t 0).lines ++ (clusterOf t 0).icache).all (fun b => !b.poison)
      | _ => false) = true) := by decide +kernel

theorem test_sysrd_flags : holds (exec (.sysrd 1#8 1#16) (setSlot base 0 0 { strand with flags := 9#8 })) (fun t => value t 1 == some 9) = true := by decide +kernel
theorem test_syswr_tvec : holds (exec (.syswr 5#8 2#16) base) (fun t => (curSlot t).tvec == 0x1000#64) = true := by decide +kernel
theorem test_sysrd_unknown : holds (exec (.sysrd 1#8 6#16) base) (fun t => trapped t 0x02 6#64) = true := by decide +kernel
theorem test_sysrd_cluster : holds (exec (.sysrd 1#8 0x300#16) base) (fun t => trapped t 0x09 0x300#64) = true := by decide +kernel
theorem test_setrm : holds (exec (.setrm 4#3) base) (fun t => (curSlot t).rm == 4#3) = true := by decide +kernel
theorem test_flagclr : holds (exec (.flagclr 1#8) (setSlot base 0 0 { strand with flags := 9#8 })) (fun t => (curSlot t).flags == 8#8) = true := by decide +kernel

/-- A cluster whose TLB holds a page of no launch. -/
def translated : State := modCluster base 0 fun c => { c with tlb := [⟨none, 0, 30, 0, true, true, false, false, none⟩] }

theorem test_tlbinv : holds (exec (.tlbinv 5#8 0#3) translated) (fun t => (clusterOf t 0).tlb.isEmpty) = true := by decide +kernel

theorem witness_SystemResult : regKnown 1 = true ∧ mayRead base 1 = true ∧ (writeName 1#8 (regValue base 1 : Int) base matches .ok () _) = true ∧
    (0x203#16 : BitVec 16).toNat = 0x203 ∧ isCore base.cur.core = true ∧ holds (exec (.sysrd 240#8 0x203#16) base) (fun t => pcOf t == 0x1004) = true ∧
    (match writeName 240#8 (regValue (countEnergy base (quadOfKey 0)) 0x203 : Int) (countEnergy base (quadOfKey 0)) with | .ok () _ => true | _ => false) = true ∧
    mayWrite base 2 = true ∧ readName 5#8 base = .ok 0x1000 base ∧ regKnown 6 = false ∧ regKnown 0x300 = true ∧ mayRead base 0x300 = false ∧ mayWrite base 0x300 = false ∧
    (let s := setName supervisor 64 0 5#8 (nm 64 false .wrap 3 128); regKnown 0x340 = true ∧ mayWrite s 0x340 = true ∧ swapAllowed s 0 3 = true ∧
      holds (exec (.syswr 5#8 0x340#16) s) (fun t => physOf t 0 0 == 3 && physOf t 0 3 == 0) = true) ∧
    namesQuiet base 0 0 = true ∧ (writeName 1#8 0 base matches .ok () _) = true ∧ accessesLeft translated 0 0 100 = false ∧ isSupervisor base.cur.core = false ∧ isSupervisor supervisor.cur.core = true ∧
    quiesced base 0 0 = true ∧ (tfind translated.clusters 0).isSome = true ∧ kindReaches 0 0 0 = true := by decide +kernel

theorem witness_SystemResult_operands : TakesAny base 250#8 ∧ Steady base 5#8 ∧ Steady translated 5#8 ∧ regKnown 1 = true ∧ mayRead base 1 = true ∧ mayWrite base 2 = true ∧ 2 < 0x340 ∧
    exitReady base 0 0 = true ∧ accessesLeft translated 0 0 ((curSlot translated).fenced.getD translated.serial) = false :=
  ⟨.inl (by decide), by unfold Steady namesQueue; decide +kernel, by unfold Steady namesQueue; decide +kernel, by decide +kernel⟩

theorem witness_ClusterRegisters : (clusterOf base 0).migPend = false ∧ (0x8000000000001000#64 : Word).getLsbD 63 = true ∧ 0 < workStrands base (physKey base 0 0) ∧
    holds (exec (.migreq 0 0x8000000000001000#64) base) (fun t => (clusterOf t 0).migPend && (clusterOf t 0).migArea == 0x1000) = true ∧
    holds (exec (.barcfg 0 0x50380#64) base) (fun t => (barState t 0 5).nNext == some 896) = true ∧
    holds (exec (.barcancel 0 5#64) barWaiting) (fun t => (slotOf t 1 3).cause == 0x16#8 && (barState t 0 5).g == 1#32) = true ∧
    holds (exec (.logEntryRemove 0 false 0x8000000000000000#64) (modCluster base 0 fun c => { c with arrLog := [1#64, 2#64] })) (fun t => (clusterOf t 0).arrLog == [2#64]) = true ∧
    bitsOf (0xC000200000000005 : Nat) 38 24 = 0 ∧ bitsOf (0xC000200000000005 : Nat) 48 45 ≠ 0 ∧
    holds (exec (.inject 0 0xC000200000000005#64) base) (fun t => (clusterOf t 0).inject == 0xC000200000000005#64) = true ∧
    holds (exec (.inject 1 0x8000018000000001#64) base) (fun t => t.flips == [(0x8000008, 3)]) = true ∧
    swapAllowed base 0 3 = true ∧ 0 ≠ logicalIdx base 0 3 ∧ swapAllowed base 0 0 = false ∧
    holds (exec (.oppointRequest 0 1234#64) base) (fun t => (coreOf t 0).req == 1225) = true ∧ holds (exec (.energyLoRead 0 0) base) (fun _ => true) = true := by decide +kernel

/-- The test strand stopped by a trap. -/
def stopped : State := setSlot base 0 0 { strand with status := .stopped .trapped, trapPc := 0x1002#64, active := true }

/-- Core 0 sealed by an error. -/
def sealed' : State := modCore (setSlot base 0 0 { strand with launch := some 1 }) 0 fun c => { c with sealed := true }

theorem witness_SupervisionResult : (slotOf stopped 0 0).status = .stopped .trapped ∧ (slotOf stopped 0 0).resume = false ∧ (coreOf stopped 0).sealed = false ∧ (coreOf stopped 0).halted = false ∧
    holds (exec (.resumeSlot 0 0) stopped) (fun t => (slotOf t 0 0).status == .ready && (slotOf t 0 0).active == false) = true ∧
    holds (exec (.freeSlot 0 0) base) (fun t => (slotOf t 0 0).status == .free) = true ∧ (slotOf base 0 0).status ≠ .free ∧
    huskRefused base 0 0 = false ∧ (slotOf base 0 0).pendErr = none ∧ huskable base 0 0 = true ∧
    (let r := memoryRead base 0x8038 8; r.1 = false ∧ stalledOn base r.2 = none ∧ rangeFaulty r.2 0x8038 8 = false) ∧ localPa base 0x8000 = 0x8000 ∧
    holds (exec (.huskSlot 0 0 0x8000) base) (fun t => (slotOf t 0 0).status == .free &&
      (quadOf t 0).wq.map (fun e => (e.op.span, e.rel)) == [((0, (spillBytes (curSlot base)).length), false), ((0x8000, 64), true)]) = true ∧
    (let s := modCore (setSlot stopped 0 0 { curSlot stopped with resume := true, trapPc := 0x5002#64 }) 0 fun c => { c with lines := [line], tlb := [⟨none, 0, 30, 0, false, false, true, false, none⟩] };
      (lineFor s 0 0 0x5002#64).isSome = true ∧ holds (exec (.resumeSlot 0 0) s) (fun t => pcOf t == 0x5004 && (slotOf t 0 0).status == .ready) = true) ∧
    (let s := modCore base 0 fun c => { c with halted := true }; (coreOf s 0).halted = true ∧ holds (exec (.releaseCore 0) s) (fun t => (coreOf t 0).halted == false) = true) ∧
    (coreOf sealed' 0).sealed = true ∧ (coreOf sealed' 0).checkerSealed = false ∧
    holds (exec (.resetAndUnsealCore 0) sealed') (fun t => (coreOf t 0).sealed == false && (nameOf t 0 0 1#8).map (·.bits) == some 0#64) = true ∧
    (slotOf base 0 1).status = .free ∧ holds (exec (.resumeSlot 0 1) base) (fun t => (clusterOf t 0).slotctl == 2) = true ∧
    (coreOf sealed' 0).sealed = true ∧ (coreOf base 0).halted = false ∧ (coreOf base 0).sealed = false ∧
    holds (exec (.huskSlot 0 14 0x8000) base) (fun t => (clusterOf t 0).slotctl == 2) = true ∧
    ((quadOf base 0).tempNext.getD (quadOf base 0).tempTest).getLsbD 63 = false ∧ holds (exec (.thermalSample 0 1680) base) (fun t => (quadOf t 0).thermalCap == 2150) = true ∧
    holds (exec (.voltageTrim 0 6) base) (fun _ => true) = true ∧ ([] : List Nat).sum ≤ 1800000 - 1800000 ∧
    holds (exec (.migrationRequest 0 2 3) base) (fun t => t.hwMsgs.length == 1) = true ∧ holds (exec (.haltCore 0) base) (fun t => (coreOf t 0).halted) = true := by decide +kernel

theorem witness_Supervision_words : 2 < 64 ∧ 3 < 64 ∧ holds (exec (.migrationRequest 0 2 3) base) (fun t =>
    t.hwMsgs.map (fun h => h.msg.words) == [[base.dev.fwRequest, 0x302#64, BitVec.ofNat 64 (q0 + 0x40000), 0#64]]) = true := by decide +kernel

/-! ### Messages and transfers -/

/-- A launch of queue 2 with a handler map. -/
def launch1 : Launch :=
  { queue := 2, ticket := 3#32, tag := 4#32, packet := [], ext := [], sec := false, ldchk := false, test := false, quota := 2, root := 0, entry := 0x4002#64, tvec := 0#64,
    mapIdx := 0, map := [0#16, 0#16], hmap := some [0#16, 0#16], cmask := 1#64, kmask := 1#64, wins := [1#64, 2#64, 3#64, 4#64], seeds := [], ckpt := 0#64, bars := [] }

/-- A message of that launch from core 1 to slot 15 of core 0. -/
def message : Message := { core := 1, serial := 60, target := mkAgent 15 0 0 0, sender := mkAgent 0 0 0 1, launch := some 1, words := [0x6002#64, 9#64] }

/-- The message in core 1's outbound buffer, and a strand of its launch on core 0, whose handler map is in force. -/
def sending : State :=
  let s := modCore { setSlot base 0 0 { strand with launch := some 1, w0 := win } with launches := [(1, launch1)] } 0 fun c => { c with hmap := some [0#16, 0#16] }
  modCore s 1 fun c => { c with outbuf := [{ msg := message, slot := 0, uid := 9 }] }

/-- The same with every ordinary entry of core 0's inbox taken. -/
def fullInbox : State := modCore sending 0 fun c =>
  { c with inbox := (List.range 16).map fun e => { entry := e, target := mkAgent 15 0 0 0, sender := mkAgent 0 0 0 1, launch := some 1, handler := 0x6002#64 } }

theorem test_send : holds (exec (.send 5#3 1#1 5#8 251#8 2#7) (setName (windowed [7#64, 8#64]) 0 0 5#8 (nm 64 false .wrap 1 128)))
    (fun t => (coreOf t 0).outbuf.map (fun e => (e.msg.target, e.msg.words)) == [(1#32, [7#64, 8#64])]) = true := by decide +kernel
theorem test_handler_start : holds (exec (.handlerStart 0 15) fullInbox) (fun t => (slotOf t 0 15).pc == 0x6002#64 && (slotOf t 0 15).msg == inboxWindow 0 0) = true := by decide +kernel

theorem witness_MessageResult : (let s := setName (windowed [7#64, 8#64]) 0 0 5#8 (nm 64 false .wrap 1 128); (curSlot s).pendErr = none ∧ readName 5#8 s = .ok 1 s ∧
      readWindow 251#8 false s = .ok win s ∧ agentValid s 1#32 = true ∧ agentHere s 1#32 = true ∧ agentUnit 1#32 < 64 ∧ (snapshot win 2 s matches .ok [7#64, 8#64] _) = true ∧
      outRoom s 0 0 = true) ∧
    message.serial ≠ 0 ∧ (coreOf sending 1).outbuf.find? (fun x => x.msg == message) = some { msg := message, slot := 0, uid := 9 } ∧
    earlierTo sending (coreOf sending 1).outbuf message = false ∧ agentHere sending message.target = true ∧ agentUnit message.target < 64 ∧ agentUnit message.sender < 64 ∧
    (coreOf sending 0).sealed = false ∧ admissible sending 0 message = true ∧ freeEntry sending 0 0 16 = some 0 ∧ Memory.wf sending.mem = true ∧
    holds (exec (.messageArrival message) sending) (fun t => (coreOf t 1).outbuf.isEmpty && memWord t.mem (inboxAddr 0 0 + 8) == 9#64) = true ∧
    admissible fullInbox 0 message = true ∧ freeEntry fullInbox 0 0 16 = none ∧
    holds (exec (.messageArrival message) fullInbox) (fun t => (coreOf t 1).outbuf.map (·.due) == [64]) = true ∧
    holds (exec (.messageRetry 1) (modCore sending 1 fun c => { c with outbuf := c.outbuf.map fun e => { e with retrying := true } })) (fun t => (coreOf t 1).outbuf.all (! ·.retrying)) = true ∧
    (slotOf fullInbox 0 15).status = .free ∧ (nextInbox (coreOf fullInbox 0)).isSome = true ∧ isStreamer 0 = false ∧
    (let s := modLogical base 0 0 fun x => { x with comps := [⟨5#32, 0x7002#64, 0#64, none⟩] };
      holds (exec (.handlerStart 0 14) s) (fun t => (slotOf t 0 14).pc == 0x7002#64 && (slotOf t 0 14).xid == 5#32 && (logicalOf t 0 0).comps.isEmpty) = true) ∧
    (let s := takeTrap base 0x04 9#64; (clusterOf s 0).trapWaits.length = 1 ∧ freeEntry s (keyOf 0 64) 16 64 = some 16 ∧ Memory.wf s.mem = true ∧
      holds (exec (.trapMessage 0) s) (fun t => memWord t.mem (inboxAddr 64 16 + 16) == 9#64 && (clusterOf t 0).trapWaits.isEmpty) = true) := by decide +kernel

theorem witness_MessageResult_handlers : (coreOf fullInbox 0).sealed = false ∧ (coreOf fullInbox 0).halted = false ∧ (mapInForce fullInbox 0).isSome = true ∧ (mapInForce base 0).isSome = false ∧
    (∃ e, (coreOf sending 1).outbuf.find? (fun x => x.msg == message) = some e ∧ e.retrying = false ∧ e.sent = false) := by
  refine ⟨by decide +kernel, by decide +kernel, by decide +kernel, by decide +kernel, ⟨{ msg := message, slot := 0, uid := 9 }, by decide +kernel, rfl, rfl⟩⟩

/-- A layout record of one row of 64 bytes in the strand's window, and a transfer 5 in the table. -/
def copying : State :=
  modLogical (windowed [0x1000#64, 0x2000#64, 0x0000000100000040#64, 0#64, 0x8002#64, 0#64, 0#64, 0#64]) 0 0 fun x =>
    { x with xfers := [(5, { slot := 0, uid := 7, launch := none }), (7, { slot := 0, uid := 7, launch := none, result := some 8 })] }

/-- A streamer with a request in its inbox. -/
def streaming : State := modCore base 65 fun c =>
  { c with inbox := [{ entry := 3, target := mkAgent 0 0 0 65, sender := mkAgent 0 0 0 0, launch := none, handler := 0x1000#64 }] }

theorem test_copy : holds (exec (.copy 1#8 251#8 240#8 0#16) copying) (fun t => value t 1 == some 1 && (coreOf t 0).outbuf.length == 1 && (tfind (logicalOf t 0 0).xfers 1).isSome) = true := by
  decide +kernel
theorem test_xwait_failed : holds (exec (.xwait 1#8) copying) (fun t => trapped t 0x08 7#64) = true := by decide +kernel
theorem test_completion : holds (exec (.completionArrival (mkAgent 14 0 0 0) 0x8002#64 5#32 0#64) copying)
    (fun t => (logicalOf t 0 0).comps.length == 1 && (tfind (logicalOf t 0 0).xfers 5).isNone) = true := by decide +kernel

theorem witness_TransferResult : (curSlot copying).pendErr = none ∧ readWindow 251#8 false copying = .ok win copying ∧ readName 240#8 copying = .ok 0 copying ∧
    (match readWin win 0 64 copying with | .ok v _ => badLayout (elems64 8 v) == none | _ => false) = true ∧ (logicalOf copying 0 0).xfers.length < 32 ∧ outRoom copying 0 0 = true ∧
    readName 4#8 copying = .ok 200 copying ∧ tfind (logicalOf copying 0 0).xfers 200 = none ∧ (tfind (logicalOf copying 0 0).xfers 7).map (·.result) = some (some 8) ∧ readName 1#8 copying = .ok 7 copying ∧
    isStreamer 65 = true ∧ ((coreOf streaming 65).inbox.find? fun e => e.entry == 3 && !e.running).isSome = true ∧ freeWork streaming 65 = some 0 ∧
    (match placeMap streaming 65 0 routineMap with | .inr _ => true | .inl _ => false) = true ∧
    holds (exec (.copyRequest 65 3) streaming) (fun t => (slotOf t 65 0).status == .ready && (slotOf t 65 0).msg == inboxWindow 65 3) = true ∧
    holds (exec (.completionArrival (mkAgent 14 0 0 0) 0#64 5#32 9#64) copying) (fun t => (tfind (logicalOf t 0 0).xfers 5).map (·.result) == some (some 9)) = true ∧
    (slotOf stopped 0 0).status = .stopped .trapped ∧ holds (exec (.resumePacket 0 0 0#64 1#64 0x9002#64 4#64) stopped) (fun t => pcOf t == 0x9002 && (curSlot t).lnk == 4#64) = true := by
  decide +kernel

theorem witness_TransferResult_room : copyRoom (logicalOf copying 0 0) = true ∧ (coreOf stopped 0).halted = false ∧
    (match readWin win 0 64 copying with
      | .ok v s3 => (let ws := elems64 8 v; let x := freeXid (logicalOf s3 0 0).xfers 34 (logicalOf s3 0 0).nextXid; badLayout ws == none && x == 1#32 &&
          (match writeName 4#8 1 s3 with | .ok () s4 => outRoom (routeCopy (BitVec.ofNat 64 (ws.getD 0 0)) x s4).2 0 0 | _ => false))
      | _ => false) = true := by decide +kernel

/-- The copy's record read and no place left in the transfer table; then the same with a place. -/
def copyWaiting : State := next (.copy 1#8 251#8 240#8 0#16) (modLogical copying 0 0 fun x => { x with xfers := (List.range 32).map fun j => (100 + j, { slot := 1, uid := 9, launch := none }) })
def copyAgain : State := modLogical copyWaiting 0 0 fun x => { x with xfers := [] }

theorem witness_TransferResult_waits : copyRoom (logicalOf copyWaiting 0 0) = false ∧ pcOf copyWaiting = pcOf copying ∧ (curSlot copyWaiting).snap = [0x1000#64, 0x2000#64, 0x0000000100000040#64, 0#64, 0x8002#64, 0#64, 0#64, 0#64] ∧
    (curSlot copyAgain).snap = [0x1000, 0x2000, 0x100000040, 0, 0x8002, 0, 0, 0].map (BitVec.ofNat 64) ∧ copyRoom (logicalOf copyAgain 0 0) = true ∧ badLayout [0x1000, 0x2000, 0x100000040, 0, 0x8002, 0, 0, 0] = none ∧
    (match writeName 1#8 1 copyAgain with | .ok () s4 => outRoom (routeCopy 0x1000#64 1#32 s4).2 0 0 | _ => false) = true ∧
    holds (exec (.copy 1#8 251#8 240#8 0#16) { copyAgain with mem := [] }) (fun t => (coreOf t 0).outbuf.map (fun m => m.msg.words.take 3) == [[0x1000#64, 0x2000#64, 0x100000040#64]]) = true ∧
    (let s := windowed [0x1000#64, 0x2000#64, 0#64, 0#64, 0x8002#64, 0#64, 0#64, 0#64]; (match readWin win 0 64 s with | .ok v _ => (badLayout (elems64 8 v)).isSome | _ => false) = true ∧
      holds (exec (.copy 1#8 251#8 240#8 0#16) s) (fun t => (curSlot t).cause == 0x02#8) = true) := by decide +kernel

/-- Core 0's strand saved to the record at 0x1000 by HUSK.SAVEG, its launch entered, and a strand of the supervisor core at the restart of it. -/
def restarting : State :=
  let s := { setSlot mapped 0 0 { strand with launch := some 1, owner := some 2 } with mem := memPutWord tree 0x1038 0x100000#64, launches := [(1, launch1)] }
  let t := next (.storePerformed 0 0) (next (.storePerformed 0 0) (next (.huskSaveg 5#8 240#8 0#16) s))
  setSlot { setSlot t 0 0 {} with cur := supervisor.cur } 64 0 { strand with uid := 12 }

theorem witness_HuskRun_supervisor : isSupervisor restarting.cur.core = true ∧ restarting.cur.slot < 14 ∧ huskPlace true 5#8 240#8 0#16 .load restarting = .ok (0x1000, 0x1000#64) restarting ∧
    (match readWords 0x1000 0x1000#64 8 restarting with
      | .ok ws t => badHuskWord ws == none && (match huskLaunch ws t with
          | .ok sp _ => (match readSpill ws sp t with
              | .ok d u => u.cur == restarting.cur && t.cur == restarting.cur && BitVec.ofNat 32 ((ws.getD 1 0#64).toNat / 2 ^ 32) == 0#32 && agentKey u 0#32 == 0 && agentValid u 0#32 &&
                  agentHere u 0#32 && !(drainBusy u 64 0 4 ((curSlot u).fenced.getD u.serial)) && (slotOf u 0 0).status == .free &&
                  (match placeMap (dropMap u 0) 0 0 d.img with | .inr _ => true | .inl _ => false)
              | _ => false)
          | _ => false)
      | _ => false) = true ∧
    holds (exec (.huskRung 5#8 240#8 0#16) restarting) (fun t => pcOf t == 0x1004 && (slotOf t 0 0).status == .ready && (slotOf t 0 0).pc == 0x1004#64 && (slotOf t 0 0).launch == some 1) = true ∧
    (let s := (List.range 14).foldl (fun s i => setSlot s 0 i { strand with uid := i + 1 }) restarting; (∀ j, j < 14 → (slotOf s 0 j).status ≠ .free) ∧
      holds (exec (.huskRung 5#8 240#8 0#16) s) (fun t => (curSlot t).status == .parked (.slotFree 0)) = true) := by decide +kernel

/-! ### Vectors, conversions, the sequencer -/

/-- A row of a type that begins with some elements. -/
def rowFrom (ty : Nat) (xs : List Nat) : BitVec 1024 := rowOf ty (xs ++ List.replicate (laneCount ty - xs.length) 0)

/-- The test strand with rows of I8 (0 to 2), F32 (3 to 6), I32 (7), F4 (8), F32 (9 to 16), I8 (17), I32 (18, 19), I8 (20) and I32 (21). -/
def rows : State := setSlot base 0 0 { strand with w0 := win, vecs :=
  [(0, ⟨0, 5, 0, 0#1024⟩), (1, ⟨1, 5, 0, rowFrom 5 [100, 200, 3]⟩), (2, ⟨2, 5, 0, rowFrom 5 [100, 2, 3]⟩), (3, ⟨3, 0, 3, 0#1024⟩), (4, ⟨4, 0, 3, rowFrom 0 [0x3F800000, 0x40200000]⟩),
   (5, ⟨5, 0, 3, rowFrom 0 [0x40000000, 0x80000000]⟩), (6, ⟨6, 0, 3, rowFrom 0 [0x3F800000]⟩), (7, ⟨7, 8, 7, rowFrom 8 [1]⟩), (8, ⟨8, 4, 8, rowFrom 4 [2]⟩),
   (9, ⟨9, 0, 9, rowFrom 0 [0x3FC00000, 0x41000000]⟩), (10, ⟨10, 0, 9, 0#1024⟩), (11, ⟨11, 0, 9, 0#1024⟩), (12, ⟨12, 0, 9, 0#1024⟩), (13, ⟨13, 0, 9, 0#1024⟩), (14, ⟨14, 0, 9, 0#1024⟩),
   (15, ⟨15, 0, 9, 0#1024⟩), (16, ⟨16, 0, 9, 0#1024⟩), (17, ⟨17, 5, 17, rowFrom 5 [127]⟩), (18, ⟨18, 8, 18, rowFrom 8 [0x40000000]⟩), (19, ⟨19, 8, 18, 0#1024⟩), (20, ⟨20, 5, 20, rowFrom 5 [32]⟩), (21, ⟨21, 8, 21, rowFrom 8 [0x40000000, 3]⟩)] }

/-- A vector field. -/
def v (n : Nat) : VRef := ⟨0#1, BitVec.ofNat 6 n⟩

/-- The first element of a vector id after a step. -/
def elem (t : State) (n : Nat) : Nat := (vecElems t n).headD 0

theorem test_vadd_sat : holds (exec (.vadd (v 0) (v 1) (v 2)) rows) (fun t => (vecElems t 0).take 3 == [127, 202, 6] && (curSlot t).flags == flagSAT) = true := by decide +kernel
theorem test_vsub : holds (exec (.vsub (v 0) (v 1) (v 2)) rows) (fun t => (vecElems t 0).take 2 == [0, 198]) = true := by decide +kernel
theorem test_vceq : holds (exec (.vceq (v 7) (v 4) (v 6)) rows) (fun t => (vecElems t 7).take 2 == [0xFFFFFFFF, 0]) = true := by decide +kernel
theorem test_vfma : holds (exec (.vfma (v 3) (v 4) (v 5) (v 6)) rows) (fun t => elem t 3 == 0x40400000) = true := by decide +kernel
theorem test_vfms : holds (exec (.vfms (v 3) (v 4) (v 5) (v 6)) rows) (fun t => elem t 3 == 0x3F800000) = true := by decide +kernel
theorem test_vsel : holds (exec (.vsel (v 3) (v 7) (v 4) (v 5)) rows) (fun t => (vecElems t 3).take 2 == [0x3F800000, 0x80000000]) = true := by decide +kernel
theorem test_vrcp : holds (exec (.vrcp (v 3) (v 5)) rows) (fun t => (vecElems t 3).take 2 == [0x3F000000, 0xFF800000] && (curSlot t).flags == flagDZ) = true := by decide +kernel
theorem test_vfloor : holds (exec (.vfloor (v 3) (v 4)) rows) (fun t => (vecElems t 3).take 2 == [0x3F800000, 0x40000000]) = true := by decide +kernel
theorem test_vneg_type : holds (exec (.vneg (v 3) (v 1)) rows) (fun t => trapped t 0x10 1#64) = true := by decide +kernel

theorem witness_VectorResult : vectorFree rows ∧ vecTy rows 0 = 5 ∧ vecTy rows 3 = 0 ∧ (vecAt rows 0).isSome = true ∧ (vecAt rows 1).isSome = true ∧ (vecAt rows 63).isNone = true ∧
    numericType 5 = true ∧ intType 5 = true ∧ wideFloat 0 = true ∧ maskType 0 = 8 ∧ selType 0 = 8 ∧ selType 4 = 5 ∧
    holds (exec (.vadd (v 0) (v 1) (v 63)) rows) (fun t => trapped t 0x03 63#64) = true ∧ holds (exec (.vmov (v 0) (v 1)) rows) (fun t => elem t 0 == 100) = true ∧
    holds (exec (.vxor (v 0) (v 1) (v 2)) rows) (fun t => (vecElems t 0).take 2 == [0, 202]) = true := by unfold vectorFree; decide +kernel

theorem witness_VectorResult_traps : vectorFree rows ∧ (vecAt rows 63).isNone = true ∧
    (let bad := fun (i : Instr) (c : Nat) (j : Nat) => holds (exec i rows) fun t => trapped t (BitVec.ofNat 8 c).toNat (BitVec.ofNat 64 j);
      bad (.vmul (v 62) (v 63) (v 2)) 3 62 ∧ bad (.vsel (v 3) (v 7) (v 4) (v 63)) 3 63 ∧ bad (.vmov (v 0) (v 63)) 3 63 ∧
      numericType (vecTy rows 4) = true ∧ bad (.vabs (v 0) (v 3)) 0x10 3 ∧ bad (.vmov (v 0) (v 3)) 0x10 3 ∧ bad (.vadd (v 0) (v 3) (v 2)) 0x10 3 ∧ bad (.vadd (v 0) (v 1) (v 3)) 0x10 3 ∧
      bad (.vand (v 0) (v 3) (v 2)) 0x10 3 ∧ bad (.vand (v 0) (v 1) (v 3)) 0x10 3 ∧ maskType (vecTy rows 4) = 8 ∧ bad (.vceq (v 0) (v 4) (v 6)) 0x10 0 ∧ bad (.vceq (v 7) (v 4) (v 1)) 0x10 1 ∧
      wideFloat (vecTy rows 0) = false ∧ bad (.vfma (v 0) (v 4) (v 5) (v 6)) 0x10 0 ∧ bad (.vfma (v 3) (v 0) (v 5) (v 6)) 0x10 0 ∧ bad (.vfms (v 3) (v 4) (v 0) (v 6)) 0x10 0 ∧
      bad (.vfms (v 3) (v 4) (v 5) (v 0)) 0x10 0 ∧ bad (.vsel (v 3) (v 0) (v 4) (v 5)) 0x10 0 ∧ bad (.vsel (v 3) (v 7) (v 0) (v 5)) 0x10 0 ∧ bad (.vsel (v 3) (v 7) (v 4) (v 0)) 0x10 0) := by
  unfold vectorFree; decide +kernel

theorem witness_LaneRules : (5 ∈ [5, 8, 9] ∧ 200 < 2 ^ typeBits 5 ∧ laneAdd 5 0 127 1 = (127, flagSAT) ∧ laneMul 5 0 0x80 0xFF = (127, flagSAT) ∧ laneCompare (fun o => o == .lt) 5 0 0x80 0x7F = (255, 0#8)) ∧
    ((elemValue 0 0x7FC00001).isNan = true ∧ laneAdd 0 0 0x7FC00001 0 = (nanOf 0, 0#8)) ∧ lanePick true 0 0 0 0x80000000 = (0x80000000, 0#8) := by decide +kernel

theorem witness_RoundingKeepsRepresentable : ((0x3FC00000 : Nat) < 2 ^ typeBits 0 ∧ (elemValue 0 0x3FC00000).isNan = false ∧ rnd 0 modeRUP (elemValue 0 0x3FC00000) = (0x3FC00000, 0#8)) ∧
    (let n : Int := 11; -128 ≤ n.fdiv (2 ^ 2) ∧ n.fdiv (2 ^ 2) + 1 ≤ 127 ∧ n % 2 ^ 2 ≠ 0 ∧ 2 ^ 2 < 2 * (n % 2 ^ 2) ∧ rndInt (-128) 127 modeRNE (.fin false 11 (-2) false) = (3, flagNX)) ∧
    (let n : Int := -11; 2 * (n % 2 ^ 2) < 2 ^ 2 ∧ rndInt (-128) 127 modeRTZ (.fin true 11 (-2) false) = (-2, flagNX)) := by decide +kernel

theorem test_vcvt : holds (exec (.vcvt (v 17) (v 9) 5#4) rows) (fun t => (vecElems t 17).take 2 == [2, 8] && (curSlot t).flags == flagNX) = true := by decide +kernel
theorem test_vdqnt : holds (exec (.vdqnt (v 9) (v 8) (v 20)) rows) (fun t => elem t 9 == 0x3F800000) = true := by decide +kernel
theorem test_vqnt : holds (exec (.vqnt (v 8) (v 9) (v 17) 4#4) rows) (fun t => (vecElems t 8).take 2 == [2, 6] && elem t 17 == 33) = true := by decide +kernel
theorem test_voutl : holds (exec (.voutl (v 18) (v 9) (v 21)) rows)
    (fun t => (dqOf t 0 0).entries.map (fun (e : QEntry) => e.val) == [some 1#64] && (vecElems t 9).take 2 == [0x3FC00000, 0]) = true := by decide +kernel

/-- Those rows with a threshold of 2.0 and a cap of one element, and a source in which elements 0, 2 and 3 reach it. -/
def outlying : State :=
  setSlot rows 0 0 { curSlot rows with vecs := tput (tput (curSlot rows).vecs 21 ⟨21, 8, 21, rowFrom 8 [0x40000000, 0]⟩) 9 ⟨9, 0, 9, rowFrom 0 [0xC1000000, 0x3F800000, 0x40400000, 0xC0800000]⟩ }

theorem test_voutl_caps : holds (exec (.voutl (v 18) (v 9) (v 21)) outlying) (fun t =>
    (dqOf t 0 0).entries.map (fun (e : QEntry) => e.val) == [some 0x20001#64] && (vecElems t 9).take 4 == [0, 0x3F800000, 0x40000000, 0xC0000000]) = true := by decide +kernel

theorem witness_Conversion_outliers : vectorFree outlying ∧ vecCheck outlying 0 (.voutl (v 18) (v 9) (v 21)) = none ∧
    (let p := pickOutliers ((spanElems outlying (spansOf true outlying 18 9).2).map (elemValue 0)) (elemValue 0 0x40000000) 1; p.1 = [0] ∧ p.2.1 = [2, 3]) ∧
    (spanElems outlying (spansOf true outlying 18 9).2).length = 256 := by unfold vectorFree; decide +kernel

theorem witness_ConversionResult : vectorFree rows ∧ vecCheck rows 0 (.vcvt (v 17) (v 9) 5#4) = none ∧ vecCheck rows 0 (.vdqnt (v 9) (v 8) (v 20)) = none ∧
    vecCheck rows 0 (.vqnt (v 8) (v 9) (v 17) 4#4) = none ∧ vecTy rows 8 ≠ 7 ∧ 17 ≠ 8 ∧
    (let s := setSlot rows 0 0 { curSlot rows with vecs := tput (curSlot rows).vecs 22 ⟨22, 7, 22, 0#1024⟩ };
      let w := (List.range 8).foldl (fun t j => setSlot t 0 0 { curSlot t with vecs := tput (curSlot t).vecs (24 + j) ⟨24 + j, 1, 24, 0#1024⟩ }) s;
      vecCheck w 0 (.vqnt (v 22) (v 24) (v 17) 7#4) = none ∧ vecTy w 22 = 7) ∧
    (curSlot rows).pendErr = none ∧ vecCheck rows 0 (.voutl (v 18) (v 9) (v 21)) = none ∧ (dqOf rows 0 0).vto = [] ∧ (dqOf rows 0 0).vfrom = [] ∧ (dqOf rows 0 0).entries.length < 8 ∧
    (9 + outlierLen 0 ≤ 18 ∨ 18 + 2 ≤ 9) := by unfold vectorFree; decide +kernel

/-- Whether ids of a list are all declared with a type. -/
def allTyped (s : State) (l : List Nat) (ty : Nat) : Bool := l.all fun v => (vecAt s v).any fun e => e.ty == ty

theorem typed_of_all (s : State) (l : List Nat) (ty : Nat) (h : allTyped s l ty = true) : ∀ v ∈ l, ∃ e, vecAt s v = some e ∧ e.ty = ty := by
  intro v hv
  have := List.all_eq_true.1 h v hv
  simpa [Option.any_eq_true] using this

theorem witness_ConversionResult_spans : (∀ p ∈ [(17, 9), (8, 9), (9, 8)], allTyped rows (p.1 :: (spansOf false rows p.1 p.2).1) (vecTy rows p.1) = true ∧
      allTyped rows (p.2 :: (spansOf false rows p.1 p.2).2) (vecTy rows p.2) = true) ∧
    allTyped rows (18 :: (spansOf true rows 18 9).1) 8 = true ∧ allTyped rows (9 :: (spansOf true rows 18 9).2) 0 = true ∧ vecTy rows 17 = 5 ∧ narrowType (vecTy rows 8) = true ∧
    wideFloat (vecTy rows 9) = true ∧ allTyped rows [17, 20] 5 = true ∧ allTyped rows [21] 8 = true := by decide +kernel

/-- Those rows, the words 1 and 2 at the start of the window. -/
def rowsInMemory : State := { rows with mem := memPutWords [] q0 [1#64, 2#64] }

theorem test_vld : holds (exec (.vld (v 0) 251#8 240#8 0#8) rowsInMemory) (fun t => (vecElems t 0).take 9 == [1, 0, 0, 0, 0, 0, 0, 0, 2]) = true := by decide +kernel
theorem test_vldb : holds (exec (.vldb (v 0) 251#8 4#8 0#8) (setName rowsInMemory 0 0 4#8 (nm 8 false .wrap 4 80))) (fun t => (vecElems t 0).take 9 == [0, 0, 0, 0, 0, 0, 0, 0x20, 0]) = true := by
  decide +kernel
theorem test_vst : holds (exec (.vst (v 1) 251#8 240#8 1#8) rows) (fun t => (quadOf t 0).wq.map (fun e => e.op.span) == [(q0 + 128, 128)]) = true := by decide +kernel
theorem test_vstb : holds (exec (.vstb (v 1) 251#8 240#8 0#8) rows) (fun t => (quadOf t 0).wq.length == 1) = true := by decide +kernel
theorem test_vtoq : holds (exec (.vtoq 241#8 (v 1)) rows) (fun t => (dqOf t 0 0).entries.length == 8 && (dqOf t 0 0).vto.map (fun e => e.words.length) == [8]) = true := by decide +kernel
theorem test_vallq : holds (exec (.vallq 241#8 (v 1)) rows) (fun t => (dqOf t 0 0).entries == [⟨100, some 0#64, false, false⟩]) = true := by decide +kernel

theorem witness_VectorMoveResult : vectorFree rows ∧ (curSlot rows).pendErr = none ∧ (vecAt rows 1).isSome = true ∧ readName 251#8 rows = .ok win.toNat rows ∧ readName 240#8 rows = .ok 0 rows ∧
    winValid win false = true ∧ 7 ≤ winLg win ∧ hasRoom rows ∧ (match rowWords {} [q0, q0 + 8] rowsInMemory with | .ok ws _ => ws == [(1, false), (2, false)] | _ => false) = true ∧
    241 ≤ (241#8 : Name).toNat ∧ (dqOf rows 0 0).vto = [] ∧ (dqOf rows 0 0).vfrom = [] ∧ (dqOf rows 0 0).entries = [] ∧
    holds (exec (.vfromq (v 1) 241#8) rows) (fun t => (dqOf t 0 0).vfrom.length == 1) = true ∧ holds (exec (.vanyq 241#8 (v 1)) rows) (fun t => (dqOf t 0 0).entries == [⟨100, some 1#64, false, false⟩]) = true := by
  unfold vectorFree hasRoom; decide +kernel

theorem witness_VectorMove_kept : (∀ e ∈ (curSlot rows).kept, e.1 ≠ 0) ∧ (vecAt rows 1).isSome = true := by decide +kernel

/-- The test strand the owner of the sequencer, recording. -/
def recordingRows : State := modCore rows 0 fun c => { c with seq := { owner := some 0, recording := true } }

/-- The owner with one entry recorded. -/
def recorded : State := modCore rows 0 fun c => { c with seq := { owner := some 0, buf := [{ instr := .vadd (v 0) (v 1) (v 2) }] } }

/-- The run of that entry twice. -/
def running : State := modCore recorded 0 fun c =>
  { c with seq := { c.seq with run := some { rm := 0#3, n0 := 2, n1 := 1, n2 := 1, slevel := 0, m := 1, t0 := 0, t1 := 0, t0s := [0, 0, 0], t1s := [0, 0, 0] } } }

theorem test_record : holds (exec (.vadd (v 0) (v 1) (v 2)) recordingRows) (fun t => (coreOf t 0).seq.buf.length == 1 && elem t 0 == 0) = true := by decide +kernel
theorem test_run_entry : holds (exec (.rpRunEntry 0) running) (fun t => elem t 0 == 127 && (coreOf t 0).seq.run.map (fun r => r.i0) == some 1) = true := by decide +kernel
theorem test_rprun : holds (exec (.rprun 251#8 240#8 0#16) { recorded with mem := memPutWords [] q0 [0x0001000300020005#64] })
    (fun t => (coreOf t 0).seq.run.map (fun r => (r.n0, r.n1, r.n2, r.m)) == some (5, 2, 3, 2)) = true := by decide +kernel

theorem witness_SequencerAndRunResult : isCore rows.cur.core = true ∧ rows.cur.slot < 14 ∧ (curSeq rows).owner = none ∧ (curSeq recordingRows).owner = some 0 ∧ (curSeq recordingRows).recording = true ∧
    (curSeq recordingRows).run = none ∧ vecCheck recordingRows 0 (.vadd (v 0) (v 1) (v 2)) = none ∧ (curSeq recordingRows).buf.length < 16 ∧
    (let s := modCore rows 0 fun c => { c with seq := { owner := some 3 } }; (curSeq s).owner ≠ some s.cur.slot ∧
      holds (exec .rpbegin s) (fun t => trapped t 0x15 3#64) = true ∧ holds (exec .rpwait s) (fun t => trapped t 0x15 0#64) = true) ∧
    (curSeq recorded).recording = false ∧ (curSeq recorded).buf ≠ [] ∧ recheck recorded 1 (curSeq recorded).buf = none ∧ drainBusy recorded 0 0 3 100 = false ∧
    holds (exec (.rpruni 4#16) recorded) (fun t => (coreOf t 0).seq.run.map (fun r => r.n0) == some 4) = true ∧ holds (exec .rpend recorded) (fun t => (coreOf t 0).seq == {}) = true ∧
    badNest [0x0001000300020005, 0, 0, 0] = none ∧
    (match (coreOf running 0).seq.run, (coreOf running 0).seq.buf[0]? with
      | some r, some e => r.e < 1 && r.i0 < r.n0 && r.i1 < r.n1 && r.i2 < r.n2 && (vecTouched running 0 e.instr).all (fun j => !(vecOutstanding running 0 0 j)) && (vecEffect (runExec r e) e.instr running matches .ok () _)
      | _, _ => false) = true ∧
    (let s := modCore running 0 fun c => { c with seq := { c.seq with run := c.seq.run.map fun r => { r with i2 := 1 } } };
      runMoving (coreOf s 0) = false ∧ holds (exec (.rpRunEntry 0) s) (fun t => (coreOf t 0).seq.run.isNone) = true) := by decide +kernel

theorem witness_Sequencer_reads : readsOut recorded 0 0 = false ∧ drainBusy recorded 0 0 3 ((curSlot recorded).fenced.getD recorded.serial) = false ∧ runMoving (coreOf running 0) = false ∧
    (let s := { recorded with mem := memPutWords [] q0 [0x0001000300020005#64] }; (readWin win 0 32 s matches .ok _ _) = true ∧ readWindow 251#8 false s = .ok win s) := by decide +kernel

/-! ### The matrix unit -/

/-- Core 0 with a command of the test strand at the head of its queue, its tag 0x77. -/
def command (s : State) (ws : List Nat) : State :=
  modCore s 0 fun c => { c with mx := { c.mx with queue := [{ words := (ws ++ List.replicate (8 - ws.length) 0).map (BitVec.ofNat 64), slot := 0, uid := 7 }] } }

/-- A BF16 by BF16 context that reads out F32, and 1.0 and 2.0 at the starts of its operands. -/
def context : State :=
  modCore { base with mem := memPuts [(q0, 0x80#8), (q0 + 1, 0x3F#8)] (q0 + 0x1001) [0x40#8] } 0 fun c =>
    { c with mx := { c.mx with ctx := some { fa := 1, fb := 1, ba := 0, bb := 0, out := 0, rm := 0, lock := 0, cap := 0 } } }

/-- The words of an MMA of K 32 on set 0, from the store at 0 and 0x1000. -/
def mmaWords : List Nat := [0x7700000003, 0x20000F0F00, 0x3FF00000000, 64, 0x3FF00001000, 64]

/-- The words of an MREAD of set 0, zeroing it, to rows of 128 bytes from 0x2000. -/
def mreadWords : List Nat := [0x7700000104, 0, 0x3FF00002000, 128]

/-- The words of an MTILE of 32 I8 elements a lane to tile register 2. -/
def mtileWords : List Nat := [0x7700000006, 0x2000000502, 0x3FF00000000, 0x04000020]

/-- The context with an MMA in execution. -/
def multiplying : State := modCore context 0 fun c =>
  { c with mx := { c.mx with exec := some { cmd := { words := (mmaWords ++ [0, 0]).map (BitVec.ofNat 64), slot := 0, uid := 7 } },
                             acc0 := { pair := some (9, 0, 0), progress := (0, 1) } } }

/-- A set whose first element is 2.0 in units of 2^-80. -/
def summed : State := modCore context 0 fun c =>
  { c with mx := { c.mx with acc0 := { elems := [(0, { val := BitVec.ofNat 160 (2 ^ 81) })], kcount := 32, pair := some (9, 0, 0), progress := (1, 1) } } }

theorem test_mctx : holds (exec (.mctx 0) (command base [0x7700000001, 0x0000000000000101])) (fun t => (coreOf t 0).mx.ctx.map (fun x => (x.fa, x.fb)) == some (1, 1)) = true := by decide +kernel
theorem test_mctx_refused : holds (exec (.mctx 0) (command base [0x7700000001, 0x0000000900000101])) (fun t => (coreOf t 0).mx.edet == 3 && (curSlot t).pendErr.map (fun e => e.cause) == some 0x11) = true := by
  decide +kernel
theorem test_mzero : holds (exec (.mzero 0) (command summed [0x7700000002, 1])) (fun t => (coreOf t 0).mx.acc0 == {}) = true := by decide +kernel
theorem test_mtile : holds (exec (.mtile 0) (command context mtileWords)) (fun t => ((tfind (coreOf t 0).mx.tiles 2).map fun x => ((x.codes.getD 0 []).take 2)) == some [0x80, 0x3F]) = true := by decide +kernel
theorem test_mma : holds (exec (.mma 0) (command context mmaWords)) (fun t => (coreOf t 0).mx.acc0.progress == (0, 1) && (coreOf t 0).mx.exec.isSome) = true := by decide +kernel
theorem test_k_block : holds (exec (.kBlockCompletion 0) multiplying) (fun t => (tget (coreOf t 0).mx.acc0.elems {} 0).val == BitVec.ofNat 160 (2 ^ 81) && (coreOf t 0).mx.acc0.kcount == 32) = true := by
  decide +kernel
theorem test_readout : rnd 0 0 (accNum (setLsb (coreOf summed 0).mx.acc0) (tget (coreOf summed 0).mx.acc0.elems {} 0)) = (0x40000000, 0#8) := by decide +kernel
theorem test_mfence : holds (exec (.mfence 0) (command base [0x7700000005, 0, 0x3FF00000008])) (fun t => memWord t.mem (q0 + 8) == 0x77#64 && t.full == [q0 + 8]) = true := by decide +kernel

theorem witness_MatrixResult : isCore 0 = true ∧ mxNext (command context mmaWords) (quadOfKey 0) = some 0 ∧ (coreOf (command context mmaWords) 0).mx.ctx.isSome = true ∧
    (∀ w ∈ [([0x7700000001, 0x0000000000000101], 1), ([0x7700000002, 1], 2), (mtileWords, 6), (mmaWords, 3), (mreadWords, 4), ([0x7700000005, 0, 0x3FF00000008], 5)],
      (match (coreOf (command context w.1) 0).mx.queue with | [c] => cmdKind c.words == w.2 && (cmdDetail (coreOf (command context w.1) 0).mx c.words).isNone | _ => false) = true) ∧
    (match (coreOf (command base [0x7700000001, 0x0000000900000101]) 0).mx.queue with | [c] => cmdDetail (coreOf base 0).mx c.words == some 3 | _ => false) = true ∧
    Memory.wf context.mem = true ∧ 0x2000 + 32 * 128 ≤ 2 ^ 19 ∧ inInbox (q0 + 0x2000) = false ∧ inInbox (q0 + 0x2FFF) = false ∧ (quadOf base (portKey (q0 + 8))).feWaits = [] := by decide +kernel

theorem witness_MatrixResult_refusals :
    (∀ p ∈ [((Instr.mctx 0), [0x7700000001, 0x0000000900000101]), (.mctx 0, [0x7700000007]), (.mzero 0, [0x7700000002, 1, 1]), (.mma 0, [0x7700000003, 0x20000F0F02, 0x3FF00000000, 64, 0x3FF00001000, 64]),
        (.mread 0, [0x7700000104, 0, 0x3FF00002000, 1]), (.mfence 0, [0x7700000005, 1, 0x3FF00000008]), (.mtile 0, [0x7700000006, 0x2000000902, 0x3FF00000000, 0x04000020])],
      (match (coreOf (command context p.2) 0).mx.queue with | [c] => (cmdDetail (coreOf (command context p.2) 0).mx c.words).isSome | _ => false) = true ∧
      holds (exec p.1 (command context p.2)) (fun t => (coreOf t 0).mx.ecount == 1 && (coreOf t 0).mx.queue.isEmpty) = true) ∧
    (∀ f ∈ context.flips, inSram f.1 = true) ∧ (let s := { context with flips := [(0x8000008, 3)] }; ∀ f ∈ s.flips, inSram f.1 = true) := by decide +kernel

theorem test_macc : holds (exec (.macc 5#8 1#8 4#8) (setName summed 0 0 1#8 (nm 32 true .wrap 1 32))) (fun t => value t 5 == some (2 ^ 17) && value t 4 == some 1) = true := by decide +kernel
theorem test_macc_range : holds (exec (.macc 5#8 2#8 4#8) summed) (fun t => trapped t 0x11 (BitVec.ofInt 64 (-3))) = true := by decide +kernel
theorem test_mstat : holds (exec (.mstat 5#8) (command base mmaWords)) (fun t => value t 5 == some 1) = true := by decide +kernel

theorem witness_MatrixSumAndReads : (coreOf multiplying 0).mx.exec.isSome = true ∧ (coreOf multiplying 0).mx.ctx.isSome = true ∧
    (let a : Opnd := { v := .fin false 3 (-2) false }; let b : Opnd := { v := .fin true 5 0 false };
      (∀ p ∈ List.zip [a, b] [b, b], (wholeProduct (-80) p).isSome) ∧ (accDot (-80) none [a, b] [b, b] {}).1.val = BitVec.ofInt 160 ((-15) * 2 ^ 78 + 25 * 2 ^ 80)) ∧
    isCore summed.cur.core = true ∧ readName 240#8 summed = .ok 0 summed ∧ setBusy (coreOf summed 0).mx 0 = false ∧ signedOfName 5#8 summed = .ok false summed ∧
    (match writeName 5#8 (readAs 64 false (accWord (tget (coreOf summed 0).mx.acc0.elems {} 0) 0)) summed with | .ok () w => (writeName 4#8 65537 w matches .ok () _) | _ => false) = true ∧
    readName 2#8 summed = .ok (-3) summed ∧ isCore supervisor.cur.core = false ∧ (writeName 5#8 0 summed matches .ok () _) = true := by decide +kernel

theorem witness_MatrixSum_blocks : (match (coreOf multiplying 0).mx.exec, (coreOf multiplying 0).mx.ctx with | some e, some x => anyBlocked multiplying (blockWords 0 x e) | _, _ => true) = false ∧
    isCore summed.cur.core = true ∧ isFixed 249#8 = true ∧ writable 249#8 = false ∧ holds (exec (.macc 5#8 2#8 249#8) summed) (fun t => trapped t 0x02 0#64) = true := by decide +kernel

theorem witness_MatrixReads_operands : isCore summed.cur.core = true ∧ Steady summed 240#8 ∧ TakesAny summed 250#8 ∧ TakesAny summed 251#8 ∧ sourceValue summed 240#8 = 0 ∧
    setBusy (coreOf summed 0).mx (0 / 2 ^ 12 % 2) = false ∧ (isFixed 251#8 = true → writable 251#8 = true) ∧
    (let s := modCore multiplying 0 fun c => { c with mx := { c.mx with ctx := c.mx.ctx.map fun x => { x with lock := 1 } } }; setBusy (coreOf s 0).mx 0 = true ∧
      snapshotMode (coreOf s 0).mx = true ∧ holds (exec (.macc 250#8 240#8 251#8) s) (fun t => pcOf t == 0x1004) = true) :=
  ⟨by decide, by unfold Steady namesQueue; decide +kernel, .inl (by decide), .inl (by decide), by decide +kernel, by decide +kernel, by decide, by decide +kernel⟩

/-! ### Launches and the front end -/

/-- The launch of queue 2 entered with two barriers and a quota of one, its map a trap-mode unsigned 8-bit name seeded with 9. -/
def placing : State :=
  modQueue { State.reset with launches := [(1, { launch1 with quota := 1, bars := [3, 2], sec := true, map := [1#16, 0#16, 0x0007#16], seeds := [9#64] })],
                              mem := [(q0, 5#8), (0x100, 6#8)] } 2 fun x => { x with weight := 255 }

/-- The launch placed on core 0, with credit left from an earlier boundary. -/
def placed : State :=
  modCore { placing with launches := [(1, { launch1 with quota := 1, map := [1#16, 0#16, 0x0007#16], seeds := [9#64], started := [(0, 0)] })] } 0 fun c => { c with credits := [(2, 100)] }

/-- The launch with every strand started and gone. -/
def overLaunch : State := { placing with launches := [(1, { launch1 with quota := 1, started := [(0, 1)] })] }

theorem test_placement : holds (exec (.launchPlacement 1 0) placing) (fun t => (tfind t.launches 1).map (fun x => x.started) == some [(0, 0)] && (barState t 0 1).n == 2 &&
    (quadOf t 0).secure && memByte t.mem q0 == 0#8 && memByte t.mem 0x100 == 6#8) = true := by decide +kernel
theorem test_seed : holds (exec (.slotArbiterBoundary 0) placed) (fun t => (slotOf t 0 0).status == .ready && (slotOf t 0 0).w2 == 3#64 &&
    (slotOf t 0 0).names.map (fun e => e.2.bits) == [9#64] && (coreOf t 0).credits == [(2, 99)]) = true := by decide +kernel
theorem test_launch_record : holds (exec (.launchCompletion 1) overLaunch) (fun t => t.launches.isEmpty && memByte t.mem (hostPa 31) == 1#8 && memByte t.mem (hostPa 4) == 3#8 && t.dev.msix == [2]) = true := by
  decide +kernel

theorem witness_LaunchResult : (match tfind placing.launches 1 with
      | some x => placeable placing x && (launchCores x).contains (0, 0) && !(placedOn x 0 0) && !((coreOf placing 0).sealed) &&
          decide (x.bars.length ≤ (freeBarriers placing 0).length) && coreReady placing 0 x &&
          !(x.barClusters.contains 0) && (quadOf placing 0).secure != x.sec
      | none => false) = true ∧
    (match placed.launches with
      | [(1, x)] => placeable placed x && !x.posted && (launchCores x).contains (0, 0) && placedOn x 0 0 && startedOn x 0 0 + 1 == x.quota &&
          decide (strandsOn placed 0 (some 1) < x.quota) && freeWork placed 0 == some 0 && !(coreOf placed 0).halted &&
          (seed (addCredits (modCore placed 0 fun y => { y with bound := cycOf placed 0 }) 0) 1 x 0 0).isSome
      | _ => false) = true ∧ 256 ≤ tget (coreOf placed 0).credits 0 2 + (queueOf placed 2).weight ∧ tget (coreOf overLaunch 0).credits 0 2 + (queueOf overLaunch 2).weight < 256 ∧
    (match tfind overLaunch.launches 1 with | some x => x.ending.isNone && !x.posted && launchDone overLaunch 1 x | none => false) = true ∧
    (match tfind placing.launches 1 with | some x => launchDone placing 1 x | none => true) = false ∧
    (queueOf overLaunch 2).records = [] ∧ ringFull (queueOf overLaunch 2) = false ∧ ringFull { queueOf overLaunch 2 with cqtail := 64#32 } = true := by decide +kernel

/-- A seed that found no place, to be tried again; the same on a quad whose vector rows are all taken, for a map of one vector id. -/
def reseeding : State := modCore placed 0 fun c => { c with credits := [(2, 300)], unseated := [2], freed := true }
def reseedingFull : State :=
  setSlot { reseeding with launches := [(1, { launch1 with quota := 1, map := [0#16, 1#16, 0x00C0#16], started := [(0, 0)] })] } 1 0 { strand with vecs := (List.range 256).map fun j => (j, ⟨j, 5, 0, 0#1024⟩) }

theorem witness_LaunchResult_retry : (coreOf reseeding 0).freed = true ∧ (coreOf reseeding 0).unseated = [2] ∧ 256 ≤ tget (coreOf reseeding 0).credits 0 2 ∧ freeWork reseeding 0 = some 0 ∧ (coreOf placed 0).freed = false ∧
    (let m := fun s : State => modCore s 0 fun y => { y with unseated := [], freed := false };
      (∀ p ∈ [(reseeding, true), (reseedingFull, false)], (match p.1.launches with | [(1, x)] => (seed (m p.1) 1 x 0 0).isSome == p.2 | _ => false) = true)) ∧ freeWork reseedingFull 0 = some 0 ∧
    holds (exec (.slotArbiterBoundary 0) reseeding) (fun t => (slotOf t 0 0).status == .ready && (coreOf t 0).credits == [(2, 44)]) = true ∧
    holds (exec (.slotArbiterBoundary 0) reseedingFull) (fun t => (coreOf t 0).unseated == [2] && (coreOf t 0).credits == [(2, 300)]) = true := by decide +kernel

theorem witness_LaunchResult_failed : (let s := modCluster placed 0 fun c => { c with failures := [(1, 6, 3#64), (1, 2, 0#64)] };
    (s.clusters.flatMap fun e => e.2.failures).find? (fun e => e.1 == 1) = some (1, 6, 3#64) ∧ (match s.launches with | [(1, x)] => x.ending.isNone && !x.posted | _ => false) = true ∧
    restartFailed s 1 = true ∧ restartFailed overLaunch 1 = false ∧ holds (exec (.launchCompletion 1) s) (fun t => !(restartFailed t 1) && memByte t.mem (hostPa 8) == 2#8 && memByte t.mem (hostPa 10) == 6#8) = true) := by decide +kernel

/-- A packet from the values of its fields: offset, size, value. -/
def packetOf (fs : List (Nat × Nat × Nat)) : List Byte :=
  (fs.foldl (fun (m : List Host.Cell) f => memPuts m f.1 (toBytes f.2.1 f.2.2)) []) |> fun m => memBytes m 0 128

/-- A LAUNCH of the object at 0x8000 under the tree at 0 (R314). -/
def launchPacket : List Byte :=
  packetOf [(0, 1, 2), (3, 1, 1), (4, 4, 0x55), (8, 8, 0x8000), (24, 2, 0), (26, 2, 0xFFFF), (28, 2, 0xFFFF), (32, 8, 1), (40, 8, 1), (48, 8, 0)]

/-- A code object (R320): one entry at head 1 of one line, a map without names, one profile record. -/
def object : List Byte :=
  memBytes ([(0, 2, 1), (4, 2, 1), (6, 2, 1), (8, 2, 1), (16, 8, 0x80), (24, 8, 64), (32, 8, 0x40), (40, 8, 0x48), (48, 8, 0x50), (0x40, 8, 2), (0x48, 8, 0x400000058), (0x80, 2, 2)].foldl
    (fun (m : List Host.Cell) (f : Nat × Nat × Nat) => memPuts m f.1 (toBytes f.2.1 f.2.2)) []) 0 192

/-- Queue 2 enabled, its ring in the host's memory, with a packet committed at HEAD; the object and its tree stand in memory. -/
def committed (p : List Byte) : State :=
  modQueue { State.reset with mem := memPuts (memPuts codeTree 0x8000 object) (hostPa 0x10000) p } 2 fun x => { x with enable := true, qbase := 0x10000#64, commitmap := [0] }

/-- Queue 2 with a validated packet that acts. -/
def acting (p : List Byte) : State :=
  modQueue { State.reset with mem := memPutWord [] 0x9000 5#64 } 2 fun x => { x with enable := true, passed := true, held := [(0#32, p)], built := [launch1] }

/-- A SIGNAL of 7 to 0x9000, and a WAIT for 5 and one for 6 there. -/
def signalPacket : List Byte := packetOf [(0, 1, 5), (8, 8, 0x9000), (16, 8, 7)]
def waitPacket (v : Nat) : List Byte := packetOf [(0, 1, 6), (8, 8, 0x9000), (16, 8, v)]
/-- A LAUNCH-EXT with a barrier of 3. -/
def extPacket : List Byte := packetOf [(0, 1, 7), (8, 8, 0x40), (16, 1, 1), (32, 2, 3)]

theorem test_launch_validated : holds (exec (.launch 2) (committed launchPacket)) (fun t => let x := queueOf t 2; x.passed && x.head == 1#32 && x.commitmap.isEmpty &&
    x.built.map (fun l => (l.entry, l.tvec, l.quota)) == [(0x8082#64, 0#64, 1)]) = true := by decide +kernel
theorem test_launch_refused : holds (exec (.launch 2) (committed (launchPacket.set 32 0#8))) (fun t => !(queueOf t 2).passed && memByte t.mem (hostPa 8) == 1#8 && memByte t.mem (hostPa 10) == 9#8 &&
    memByte t.mem (hostPa 16) == 32#8) = true := by decide +kernel
theorem test_signal : holds (exec (.signal 2) (acting signalPacket)) (fun t => memWord t.mem 0x9000 == 7#64 && (queueOf t 2).held.isEmpty) = true := by decide +kernel
theorem test_launch_ext : holds (exec (.launchExt 2) (acting extPacket)) (fun t => t.launches.map (fun e => (e.1, e.2.bars, e.2.ckpt)) == [(1, [3], 0x40#64)]) = true := by decide +kernel

theorem witness_FrontEndResult : (∀ r ∈ packetRows 2, let s := committed (packetOf [(0, 1, r.2)]); (queueOf s 2).checking.isNone = true ∧ mayAct s 2 = false ∧ mayConsume s 2 = true ∧ pktKind (headPacket s 2) = r.2) ∧
    (∀ p ∈ [launchPacket, signalPacket, waitPacket 5, waitPacket 6, extPacket, packetOf [(0, 1, 1)], packetOf [(0, 1, 3)], packetOf [(0, 1, 4)]], let s := acting p;
      (queueOf s 2).checking.isNone = true ∧ mayAct s 2 = true ∧ mayEnter s 2 = true ∧ wantsExt p = false ∧ (queueOf s 2).held.map (·.2) = [p] ∧ (queueOf s 2).built.length = 1 ∧ signalReady s 2 = true ∧ inPeer (localPa s (pktField p 8 8)) = false) ∧
    signalReady { acting signalPacket with launches := [(1, launch1)] } 2 = false ∧ 5 ≤ (memWord (acting signalPacket).mem 0x9000).toNat ∧
    (memWord (acting signalPacket).mem 0x9000).toNat < 6 ∧ wordBlocked (acting (waitPacket 5)) 0x9000 8 = false ∧ Memory.wf (acting signalPacket).mem = true ∧ inInbox 0x9000 = false ∧ inInbox 0x9007 = false := by decide +kernel

theorem witness_FrontEnd_transfers : transfers (acting (waitPacket 5)) 0x9000 8 = (false, acting (waitPacket 5)) ∧ transfers (acting (waitPacket 6)) 0x9000 8 = (false, acting (waitPacket 6)) := by decide +kernel

/-! ### The host and the mailbox -/

theorem test_resv_full : holds (exec (.resvRead 2) (modQueue State.reset 2 fun x => { x with resv := 64#32 })) (fun t => ofBytes t.dev.hostData == 2 ^ 63 + 64 && (queueOf t 2).resv == 64#32) = true := by
  decide +kernel
theorem test_register_write : holds (exec (.registerWrite 0x120008 5#64) State.reset) (fun t => (queueOf t 2).qsize == 6) = true := by decide +kernel
theorem test_enum : holds (exec .enumRefresh State.reset) (fun t => t.dev.gen == 1#64 && holds (exec .enumRefresh t) fun u => u.dev.gen == 2#64) = true ∧
    (shadowWords State.reset 2#64).head? = some (0, 2) := by decide +kernel

theorem witness_HostResult : (let x := queueOf State.reset 2; (x.resv - x.head).toNat < 2 ^ x.qsize ∧ x.enable = false) ∧
    2 ^ 6 ≤ (64#32 - 0#32 : BitVec 32).toNat ∧ (1#64 : Word).getLsbD 0 = true ∧ State.reset.mbox.state ≠ 1 ∧ (0x100#64 : Word).toNat % 256 = 0 ∧
    0x1300000000 + 4 ≤ 0x1400000000 ∧ inSecure State.reset 0x2300000000 = false ∧ (quadOf State.reset outsideQueue).wq = [] ∧
    (let s : State := { State.reset with dev := { State.reset.dev with secreg := [(0, BitVec.ofNat 64 (2 ^ 63 + 2 ^ 38 + 0x2300000000))] } }; inSecure s 0x2300000000 = true ∧ inSector s 0x2300000000 = true) ∧
    (let s := modQueue State.reset 2 fun x => { x with state := 4, head := 5#32 }; (queueOf s 2).state = 4 ∧ (queueOf s 2).records = [] ∧
      holds (exec (.registerWrite 0x120038 1#64) s) (fun t => (queueOf t 2).state == 0 && (queueOf t 2).head == 0#32 && t.mbox.state == 2) = true) ∧
    Memory.wf State.reset.dev.shadow = true ∧ State.reset.dev.gen.toNat % 2 = 0 ∧ ({ State.reset with dev := { State.reset.dev with gen := 1#64 } }).dev.gen.toNat % 2 = 1 ∧
    inQuads q0 = true ∧ inQuads 0x9000 = false ∧ (queueOf State.reset 2).records = [] ∧ ringFull (queueOf State.reset 2) = false := by decide +kernel

theorem witness_HostResult_codes : (3, Instr.preempt 2) ∈ mailRows 2 ∧ (0x203#64 : Word).toNat % 256 = 3 ∧ (0x203#64 : Word).toNat / 256 % 256 = 2 ∧
    holds (exec (.registerWrite 0x10000 0x203#64) State.reset) (fun t => t.mbox.state == 1 && t.agenda == [.preempt 2]) = true ∧
    (∀ r ∈ [(0x0D#64, 0xFFFF), (0x4003#64, 0xFFFE)], holds (exec (.registerWrite 0x10000 r.1) State.reset) (fun t => t.mbox.state == 3 && t.mbox.reason == r.2) = true) ∧
    (let s : State := { State.reset with mbox := { State.reset.mbox with state := 1 } }; s.mbox.state = 1 ∧ holds (exec (.registerWrite 0x10000 0x203#64) s) (fun t => t.agenda.isEmpty) = true) ∧
    0x2300000000 + 4 ≤ 0x2400000000 ∧ State.reset.flips = [] ∧
    (let s : State := { State.reset with poison := [0x2300000008] }; s.flips = [] ∧ inSecure s 0x2300000008 = false ∧ 0x1000000000 + 0x1300000000 + 8 = 0x2300000008 ∧
      holds (exec (.hostCxlMemAccess false 0x1300000000 (List.replicate 9 0#8)) s) (fun t => t.dev.hostPoison) = true ∧
      holds (exec (.hostCxlMemAccess false 0x1300000000 (List.replicate 8 0#8)) s) (fun t => !t.dev.hostPoison) = true) := by decide +kernel

theorem witness_HostResult_parked : (let s := { State.reset with parked := [{ entry := { serial := 1, op := .atomic { atomicOn false 0 false 1#64 0#64 with addr := 0x2300000000 }, core := 0, slot := 0, uid := 7, va := 0#64 }, home := 0 }] };
    0x1300000000 + 8 ≤ 0x2400000000 ∧ wordBlocked s (0x1000000000 + 0x1300000000) 8 = true ∧ wordBlocked State.reset (0x1000000000 + 0x1300000000) 8 = false ∧
    holds (exec (.hostCxlMemAccess false 0x1300000000 (List.replicate 8 0#8)) s) (fun t => (quadOf t outsideQueue).wq.map (fun e => e.op) == [.read 0x2300000000 8]) = true) := by decide +kernel

theorem test_recovery : holds (exec .recovery { State.reset with dev := { State.reset.dev with fatal := true, lostLaunches := [launch1] } }) (fun t => !t.dev.fatal && memByte t.mem (hostPa 8) == 2#8 && memByte t.mem (hostPa 9) == 2#8) = true := by
  decide +kernel

/-- The mailbox running a command with its arguments. -/
def asking (cmd a0 a1 : Nat) : State :=
  { placed with mbox := { cmd := BitVec.ofNat 64 cmd, state := 1, arg0 := BitVec.ofNat 64 a0, arg1 := BitVec.ofNat 64 a1 } }

theorem test_preempt : holds (exec (.preempt 2) (asking 0x203 0x10000 7)) (fun t => (queueOf t 2).state == 2 && (queueOf t 2).deadline == 15750 && t.mbox.state == 2) = true := by decide +kernel
theorem test_saved : holds (exec (.preempt 2) (modQueue placed 2 fun x => { x with state := 2, save := 0x10000 })) (fun t => (queueOf t 2).state == 3) = true ∧
    (launchesOf placed 2).length = 1 := by decide +kernel
theorem test_resetq : holds (exec (.resetq 2) (asking 0x205 0 0)) (fun t => memByte t.mem (hostPa 8) == 4#8 && memByte t.mem (hostPa 9) == 1#8 && launchesOf t 2 == []) = true := by decide +kernel

theorem witness_MailboxResult : queueState State.reset 2 = 0 ∧ queueState placed 2 = 1 ∧ mboxRuns (asking 0x203 0x10000 7) 3 2 = true ∧ rangeHere (localPa (asking 0x203 0x10000 7) 0x10000) 64 = true ∧ 0x10000 % 4096 = 0 ∧ mboxRuns placed 3 2 = false ∧ ownedStrands placed 2 = [] ∧
    ownedStrands preempted 3 ≠ [] ∧ (queueOf preempted 3).state = 2 ∧ (queueOf preempted 3).deadline ≤ preempted.uncore ∧
    (let s := modQueue { asking 0x204 0x10000 0 with mem := [(0x10000, 3#8)] } 2 fun x => { x with state := 3 }; mboxRuns s 4 2 = true ∧ (queueOf s 2).state = 3 ∧ (physRead s 0x10000 64).map (fun b => s.dev.layouts.contains (pktField b 0 2)) = some true) ∧
    (let s := asking 0x205 0 0; (queueOf s 2).records = [] ∧ ((queueOf s 2).cqtail - (queueOf s 2).cqhead).toNat + (launchesOf s 2).length + ((queueOf s 2).held.filter fun m => pktKind m.2 == 2).length ≤ 2 ^ (queueOf s 2).qsize) ∧
    (let s := modQueue (asking 0x205 0 0) 2 fun x => { x with records := [[1#8]], cqtail := 64#32 }; (queueOf s 2).records ≠ [] ∧ holds (exec (.resetq 2) s) (fun t => (queueOf t 2).state == 4 && t.mbox.state == 1) = true) ∧
    launchesLive State.reset = 0 ∧ launchesLive placed ≠ 0 ∧ badRegion (BitVec.ofNat 64 (2 ^ 63 + 2 ^ 38 + 0x2000000)) = false ∧ secEn (tget State.reset.dev.secreg 0#64 1) = false ∧
    (let o := object.set 57 1#8; let s : State := { State.reset with mem := memPuts [] 0x8000 o }; let rd := fun off len => if 0x140 < off + len then none else physRead s (0x8000 + off) len;
      (match sealReason s rd with | .inr o => o.head.sealoff == 0x100 && !(inPeer (0x8000 + o.head.sealoff)) | _ => false) = true) ∧
    physRead State.reset 0x8000 20 = some (List.replicate 20 0#8) ∧ badImage State.reset (List.replicate 20 0#8) = some 1 ∧ State.reset.dev.staged = none ∧ layoutMissing State.reset [3] = none ∧ layoutMissing (modQueue State.reset 2 fun x => { x with state := 3, layout := 3 }) [4] = some 2 ∧
    rangeHere 0x10000 256 = true ∧ physRead State.reset 0x8000 64 = some (List.replicate 64 0#8) := by decide +kernel

/-- A device with region 1 enabled on 64 MiB from 0x2000000000, and a mailbox that asks for another region. -/
def regioned (n v : Nat) : State :=
  { State.reset with dev := { State.reset.dev with secreg := [(1, BitVec.ofNat 64 (2 ^ 63 + 2 * 2 ^ 38 + 0x2000000000))] }, mbox := { cmd := 0x0C#64, state := 1, arg0 := BitVec.ofNat 64 n, arg1 := BitVec.ofNat 64 v } }

theorem witness_MailboxResult_regions : launchesLive (regioned 0 0) = 0 ∧
    (let s := regioned 0 (2 ^ 63 + 2 ^ 38 + 0x2004000000); let w := tget s.dev.secreg 0#64 1; badRegion s.mbox.arg1 = false ∧ secEn s.mbox.arg1 = true ∧ secEn w = true ∧ secBase w + secSize w ≤ secBase s.mbox.arg1 ∧
      (∀ i, i < 8 → i ≠ 0 → i ≠ 1 → secEn (tget s.dev.secreg 0#64 i) = false) ∧ holds (exec .secregion s) (fun t => t.mbox.state == 2 && t.dev.secreg.length == 2) = true) ∧
    (let s := regioned 0 (2 ^ 63 + 2 ^ 38 + 0x2002000000); let w := tget s.dev.secreg 0#64 1; badRegion s.mbox.arg1 = false ∧ secEn s.mbox.arg1 = true ∧ secBase s.mbox.arg1 < secBase w + secSize w ∧
      secBase w < secBase s.mbox.arg1 + secSize s.mbox.arg1 ∧ holds (exec .secregion s) (fun t => t.mbox.state == 3 && t.mbox.reason == 3) = true) ∧
    (8 ≤ (regioned 8 0).mbox.arg0.toNat ∧ holds (exec .secregion (regioned 8 (2 ^ 63 + 2 ^ 38 + 0x2004000000))) (fun t => t.mbox.reason == 2) = true) ∧
    (badRegion (regioned 0 (2 ^ 63 + 0x2004000000)).mbox.arg1 = true ∧ holds (exec .secregion (regioned 0 (2 ^ 63 + 0x2004000000))) (fun t => t.mbox.reason == 2) = true) := by decide +kernel

theorem witness_MailboxResult_ring : (let s := modQueue (asking 0x205 0 0) 2 fun x => { x with cqtail := 64#32 }; (queueOf s 2).records = [] ∧ ((queueOf s 2).cqtail - (queueOf s 2).cqhead).toNat ≤ 2 ^ (queueOf s 2).qsize ∧
      (queueOf s 2).qsize ≤ 16 ∧ 2 ^ (queueOf s 2).qsize < ((queueOf s 2).cqtail - (queueOf s 2).cqhead).toNat + (launchesOf s 2).length + ((queueOf s 2).held.filter fun m => pktKind m.2 == 2).length ∧
      holds (exec (.resetq 2) s) (fun t => (queueOf t 2).state == 4 && (queueOf t 2).records.length == 1 && t.mbox.state == 1) = true) ∧
    saveReady placed 2 = true ∧ saveReady preempted 3 = false := by decide +kernel

/-- Whether an area is there to be read. -/
def readable (s : State) (a n : Nat) : Bool := !(inPeer a) && (stalledOn s (fetchArea s a n)).isNone

theorem readable_area (s : State) (a n : Nat) (h : readable s a n = true) : AreaRead s a n (fetchArea s a n) := by
  simp only [readable, Bool.and_eq_true, Bool.not_eq_true'] at h
  exact ⟨fun hp => by simp [h.1] at hp, rfl, by simpa using h.2⟩

/-- A code object to seal at 0x8000. -/
def sealing : State := { asking 7 0x8000 0x140 with mem := memPuts [] 0x8000 (object.set 57 1#8) }

theorem witness_MailboxResult_areas : areaThere (asking 0x203 0x10000 7) 0x10000 = true ∧ areaThere (asking 0x203 (2 ^ 59) 7) (2 ^ 59) = false ∧
    (let s := modQueue { asking 0x204 0x10000 0 with mem := [(0x10000, 3#8)] } 2 fun x => { x with state := 3 }; readable s 0x10000 64 = true ∧
      (physRead (fetchArea s 0x10000 64) 0x10000 64).map (fun b => s.dev.layouts.contains (pktField b 0 2)) = some true ∧ holds (exec (.resumeq 2) s) (fun t => (queueOf t 2).state == 1) = true) ∧
    (let s := modQueue { asking 0x204 0x10000 0 with mem := [(0x10000, 9#8)] } 2 fun x => { x with state := 3 }; readable s 0x10000 64 = true ∧
      (physRead (fetchArea s 0x10000 64) 0x10000 64).map (fun b => s.dev.layouts.contains (pktField b 0 2)) = some false ∧ holds (exec (.resumeq 2) s) (fun t => t.mbox.reason == 1) = true) ∧
    (let s := modQueue (asking 0x204 0x10001 0) 2 fun x => { x with state := 3 }; mboxRuns s 4 2 = true ∧ localPa s 0x10001 % 4096 ≠ 0 ∧ holds (exec (.resumeq 2) s) (fun t => t.mbox.reason == 1) = true) ∧
    readable sealing 0x8000 0x140 = true ∧ holds (exec .seal sealing) (fun t => t.mbox.state == 2) = true ∧
    (let u := fetchArea sealing 0x8000 0x140; (match sealReason u (fun off len => if 0x140 < off + len then none else physRead u (0x8000 + off) len) with | .inr o => o.head.sealoff == 0x100 | .inl _ => false) = true) ∧
    (let s := asking 7 0x8000 64; readable s 0x8000 64 = true ∧ holds (exec .seal s) (fun t => t.mbox.state == 3) = true) ∧
    (let s := asking 8 0x8000 20; readable s 0x8000 20 = true ∧ physRead (fetchArea s 0x8000 20) 0x8000 20 = some (List.replicate 20 0#8) ∧ holds (exec .fwstage s) (fun t => t.mbox.reason == 1) = true) ∧
    (let s := asking 10 0x8000 0x10000; (s.tagBad = [] ∧ s.mediaBad = []) ∧ stalledOn s (fetchArea s 0x8000 64) = none ∧ rangeHere 0x8000 64 = true ∧ rangeHere 0x10000 256 = true ∧
      (physRead (fetchArea s 0x8000 64) 0x8000 64).isSome = true ∧ sectorFails s 0x10000 = false) ∧
    rangeHere (2 ^ 52) 256 = false := by decide +kernel

/-- In a device without a bad sector, none fails. -/
theorem witness_attest_sectors (s : State) (ht : s.tagBad = []) (hm : s.mediaBad = []) : ∀ j, j < 256 → sectorFails s (0x10000 + j) = false := by
  intro j _; simp [sectorFails, ht, hm]

theorem witness_MailboxResult_activation : (let s : State := { State.reset with dev := { State.reset.dev with staged := some (5, [3, 4]), activating := true } };
      s.dev.staged = some (5, [3, 4]) ∧ s.dev.activating = true ∧ holds (exec .fwactivate s) (fun t => t.dev.fwrev == 5 && t.dev.layouts == [3, 4] && t.dev.staged.isNone) = true) ∧
    (let s : State := { placed with dev := { placed.dev with staged := some (5, [3]) } }; s.dev.activating = false ∧ launchesLive s ≠ 0) ∧
    (let s := modQueue { State.reset with dev := { State.reset.dev with staged := some (5, [4]) } } 2 fun x => { x with state := 3, layout := 3 };
      s.dev.activating = false ∧ launchesLive s = 0 ∧ layoutMissing s [4] = some 2) := by decide +kernel

theorem witness_MailboxResult_staged (b : List Byte) (hb : b.length = 122) (hn : pktField b 4 2 = 1) (hs : pktField (b.take 8) 2 2 ≤ State.reset.dev.sirev)
    (hv : Config.vendorSigned (Config.shake256 (b.take 8)) (b.drop 8) = true) : badImage State.reset b = none := by
  simp [badImage, hb, hn, hv, Nat.not_lt.2 hs]

/-! ### Encodings -/

/-- Whether every list of parcels decodes to its instruction, and the instruction encodes to it. -/
def decodes (l : List (List Parcel × Instr)) : Bool := l.all fun e => decode e.1 == some e.2 && encode e.2 == e.1

/-- SYS0 and the jumps (R29, R32 to R35). -/
theorem test_decode_sys0 :
    decodes [([0x0000#16], .nop), ([0x0001#16], .yield), ([0x0002#16], .exit), ([0x0003#16], .step), ([0x0004#16], .errfence), ([0x0005#16], .hret), ([0x0006#16], .wfe),
    ([0x0007#16], .tret), ([0x0008#16], .bkpt), ([0x0009#16], .migpt), ([0x4100#16, 0xFFE3#16], .j ⟨0x7FF#11, 3#5⟩), ([0x42FA#16, 0xFFE3#16], .jl 250#8 ⟨0x7FF#11, 3#5⟩),
    ([0x0305#16], .jr 5#8), ([0x4401#16, 0x0200#16], .jlr 1#8 2#8), ([0x4609#16, 0xFFE3#16], .bz 9#8 ⟨0x7FF#11, 3#5⟩), ([0x4709#16, 0xFFE3#16], .bnz 9#8 ⟨0x7FF#11, 3#5⟩),
    ([0x48EF#16, 0xFFE3#16], .loop 239#8 ⟨0x7FF#11, 3#5⟩), ([0x49AB#16, 0x1234#16], .align 0xAB#8 0x1234#16),
    ([0x8500#16, 0x0203#16, 0xFFE3#16], .beq 2#8 3#8 ⟨0x7FF#11, 3#5⟩), ([0x8501#16, 0x0203#16, 0xFFE3#16], .bne 2#8 3#8 ⟨0x7FF#11, 3#5⟩),
    ([0x8502#16, 0x0203#16, 0xFFE3#16], .blt 2#8 3#8 ⟨0x7FF#11, 3#5⟩), ([0x8503#16, 0x0203#16, 0xFFE3#16], .ble 2#8 3#8 ⟨0x7FF#11, 3#5⟩),
    ([0x8504#16, 0x0203#16, 0xFFE3#16], .bgt 2#8 3#8 ⟨0x7FF#11, 3#5⟩), ([0x8505#16, 0x0203#16, 0xFFE3#16], .bge 2#8 3#8 ⟨0x7FF#11, 3#5⟩),
    ([0x8506#16, 0x0000#16, 0xFFE3#16], .bqt ⟨0x7FF#11, 3#5⟩), ([0x8507#16, 0x0000#16, 0xFFE3#16], .bqf ⟨0x7FF#11, 3#5⟩)] = true := by decide +kernel

/-- The integer class: two-source operations, MOV, ALUI and MOVI (R29, R32 to R35). -/
theorem test_decode_alu :
    decodes [([0x4A01#16, 0x0203#16], .add 1#8 2#8 3#8), ([0x4B01#16, 0x0203#16], .sub 1#8 2#8 3#8), ([0x4C01#16, 0x0203#16], .and 1#8 2#8 3#8),
    ([0x4D01#16, 0x0203#16], .or 1#8 2#8 3#8), ([0x4E01#16, 0x0203#16], .xor 1#8 2#8 3#8), ([0x4F01#16, 0x0203#16], .shl 1#8 2#8 3#8),
    ([0x5001#16, 0x0203#16], .shr 1#8 2#8 3#8), ([0x5101#16, 0x0203#16], .mul 1#8 2#8 3#8), ([0x5201#16, 0x0200#16], .mov 1#8 2#8),
    ([0x9301#16, 0x0200#16, 0x8001#16], .addi 1#8 2#8 0x8001#16), ([0x9301#16, 0x0201#16, 0x8001#16], .rsubi 1#8 2#8 0x8001#16),
    ([0x9301#16, 0x0202#16, 0x8001#16], .andi 1#8 2#8 0x8001#16), ([0x9301#16, 0x0203#16, 0x8001#16], .ori 1#8 2#8 0x8001#16),
    ([0x9301#16, 0x0204#16, 0x8001#16], .xori 1#8 2#8 0x8001#16), ([0x9301#16, 0x0205#16, 0x0064#16], .shli 1#8 2#8 100#7),
    ([0x9301#16, 0x0206#16, 0x0064#16], .shri 1#8 2#8 100#7), ([0x9301#16, 0x0207#16, 0x8001#16], .muli 1#8 2#8 0x8001#16),
    ([0x9301#16, 0x0208#16, 0x8001#16], .mini 1#8 2#8 0x8001#16), ([0x9301#16, 0x0209#16, 0x8001#16], .maxi 1#8 2#8 0x8001#16),
    ([0x9301#16, 0x020A#16, 0x8001#16], .ceqi 1#8 2#8 0x8001#16), ([0x9301#16, 0x020B#16, 0x8001#16], .cnei 1#8 2#8 0x8001#16),
    ([0x9301#16, 0x020C#16, 0x8001#16], .clti 1#8 2#8 0x8001#16), ([0x9301#16, 0x020D#16, 0x8001#16], .clei 1#8 2#8 0x8001#16),
    ([0x9301#16, 0x020E#16, 0x8001#16], .cgti 1#8 2#8 0x8001#16), ([0x9301#16, 0x020F#16, 0x8001#16], .cgei 1#8 2#8 0x8001#16),
    ([0xD501#16, 0x4444#16, 0x3333#16, 0x2222#16, 0x1111#16], .movi 1#8 0x1111222233334444#64)] = true := by decide +kernel

/-- The extended family (R29, R32 to R35). -/
theorem test_decode_alux :
    decodes [([0x9401#16, 0x0203#16, 0x0000#16], .mulh 1#8 2#8 3#8), ([0x9401#16, 0x0203#16, 0x0100#16], .div 1#8 2#8 3#8), ([0x9401#16, 0x0203#16, 0x0200#16], .rem 1#8 2#8 3#8),
    ([0x9401#16, 0x0203#16, 0x0300#16], .andn 1#8 2#8 3#8), ([0x9401#16, 0x0203#16, 0x0400#16], .rot 1#8 2#8 3#8), ([0x9401#16, 0x0203#16, 0x0500#16], .min 1#8 2#8 3#8),
    ([0x9401#16, 0x0203#16, 0x0600#16], .max 1#8 2#8 3#8), ([0x9401#16, 0x0200#16, 0x0700#16], .abs 1#8 2#8), ([0x9401#16, 0x0200#16, 0x0800#16], .neg 1#8 2#8),
    ([0x9401#16, 0x0200#16, 0x0900#16], .clz 1#8 2#8), ([0x9401#16, 0x0200#16, 0x0A00#16], .ctz 1#8 2#8), ([0x9401#16, 0x0200#16, 0x0B00#16], .popc 1#8 2#8),
    ([0x9401#16, 0x0203#16, 0x0C04#16], .bfx 1#8 2#8 3#8 4#8), ([0x9401#16, 0x0203#16, 0x0D04#16], .bfi 1#8 2#8 3#8 4#8),
    ([0x9401#16, 0x0203#16, 0x0E04#16], .sel 1#8 2#8 3#8 4#8), ([0x9401#16, 0x0203#16, 0x0F05#16], .lea 1#8 2#8 3#8 5#3),
    ([0x9401#16, 0x0203#16, 0x1000#16], .ceq 1#8 2#8 3#8), ([0x9401#16, 0x0203#16, 0x1100#16], .cne 1#8 2#8 3#8), ([0x9401#16, 0x0203#16, 0x1200#16], .clt 1#8 2#8 3#8),
    ([0x9401#16, 0x0203#16, 0x1300#16], .cle 1#8 2#8 3#8), ([0x9401#16, 0x0203#16, 0x1400#16], .cgt 1#8 2#8 3#8), ([0x9401#16, 0x0203#16, 0x1500#16], .cge 1#8 2#8 3#8)] = true := by decide +kernel

/-- The map, strand and step classes (R29, R32 to R35). -/
theorem test_decode_map :
    decodes [([0x9600#16, 0x0203#16, 0x8001#16], .mapld 2#8 3#8 0x8001#16), ([0x9601#16, 0x0000#16, 0x0000#16], .maprel), ([0x9602#16, 0x0200#16, 0x0040#16], .resize 2#8 64#7),
    ([0x9603#16, 0x3F00#16, 0x0001#16], .resizev 63#6 1#7), ([0x9604#16, 0x0200#16, 0x0006#16], .setmode 2#8 1#1 2#2), ([0x9605#16, 0x0203#16, 0x0000#16], .widthof 2#8 3#8),
    ([0x9606#16, 0x0203#16, 0x0000#16], .modeof 2#8 3#8), ([0x9607#16, 0x0203#16, 0x0000#16], .seatof 2#8 3#8),
    ([0x9801#16, 0x0200#16, 0xFFE3#16], .fork 1#8 2#8 ⟨0x7FF#11, 3#5⟩), ([0x9900#16, 0xFB03#16, 0xFFF8#16], .huskSave 251#8 3#8 0xFFF8#16),
    ([0x9901#16, 0xFB03#16, 0xFFF8#16], .huskRun 251#8 3#8 0xFFF8#16), ([0x9902#16, 0xFB03#16, 0xFFF8#16], .huskSaveg 251#8 3#8 0xFFF8#16),
    ([0x9903#16, 0xFB03#16, 0xFFF8#16], .huskRung 251#8 3#8 0xFFF8#16), ([0x5A07#16, 0x0000#16], .evsend 7#8), ([0x9D00#16, 0x0200#16, 0x8005#16], .depset 2#8 1#1 5#4),
    ([0x9D01#16, 0x0000#16, 0x000F#16], .skewset 15#16), ([0x9D02#16, 0xFB00#16, 0x3007#16], .ringset 251#8 3#4 7#4), ([0x9D03#16, 0x0000#16, 0x0000#16], .pace),
    ([0x9D04#16, 0x0000#16, 0x0000#16], .unpace), ([0x9E01#16, 0x0000#16, 0x2ABC#16], .puts 1#8 2#2 0xABC#12),
    ([0x9F01#16, 0x0203#16, 0x2ABC#16], .gets 1#8 2#8 3#8 2#2 0xABC#12)] = true := by decide +kernel

/-- The memory class (R29, R32 to R35). -/
theorem test_decode_memory :
    decodes [([0xA001#16, 0xFB03#16, 0xC008#16], .ldq 1#8 251#8 3#8 3#2 8#14), ([0xA101#16, 0xFB03#16, 0xC008#16], .stq 1#8 251#8 3#8 3#2 8#14),
    ([0xA401#16, 0xFB03#16, 0xC008#16], .ldg 1#8 251#8 3#8 3#2 8#14), ([0xA501#16, 0xFB03#16, 0xC008#16], .stg 1#8 251#8 3#8 3#2 8#14),
    ([0xA201#16, 0xFB03#16, 0xFFFF#16], .ldb 1#8 251#8 3#8 0x3FF#10 63#6), ([0xA301#16, 0xFB03#16, 0xFFFF#16], .stb 1#8 251#8 3#8 0x3FF#10 63#6),
    ([0xA601#16, 0xFB03#16, 0x00FF#16], .ldfe 1#8 251#8 3#8 0xFF#8), ([0xA601#16, 0xFB03#16, 0x01FF#16], .ldff 1#8 251#8 3#8 0xFF#8),
    ([0xA601#16, 0xFB03#16, 0x02FF#16], .stfe 1#8 251#8 3#8 0xFF#8), ([0xA601#16, 0xFB03#16, 0x03FF#16], .stff 1#8 251#8 3#8 0xFF#8),
    ([0xA601#16, 0xFB03#16, 0x04FF#16], .fefull 1#8 251#8 3#8 0xFF#8), ([0xA601#16, 0xFB03#16, 0x05FF#16], .feempty 1#8 251#8 3#8 0xFF#8),
    ([0xA601#16, 0xFB03#16, 0x06FF#16], .festate 1#8 251#8 3#8 0xFF#8), ([0xA701#16, 0x02F0#16, 0x0033#16], .win 1#8 2#8 240#8 1#2 19#5)] = true := by decide +kernel

/-- The ordering and message classes (R29, R32 to R35). -/
theorem test_decode_ordering :
    decodes [([0x2825#16], .fence 4#3 5#3), ([0xA901#16, 0x0200#16, 0xE7F8#16], .ldacq 1#8 2#8 3#2 4#3 0x7F8#11), ([0xAA01#16, 0x0200#16, 0xE7F8#16], .strel 1#8 2#8 3#2 4#3 0x7F8#11),
    ([0xAB01#16, 0x0203#16, 0x5F80#16], .amo 1#8 2#8 3#8 5#4 3#2 3#2 4#3), ([0xAC01#16, 0x0203#16, 0x9A04#16], .cas 1#8 2#8 3#8 4#8 2#2 1#2 5#3),
    ([0xAD01#16, 0x0200#16, 0x7A80#16], .red 1#8 2#8 7#4 2#2 2#2 4#3), ([0x6E00#16, 0x801F#16], .bar 1#1 31#5),
    ([0xAF07#16, 0x02FB#16, 0x0040#16], .send 3#3 1#1 2#8 251#8 64#7), ([0xB001#16, 0xFB03#16, 0xFFC0#16], .copy 1#8 251#8 3#8 0xFFC0#16),
    ([0x7101#16, 0x0000#16], .xwait 1#8)] = true := by decide +kernel

/-- Repetition and the vector class (R29, R32 to R35). -/
theorem test_decode_vector :
    decodes [([0xB300#16, 0x0000#16, 0x0000#16], .rpbegin), ([0xB301#16, 0x0000#16, 0x0000#16], .rpend), ([0xB302#16, 0xFB03#16, 0x0040#16], .rprun 251#8 3#8 0x40#16),
    ([0xB303#16, 0x0000#16, 0xFFFF#16], .rpruni 0xFFFF#16), ([0xB304#16, 0x0000#16, 0x0000#16], .rpwait),
    ([0xB401#16, 0x4203#16, 0x0000#16], .vadd ⟨0#1, 1#6⟩ ⟨1#1, 2#6⟩ ⟨0#1, 3#6⟩), ([0xB401#16, 0x4203#16, 0x0100#16], .vsub ⟨0#1, 1#6⟩ ⟨1#1, 2#6⟩ ⟨0#1, 3#6⟩),
    ([0xB401#16, 0x4203#16, 0x0200#16], .vmul ⟨0#1, 1#6⟩ ⟨1#1, 2#6⟩ ⟨0#1, 3#6⟩), ([0xB401#16, 0x4203#16, 0x0300#16], .vmin ⟨0#1, 1#6⟩ ⟨1#1, 2#6⟩ ⟨0#1, 3#6⟩),
    ([0xB401#16, 0x4203#16, 0x0400#16], .vmax ⟨0#1, 1#6⟩ ⟨1#1, 2#6⟩ ⟨0#1, 3#6⟩), ([0xB401#16, 0x4203#16, 0x0500#16], .vand ⟨0#1, 1#6⟩ ⟨1#1, 2#6⟩ ⟨0#1, 3#6⟩),
    ([0xB401#16, 0x4203#16, 0x0600#16], .vor ⟨0#1, 1#6⟩ ⟨1#1, 2#6⟩ ⟨0#1, 3#6⟩), ([0xB401#16, 0x4203#16, 0x0700#16], .vxor ⟨0#1, 1#6⟩ ⟨1#1, 2#6⟩ ⟨0#1, 3#6⟩),
    ([0xB401#16, 0x4203#16, 0x0800#16], .vshl ⟨0#1, 1#6⟩ ⟨1#1, 2#6⟩ ⟨0#1, 3#6⟩), ([0xB401#16, 0x4203#16, 0x0900#16], .vshr ⟨0#1, 1#6⟩ ⟨1#1, 2#6⟩ ⟨0#1, 3#6⟩),
    ([0xB401#16, 0x4203#16, 0x0A00#16], .vceq ⟨0#1, 1#6⟩ ⟨1#1, 2#6⟩ ⟨0#1, 3#6⟩), ([0xB401#16, 0x4203#16, 0x0B00#16], .vclt ⟨0#1, 1#6⟩ ⟨1#1, 2#6⟩ ⟨0#1, 3#6⟩),
    ([0xB401#16, 0x4203#16, 0x0C00#16], .vcle ⟨0#1, 1#6⟩ ⟨1#1, 2#6⟩ ⟨0#1, 3#6⟩), ([0xB501#16, 0x0203#16, 0x0044#16], .vfma ⟨0#1, 1#6⟩ ⟨0#1, 2#6⟩ ⟨0#1, 3#6⟩ ⟨1#1, 4#6⟩),
    ([0xB501#16, 0x0203#16, 0x0144#16], .vfms ⟨0#1, 1#6⟩ ⟨0#1, 2#6⟩ ⟨0#1, 3#6⟩ ⟨1#1, 4#6⟩),
    ([0xB501#16, 0x0203#16, 0x0244#16], .vsel ⟨0#1, 1#6⟩ ⟨0#1, 2#6⟩ ⟨0#1, 3#6⟩ ⟨1#1, 4#6⟩), ([0xB67F#16, 0x0200#16, 0x0000#16], .vmov ⟨1#1, 63#6⟩ ⟨0#1, 2#6⟩),
    ([0xB67F#16, 0x0200#16, 0x0100#16], .vabs ⟨1#1, 63#6⟩ ⟨0#1, 2#6⟩), ([0xB67F#16, 0x0200#16, 0x0200#16], .vneg ⟨1#1, 63#6⟩ ⟨0#1, 2#6⟩),
    ([0xB67F#16, 0x0200#16, 0x0300#16], .vexp2 ⟨1#1, 63#6⟩ ⟨0#1, 2#6⟩), ([0xB67F#16, 0x0200#16, 0x0400#16], .vlog2 ⟨1#1, 63#6⟩ ⟨0#1, 2#6⟩),
    ([0xB67F#16, 0x0200#16, 0x0500#16], .vrcp ⟨1#1, 63#6⟩ ⟨0#1, 2#6⟩), ([0xB67F#16, 0x0200#16, 0x0600#16], .vrsq ⟨1#1, 63#6⟩ ⟨0#1, 2#6⟩),
    ([0xB67F#16, 0x0200#16, 0x0700#16], .vfloor ⟨1#1, 63#6⟩ ⟨0#1, 2#6⟩), ([0xB701#16, 0x0200#16, 0x0009#16], .vcvt ⟨0#1, 1#6⟩ ⟨0#1, 2#6⟩ 9#4),
    ([0xB701#16, 0x0203#16, 0x0104#16], .vqnt ⟨0#1, 1#6⟩ ⟨0#1, 2#6⟩ ⟨0#1, 3#6⟩ 4#4), ([0xB701#16, 0x0203#16, 0x0200#16], .vdqnt ⟨0#1, 1#6⟩ ⟨0#1, 2#6⟩ ⟨0#1, 3#6⟩),
    ([0xB701#16, 0x0203#16, 0x0300#16], .voutl ⟨0#1, 1#6⟩ ⟨0#1, 2#6⟩ ⟨0#1, 3#6⟩), ([0xB801#16, 0xFB03#16, 0x00FE#16], .vld ⟨0#1, 1#6⟩ 251#8 3#8 0xFE#8),
    ([0xB801#16, 0xFB03#16, 0x01FE#16], .vst ⟨0#1, 1#6⟩ 251#8 3#8 0xFE#8), ([0xB801#16, 0xFB03#16, 0x02FE#16], .vldb ⟨0#1, 1#6⟩ 251#8 3#8 0xFE#8),
    ([0xB801#16, 0xFB03#16, 0x03FE#16], .vstb ⟨0#1, 1#6⟩ 251#8 3#8 0xFE#8), ([0xB9F1#16, 0x0200#16, 0x0000#16], .vtoq 241#8 ⟨0#1, 2#6⟩),
    ([0xB901#16, 0xF400#16, 0x0100#16], .vfromq ⟨0#1, 1#6⟩ 244#8), ([0xB9F5#16, 0x0200#16, 0x0200#16], .vanyq 245#8 ⟨0#1, 2#6⟩),
    ([0xB9F5#16, 0x0200#16, 0x0300#16], .vallq 245#8 ⟨0#1, 2#6⟩)] = true := by decide +kernel

/-- The matrix class on the core and the system class (R29, R32 to R35). -/
theorem test_decode_system :
    decodes [([0xBA01#16, 0x0203#16, 0x0000#16], .macc 1#8 2#8 3#8), ([0x7B01#16, 0x0000#16], .mstat 1#8), ([0x7C01#16, 0x1234#16], .sysrd 1#8 0x1234#16),
    ([0x7D01#16, 0x1234#16], .syswr 1#8 0x1234#16), ([0xBE00#16, 0x0000#16, 0xBEEF#16], .trap 0xBEEF#16), ([0xBE01#16, 0x0200#16, 0x0004#16], .tlbinv 2#8 4#3),
    ([0xBE02#16, 0x0000#16, 0x0000#16], .quiesce), ([0xBE03#16, 0x0000#16, 0x0004#16], .setrm 4#3), ([0xBE04#16, 0x0200#16, 0x0000#16], .flagrd 2#8),
    ([0xBE05#16, 0x0000#16, 0x00A5#16], .flagclr 0xA5#8)] = true := by decide +kernel

/-- Encodings that R36 refuses: an unassigned major, the wrong tail size, a sub-op past the list, a nonzero zero field, bit 7 of a vector field, a
queue field outside 241 to 245, $bq of VTOQ, a read-only fixed destination, LOOP on a fixed name, a shift count past 127, ring 4, a window of 32
bytes, window kind 2, scope 6, fence kind 5, atomic operation 8, an atomic of 16 bits, fadd of 64 bits, a RED with acquire, a scope without release,
no words, a width of 65, fit mode 3, element type 10, no repeats, rounding mode 5, invalidation kind 5, a CAS of 16 bits, MACC to a read-only name. -/
theorem test_decode_refuses : ([
    [0x5700#16, 0x0000#16], [0x5301#16, 0x0200#16], [0x000A#16], [0x9401#16, 0x0203#16, 0x1600#16], [0x5201#16, 0x0201#16], [0xB481#16, 0x0203#16, 0x0000#16],
    [0xB9F0#16, 0x0200#16, 0x0000#16], [0xB9F5#16, 0x0200#16, 0x0000#16], [0x4AF7#16, 0x0203#16], [0x48FB#16, 0xFFE3#16], [0x9301#16, 0x0205#16, 0x0080#16],
    [0x9E01#16, 0x0000#16, 0x4000#16], [0xA701#16, 0x0203#16, 0x0005#16], [0xA701#16, 0x0203#16, 0x0046#16], [0x2806#16], [0x2828#16], [0xAB01#16, 0x0203#16, 0x8C00#16],
    [0xAB01#16, 0x0203#16, 0x0400#16], [0xAB01#16, 0x0203#16, 0x7C00#16], [0xAD01#16, 0x0200#16, 0x0D00#16], [0xAF02#16, 0x0203#16, 0x0001#16],
    [0xAF00#16, 0x0203#16, 0x0000#16], [0x9602#16, 0x0200#16, 0x0041#16], [0x9604#16, 0x0200#16, 0x0003#16], [0xB701#16, 0x0200#16, 0x000A#16],
    [0xB303#16, 0x0000#16, 0x0000#16], [0xBE03#16, 0x0000#16, 0x0005#16], [0xBE01#16, 0x0200#16, 0x0005#16], [0xAC01#16, 0x0203#16, 0x4004#16],
    [0xBA01#16, 0x02F9#16, 0x0000#16]] : List (List Parcel)).all (fun p => (decode p).isNone) = true := by decide +kernel

/-- Ill-formed terms, one for every check of well-formedness (R31, R34 to R36). -/
theorem test_ill_formed : ([
    .loop 240#8 ⟨0#11, 1#5⟩, .add 246#8 1#8 1#8, .jl 255#8 ⟨0#11, 1#5⟩, .resize 1#8 0#7, .resizev 1#6 65#7, .setmode 1#8 0#1 3#2, .win 1#8 2#8 3#8 0#2 5#5, .win 1#8 2#8 3#8 0#2 20#5,
    .win 1#8 2#8 3#8 2#2 6#5, .fence 5#3 0#3, .fence 0#3 6#3, .ldacq 1#8 2#8 3#2 6#3 0#11, .strel 1#8 2#8 3#2 7#3 0#11, .amo 1#8 2#8 3#8 8#4 3#2 0#2 0#3, .amo 1#8 2#8 3#8 0#4 1#2 0#2 0#3,
    .amo 1#8 2#8 3#8 7#4 3#2 0#2 0#3, .cas 1#8 2#8 3#8 4#8 1#2 0#2 0#3, .red 1#8 2#8 0#4 3#2 1#2 0#3, .send 1#3 0#1 1#8 2#8 1#7, .send 0#3 0#1 1#8 2#8 0#7, .send 0#3 0#1 1#8 2#8 65#7,
    .rpruni 0#16, .vcvt ⟨0#1, 1#6⟩ ⟨0#1, 2#6⟩ 10#4, .vqnt ⟨0#1, 1#6⟩ ⟨0#1, 2#6⟩ ⟨0#1, 3#6⟩ 15#4, .vtoq 245#8 ⟨0#1, 1#6⟩, .vfromq ⟨0#1, 1#6⟩ 240#8, .vanyq 246#8 ⟨0#1, 1#6⟩, .vallq 240#8 ⟨0#1, 1#6⟩,
    .macc 1#8 2#8 247#8, .macc 248#8 2#8 3#8, .tlbinv 1#8 5#3, .setrm 5#3] : List Instr).all (fun i => !i.wf) = true := by decide +kernel

theorem witness_EncodeDecodeRoundTrip : (Instr.amo 1#8 2#8 3#8 7#4 2#2 3#2 5#3).wf = true ∧ (Instr.amo 1#8 2#8 3#8 7#4 2#2 3#2 5#3).fields.isSome = true ∧
    decode [0xAB01#16, 0x0203#16, 0x7BA0#16] = some (.amo 1#8 2#8 3#8 7#4 2#2 3#2 5#3) := by decide +kernel

/-! ### The fabric -/

/-- Devices 0 and 1, port 0 between them. -/
def linked : State := { twoDevices with fab := { twoDevices.fab with links := [(0, 0, 1, 3), (1, 3, 0, 0)] } }

/-- The next packet of a kind and class from device 1. -/
def arriving (kind cls : Nat) (payload : List Byte) : Packet :=
  { kind := kind, cls := cls, src := 1, dst := 0, av := false, ver := 0#16, seq := 0#32, ack := 0#32, payload := payload }

/-- An acknowledgement up to 1. -/
def acked : Packet := { arriving 7 0 [] with av := true, ack := 1#32 }

/-- A request to device 1 that waits for its acknowledgement and its answer: a load of core 0. -/
def grain : Grain :=
  { packet := { kind := 1, cls := 0, src := 0, dst := 1, av := true, ver := 0#16, seq := 0#32, ack := 0#32, payload := payRead 0x9000 8 }, pending := .load 0 0 7 50 8 false 0x9000#64 }

/-- That request in the granary, its write-back to name 5 waiting. -/
def requesting : State :=
  modFlow (modCore { linked with fab := { linked.fab with granary := [grain] } } 0 fun c => { c with wbs := [{ serial := 50, slot := 0, uid := 7, name := 5#8, val := none, err := none }] }) 1 0
    fun f => { f with next := 1#32 }

theorem test_read : holds (exec (.read (arriving 1 0 (payRead 0x9000 8))) linked) (fun t => (quadOf t outsideQueue).wq.map (fun e => (e.op, e.peer)) == [(.read 0x9000 8, some (1, 0#32))] &&
    (flowOf t 1 0).exp == 1#32 && (flowOf t 1 0).owed && t.agenda.isEmpty) = true := by decide +kernel
theorem test_duplicate : holds (exec (.read { arriving 1 0 (payRead 0x9000 8) with seq := 0xFFFFFFFF#32 }) linked) (fun t => (quadOf t outsideQueue).wq.isEmpty && t.fab.out.map (fun p => p.kind) == [7]) = true := by
  decide +kernel
theorem test_resp : holds (exec (.resp (arriving 6 1 (payResp 0#32 0 0 (toBytes 8 0x1234)))) requesting) (fun t => (coreOf t 0).wbs.map (fun w => w.val) == [some 0x1234] && t.fab.granary.map (fun g => g.answered) == [true]) = true := by
  decide +kernel
theorem test_msg_event : holds (exec (.msg (arriving 4 0 (payMsg { core := 0, serial := 0, target := mkAgent 3 0 0 1, sender := mkAgent 0 1 0 0, launch := some hardwareLaunch, words := [1#64] }))) linked)
    (fun t => t.agenda == [.eventArrival (mkAgent 3 0 0 1)]) = true := by decide +kernel

theorem witness_PacketsInOrder : Receives (arriving 1 0 (payRead 0x9000 8)) (.read (arriving 1 0 (payRead 0x9000 8))) 1 0 ∧ Arrives linked (arriving 1 0 (payRead 0x9000 8)) 1 0 ∧
    serialDiff (0#32 : BitVec 32) (flowOf linked 1 0).exp = 0 ∧ serialDiff (0xFFFFFFFF#32 : BitVec 32) 0#32 < 0 ∧ 0 < serialDiff (1#32 : BitVec 32) 0#32 ∧
    serialDiff (0xFFFF#16 : BitVec 16) linked.fab.cur < 0 ∧ (flowOf requesting 1 0).closed = false ∧ 0 < serialDiff acked.ack (flowOf requesting 1 0).una ∧
    0 ≤ serialDiff (flowOf requesting 1 0).next acked.ack ∧ linked.fab.out = [] ∧ requesting.fab.granary = [grain] ∧ unacked requesting grain = true ∧ (flowOf requesting 1 0).una ≠ (flowOf requesting 1 0).next := by
  refine ⟨.inl ⟨rfl, rfl, rfl⟩, ?_, ?_⟩
  · unfold Arrives; decide +kernel
  · decide +kernel

theorem witness_PacketsInOrder_ways : (let p := { arriving 1 0 (payRead 0x9000 8) with dst := 1 }; badPacket p = false ∧ p.ver = linked.fab.cur ∧ p.dst ≠ linked.dev.num ∧ portTo linked p.dst < 48 ∧
      holds (exec (.read p) linked) (fun t => t.fab.out == [p]) = true) ∧
    (let p := { arriving 1 0 (payRead 0x9000 8) with zeroBit := true, port := 0 }; badPacket p = true ∧ p.port < 48 ∧
      holds (exec (.read p) linked) (fun t => (tget t.fab.ports {} 0 : Port).errs == 1) = true) ∧
    (let s := { (modFlow linked 1 0 fun f => { f with owed := true }) with uncore := 2250 }; (flowOf s 1 0).owed = true ∧ (flowOf s 1 0).owedAt + 2250 ≤ s.uncore ∧
      (let r := { s with uncore := 2249 }; r.uncore < (flowOf r 1 0).owedAt + 2250 ∧ holds (exec (.standaloneAck 1 0) r) (fun t => t.fab.out.isEmpty) = true) ∧ (flowOf s 1 0).closed = false ∧ (flowOf linked 1 0).owed = false ∧
      holds (exec (.standaloneAck 1 0) s) (fun t => t.fab.out.map (fun p => p.kind) == [7] && !(flowOf t 1 0).owed) = true) ∧
    badPacket acked = false ∧ acked.ver = requesting.fab.cur ∧ acked.dst = requesting.dev.num := by decide +kernel

theorem witness_PacketsInOrder_versions : (let p := { arriving 1 0 (payRead 0x9000 8) with ver := 1#16 }; let s : State := { linked with fab := { linked.fab with pendTable := some (1#16, [(1, 0)]) } };
    badPacket p = false ∧ 0 < serialDiff p.ver s.fab.cur ∧ s.fab.pendTable = some (p.ver, [(1, 0)]) ∧
    holds (exec (.read p) s) (fun t => t.fab.cur == 1#16 && t.fab.pendTable.isNone && (quadOf t outsideQueue).wq.length == 1) = true ∧
    linked.fab.pendTable = none ∧ 0 < serialDiff p.ver linked.fab.cur ∧ holds (exec (.read p) linked) (fun t => t == linked) = true ∧
    (let r : State := { linked with fab := { linked.fab with pendTable := some (2#16, [(1, 0)]) } }; holds (exec (.read p) r) (fun t => t == r) = true)) := by decide +kernel

theorem witness_PacketsInOrder_owed : (let s := { (modFlow linked 1 0 fun f => { f with owed := true, owedAt := 3 }) with uncore := 9 };
    holds (exec (.read (arriving 1 0 (payRead 0x9000 8))) s) (fun t => (flowOf t 1 0).owed && (flowOf t 1 0).owedAt == 3) = true) := by decide +kernel

theorem test_ack : holds (exec (.ack acked) requesting) (fun t => (flowOf t 1 0).una == 1#32 && t.fab.granary.length == 1) = true := by decide +kernel
theorem test_replay : holds (exec (.replayTimeout 1 0) { requesting with uncore := 90000 }) (fun t => t.fab.replays == 1 && t.fab.out.map (fun p => (p.kind, p.seq)) == [(1, 0#32)]) = true := by decide +kernel

theorem witness_PacketsInOrder_replay : replayDue requesting (flowOf requesting 1 0) = false ∧ (flowOf requesting 1 0).since + 90000 ≤ ({ requesting with uncore := 90000 } : State).uncore ∧
    holds (exec (.replayTimeout 1 0) requesting) (fun t => t.fab.replays == 0 && t.fab.out.isEmpty) = true := by decide +kernel

theorem witness_PacketEffects : Arrives linked (arriving 2 0 (payWrite 0x9000 [1#8, 2#8])) 2 0 ∧ (writeBytes (payWrite 0x9000 [1#8, 2#8])).map (fun b => (b.addr, b.val)) = [(0x9000, 1#8), (0x9001, 2#8)] ∧
    peerRefused linked 0x9000 = none ∧ peerRefused linked 0x9001 = none ∧ peerRefused linked 0x500000000 = some 0x09 ∧
    (let a : AtomicReq := { cas := true, op := 0, bytes := 8, addr := 0x9000, signed := false, operand := 1#64, newVal := 2#64, acq := true }; let b := payAtomic 0x9000 a;
      atomicOf b false = a ∧ Arrives linked (arriving 3 0 b) 3 0) ∧
    (let b := payMsg { message with target := mkAgent 15 0 0 0 }; (messageOf b).launch = some 1 ∧ agentValid linked (messageOf b).target = true ∧ agentHere linked (messageOf b).target = true ∧ Arrives linked (arriving 4 0 b) 4 0) ∧
    (let b := payStep (getsOf 3#32); Arrives linked (arriving 5 0 b) 5 0 ∧ agentValid linked (BitVec.ofNat 32 (pktField b 0 4)) = true ∧ agentHere linked (BitVec.ofNat 32 (pktField b 0 4)) = true ∧ pktField b 4 4 = 3) ∧
    Arrives requesting (arriving 6 1 (payResp 0#32 2 0x0E [])) 6 1 ∧ pktByte (payResp 0#32 2 0x0E []) 4 = 2 ∧ grain.answered = false ∧ (flowOf linked 1 0).exp = 0#32 := by
  unfold Arrives; decide +kernel

theorem witness_PacketEffects_sealed : (let b := payMsg { message with sender := mkAgent 0 1 0 2, target := mkAgent 0 0 0 0, launch := some hardwareLaunch, words := [4#64] };
    Arrives linked (arriving 4 0 b) 4 0 ∧ (messageOf b).launch = some hardwareLaunch ∧ (messageOf b).words.headD 0#64 = 4#64) := by
  unfold Arrives; decide +kernel

/-- A packet of two flits, and its flits. -/
def wide : Packet := { arriving 2 0 (payWrite 0x9000 (List.replicate 64 1#8)) with flits := 1 }
def flitAt (j : Nat) : Flit := let d := (flitParts wide).getD j []; { data := d, crc := flitCrc d, lsn := BitVec.ofNat 12 j, ack := 0#12 }

theorem test_flit_bad : holds (exec (.flit 0 (flitAt 0).data (flitCrc []) (flitAt 0).toSidecar) linked) (fun t => (tget t.fab.ports {} 0 : Port).llr == 1) = true := by decide +kernel
theorem test_flits_assembled : holds (exec (.flit 0 (flitAt 0).data (flitAt 0).crc (flitAt 0).toSidecar) linked) (fun t => t.agenda.isEmpty && holds (exec (.flit 0 (flitAt 1).data (flitAt 1).crc (flitAt 1).toSidecar) t) fun u => u.agenda == [.write { wide with port := 0 }]) = true := by
  decide +kernel
theorem test_manager : holds (exec (.fabricManagerTold 0 0 false) linked) (fun t => t.fab.issued == 1#16 && t.agenda == [.installNotice 1#16 [(1, 48)]]) = true := by decide +kernel
theorem test_unreachable : holds (exec (.unreachableNotice 1) requesting) (fun t => t.fab.granary.isEmpty && (coreOf t 0).wbs.map (fun w => w.err) == [some (0x0F, 0x9000#64)] && (flowOf t 1 0).closed) = true := by decide +kernel
theorem test_formation : holds (exec (.domainFormation 0 3 [(0, 4, 1, 2), (1, 2, 0, 4), (1, 5, 2, 6), (2, 6, 1, 5)]) base) (fun t => portTo t 1 == 4 && portTo t 2 == 4 && t.dev.size == 3) = true := by decide +kernel

theorem witness_LinkAndRoutingResult : portUp linked 0 = true ∧ (tget linked.fab.ports {} 0 : Port).lsnExp = 0#12 ∧ (tget linked.fab.ports {} 0 : Port).resends < 16 ∧
    16 ≤ (tget (modPort linked 0 fun x => { x with resends := 16 }).fab.ports {} 0 : Port).resends ∧ managerOf linked = linked.dev.num ∧
    goodLinks { linked.fab with down := downAfter linked.fab.down 0 0 false } ≠ goodLinks linked.fab ∧ linked.fab.pendTable = none ∧ 0 < serialDiff (1#16 : BitVec 16) linked.fab.cur ∧
    serialDiff (0#16 : BitVec 16) linked.fab.cur ≤ 0 ∧ reached linked = [1] ∧ reached { linked with fab := { linked.fab with down := [(0, 0)] } } = [] ∧ unreachable linked 1 = false ∧ 1 ≠ linked.dev.num := by
  decide +kernel

theorem witness_LinkAndRouting_flits : portUp linked 0 = true ∧
    (flitGood (flitAt 0) = true ∧ (flitAt 0).data ≠ [] ∧ (flitAt 0).lsn = 0#12 ∧ flitsField (flitAt 0).data = 1 ∧ badPacket (packetOfFlits 0 [flitAt 0, flitAt 1]) = false ∧
      (packetOfFlits 0 [flitAt 0, flitAt 1]).kind = 2) ∧
    (let s := modPort linked 0 fun x => { x with inBuf := [flitAt 0], lsnExp := 1#12 }; flitGood (flitAt 1) = true ∧ (flitAt 1).data ≠ [] ∧ (flitAt 1).lsn = (tget s.fab.ports {} 0 : Port).lsnExp) ∧
    (let e : Flit := { data := [], crc := flitCrc [], lsn := 0#12, ack := 0#12, resend := true }; flitGood e = true ∧ e.ack = (tget linked.fab.ports {} 0 : Port).lsnUna ∧
      (let s := modPort linked 0 fun x => { x with replayBuf := [flitAt 0], lsnNext := 1#12 };
        holds (exec (.flit 0 e.data e.crc e.toSidecar) s) (fun t => (tget t.fab.ports {} 0 : Port).wire == [flitAt 0] && (tget t.fab.ports {} 0 : Port).llr == 1) = true)) ∧
    flitGood { flitAt 0 with crc := flitCrc [] } = false ∧
    (let s : State := { linked with dev := { linked.dev with num := 1 }, fab := { linked.fab with table := [(0, 0)] } }; managerOf s ≠ s.dev.num ∧
      holds (exec (.fabricManagerTold 1 0 false) s) (fun t => t.fab.out.map (fun p => (p.kind, p.dst)) == [(8, 0)]) = true) := by decide +kernel

/-- Port 0 waiting for a resend that it asked for at once, `n` failures of it behind it. -/
def askedAgain (n : Nat) : State := modPort linked 0 fun x => { x with asked := some 0, resends := n }

theorem witness_LinkAndRouting_bad : (let bad := { flitAt 0 with crc := flitCrc [] }; flitGood bad = false ∧ (tget linked.fab.ports {} 0 : Port).asked = none ∧
      (tget (askedAgain 3).fab.ports {} 0 : Port).asked = some 0 ∧ bad.lsn = (tget (askedAgain 3).fab.ports {} 0 : Port).lsnExp ∧ (tget (askedAgain 3).fab.ports {} 0 : Port).resends < 15 ∧
      holds (exec (.flit 0 bad.data bad.crc bad.toSidecar) (askedAgain 3)) (fun t => (tget t.fab.ports {} 0 : Port).resends == 4) = true ∧
      holds (exec (.flit 0 bad.data bad.crc bad.toSidecar) (askedAgain 15)) (fun t => (tget t.fab.ports {} 0 : Port).state == 4) = true) ∧
    (let bad := { flitAt 1 with crc := flitCrc [] }; flitGood bad = false ∧ bad.lsn ≠ (tget (askedAgain 3).fab.ports {} 0 : Port).lsnExp ∧
      holds (exec (.flit 0 bad.data bad.crc bad.toSidecar) (askedAgain 3)) (fun t => (tget t.fab.ports {} 0 : Port).resends == 3) = true) ∧
    (flitGood (flitAt 1) = true ∧ (flitAt 1).data ≠ [] ∧ (flitAt 1).lsn ≠ (tget linked.fab.ports {} 0 : Port).lsnExp) ∧
    (let e : Flit := { data := [], crc := flitCrc [], lsn := 0#12, ack := 0#12 }; flitGood e = true ∧ e.data = [] ∧ e.lsn = (tget (askedAgain 3).fab.ports {} 0 : Port).lsnExp ∧
      holds (exec (.flit 0 e.data e.crc e.toSidecar) (askedAgain 3)) (fun t => (tget t.fab.ports {} 0 : Port).asked.isNone) = true) := by decide +kernel

theorem witness_LinkAndRouting_lanes : (let lane := fun (g : BitVec 4) => holds (exec (.laneFailure 0 g) linked); let p := fun (t : State) => (tget t.fab.ports {} 0 : Port);
    portUp linked 0 = true ∧ lane 15#4 (fun t => (p t).state == 2 && (p t).lanes == 15#4) = true ∧ lane 14#4 (fun t => (p t).state == 3 && (p t).lanes == 6#4) = true ∧
    lane 9#4 (fun t => (p t).state == 3 && (p t).lanes == 9#4) = true ∧ lane 8#4 (fun t => (p t).state == 4 && t.agenda == [.fabricManagerTold 0 0 false]) = true) ∧
    (flitGood { data := [], crc := 1#32, lsn := 0#12, ack := 0#12 } = false ∧
      holds (exec (.flit 0 [] 1#32 ({ data := [], crc := 1#32, lsn := 0#12, ack := 0#12 } : Flit).toSidecar) (askedAgain 15)) (fun t => (tget t.fab.ports {} 0 : Port).resends == 15 && (tget t.fab.ports {} 0 : Port).state == 2) = true) := by decide +kernel

/-- Device 1 of a chain of three, whose manager is device 0. -/
def chained : State :=
  { base with dev := { base.dev with num := 1, size := 3 },
              fab := { base.fab with table := [(0, 0), (2, 1)], ports := [(0, { state := 2, lanes := 15#4, peerDev := 0 }), (1, { state := 2, lanes := 15#4, peerDev := 2, peerPort := 0 })],
                                     links := [(0, 0, 1, 0), (1, 0, 0, 0), (1, 1, 2, 0), (2, 0, 1, 1)] } }

theorem witness_LinkAndRouting_manager : managerOf (learn chained 2 0 false) = 0 ∧ downAfter chained.fab.down 2 0 false ≠ chained.fab.down ∧ chained.dev.num = 1 ∧
    downAfter linked.fab.down 0 5 true = linked.fab.down ∧ managerOf (learn linked 0 0 false) = linked.dev.num ∧ goodLinks (learn linked 0 0 false).fab ≠ goodLinks linked.fab ∧
    (let u := learn chained 0 0 false; managerOf u = 1 ∧ goodLinks u.fab ≠ goodLinks chained.fab ∧
      holds (exec (.fabricManagerTold 0 0 false) chained) (fun t => t.fab.issued == 1#16) = true) := by decide +kernel

/-- Device 1 of that chain, cut off from device 0 until its port 0 comes up again. -/
def rejoining : State := { chained with fab := { chained.fab with down := [(1, 0)] } }

theorem witness_LinkAndRouting_rejoin : managerOf (learn rejoining 1 0 true) = 0 ∧ downAfter rejoining.fab.down 1 0 true ≠ rejoining.fab.down ∧ reached rejoining = [2] ∧ reached (learn rejoining 1 0 true) = [0, 2] ∧
    holds (exec (.fabricManagerTold 1 0 true) rejoining) (fun t => t.fab.out.map (fun p => p.payload.take 2) == [toBytes 2 6, toBytes 2 3]) = true ∧
    holds (exec (.domainFormation 0 2 [(0, 4, 1, 2), (1, 2, 0, 4)]) base) (fun t => (tfind t.fab.ports 4).map (fun x => (x.state, x.lanes)) == some (1, 0#4)) = true := by decide +kernel

theorem witness_LinkAndRouting_acks : (let s : State := { linked with fab := { linked.fab with issued := 1#16, pendTable := some (1#16, [(1, 0)]), acks := [(0, 1#16)] } };
    managerOf s = s.dev.num ∧ s.dev.num :: reached s = [0, 1] ∧ (∀ d ∈ [0, 1], d = 1 ∨ (d, 1#16) ∈ s.fab.acks) ∧ holds (exec (.installAck 1 1#16) s) (fun t => t.fab.cur == 1#16) = true ∧
    (let r : State := { s with fab := { s.fab with acks := [] } }; (0, 1#16) ∉ r.fab.acks ∧ holds (exec (.installAck 1 1#16) r) (fun t => t.fab.cur == 0#16) = true)) := by decide +kernel

/-! ### Gathers, retries and lanes -/

/-- Two strands of a launch on core 0, the second in a gather of tag 4. -/
def gathering : State :=
  let s := setSlot (setSlot base 0 0 { strand with launch := some 1 }) 0 1 { strand with uid := 8, launch := some 1, status := .parked .align, nextPc := 0x1004#64 }
  modCluster s 0 fun c => { c with gathers := [{ launch := some 1, tag := 4#8, pc := 0x1002#64, deadline := 9, members := [(0, 1)] }] }

theorem test_align_opens : holds (exec (.align 5#8 9#16) gathering) (fun t => (curSlot t).status == .parked .align && ((clusterOf t 0).gathers.map fun g => g.deadline) == [9, 9]) = true := by decide +kernel
theorem test_align_completes : holds (exec (.align 4#8 9#16) gathering) (fun t => (slotOf t 0 1).pc == 0x1004#64 && (slotOf t 0 1).status == .ready && pcOf t == 0x1004 && (clusterOf t 0).gathers.isEmpty) = true := by decide +kernel

/-- A transfer on channel 3 after two failures, and the same at its third charge. -/
def beat : Beat := { chan := 3, times := [0, 0], bad := 17, core := 0, wb := 50, bits := 64, val := 9, poison := false, va := 0#64 }
def beating (b : Beat) : State := modCluster base 0 fun c => { c with beats := [b] }

theorem test_lane_swap : holds (exec (.laneSwap 0 3 17) (beating { beat with lane := some 17, swapAt := some 0 })) (fun t => tget (clusterOf t 0).laneMap 0#64 3 == 0x8011#64 && (clusterOf t 0).vbusLog.length == 1) = true := by
  decide +kernel

theorem witness_GathersAndRetries : base.cur.slot < 14 ∧ isCore base.cur.core = true ∧ 14 ≤ handler.cur.slot ∧ (clusterOf base 0).gathers = [] ∧
    gatherFull base 0 { launch := none, tag := 4#8, pc := 0x1002#64, deadline := 9, members := [(0, 0)] } = true ∧
    gatherFull gathering 0 { launch := some 1, tag := 5#8, pc := 0x1002#64, deadline := 9, members := [(0, 0)] } = false ∧
    gatherFull gathering 0 { launch := some 1, tag := 4#8, pc := 0x1002#64, deadline := 9, members := [(0, 1), (0, 0)] } = true ∧
    (∃ g ∈ (clusterOf { gathering with uncore := 9 } 0).gathers, g.deadline ≤ 9) ∧
    (let w : FeWait := { op := .ldff, addr := q0, core := 0, slot := 0, uid := 7, local' := true, serial := 50 };
      let s : State := { base with quads := [(0, { feRetry := [w] })], full := [q0] }; w.due ≤ s.uncore ∧ feReady (modQuad s 0 fun y => { y with feRetry := [] }) w.op w.addr = true) ∧
    (clusterOf (beating beat) 0).beats = [beat] ∧ (clusterOf (beating beat) 0).inject = 0#64 ∧ beat.times ≠ [] ∧ beat.times.length < 3 ∧ beat.lane = none ∧ (clusterOf (beating beat) 0).charges = [] ∧ beat.poison = false ∧ beat.due ≤ (beating beat).uncore ∧ tget (clusterOf (beating beat) 0).laneMap 0#64 3 = 0#64 := by decide +kernel

theorem witness_GathersAndRetries_times : (∀ g ∈ (clusterOf gathering 0).gathers, gathering.uncore < g.deadline) ∧
    (let s := modCluster (setSlot base 0 1 { strand with uid := 8, status := .parked .align, nextPc := 0x1004#64 }) 0 fun c =>
        { c with gathers := [{ launch := none, tag := 4#8, pc := 0x1002#64, deadline := 0, members := [(0, 1)] }] };
      (clusterOf s 0).gathers.map (·.deadline) = [s.uncore] ∧ gatherFull (releaseDue s 0) 0 { launch := none, tag := 4#8, pc := 0x1002#64, deadline := s.uncore + 9, members := [(0, 0)] } = false ∧
      holds (exec (.align 4#8 9#16) s) (fun t => (clusterOf t 0).gathers.map (·.members) == [[(0, 0)]] && (slotOf t 0 1).status == .ready) = true) ∧
    (let b := { beat with wb := 0, block := 0x40 }; (beating b).stall = none ∧
      holds (exec (.vbusRetryAttempt 0 3) (beating b)) (fun t => (clusterOf t 0).beats.isEmpty && (clusterOf t 0).brought == [(0x40, false)]) = true) := by decide +kernel

theorem witness_Gathers_left : (let s := setSlot gathering 0 0 {}; (clusterOf s 0).gathers.length = 1 ∧ (∀ g ∈ (clusterOf s 0).gathers, s.uncore < g.deadline ∧ gatherFull s 0 g = true) ∧
    dueNow s = some (.alignDeadline 0 0) ∧ holds (exec (.alignDeadline 0 0) s) (fun t => (slotOf t 0 1).status == .ready && (clusterOf t 0).gathers.isEmpty) = true) := by decide +kernel

/-! ### The whole machine -/

/-- A state in which core 0's next turn issues the ADD at 0x1002 in its line. -/
def issuing : State := State.reset.withFetchWord 32 0x4A000102

theorem test_fetch_word : holds (step (State.reset.withFetchWord 16 0x0006)) (fun t => (slotOf t 0 0).status == .sleep) = true := by decide +kernel

/-- The same once core 0 has had its issue of the cycle. -/
def issued : State := modCore issuing 0 fun c => { c with canIssue := 1 }

/-- Whether the strand at 0x1002 of core 0 stands at that ADD, eligible. -/
def standsAtAdd (u : State) : Bool :=
  mayIssue (coreOf u 0) (isStreamer 0) (cycOf u 0) && pickSlot u 0 (cycOf u 0) == some 0 && (slotOf u 0 0).lateFit.isNone && !(entersLine (slotOf u 0 0)) &&
    (match lineFor u 0 0 (slotOf u 0 0).pc with
      | some b => validLine b.parcels == some 1 && (let hd := lineHead b.parcels 1; decodeHead hd.1 hd.2 == some (.add 0#8 1#8 2#8))
      | none => false)

theorem witness_StepRunsDecodedInstruction : issuing.turns = .issue 0 :: [] ∧ (dueNow issuing).isNone = true ∧ (haste issuing).isNone = true ∧
    owesIssue issuing 0 = true ∧ standsAtAdd { issuing with turns := [] } = true ∧
    issued.turns = .issue 0 :: [] ∧ (dueNow issued).isNone = true ∧ (haste issued).isNone = true ∧ owesIssue issued 0 = false ∧ (owed issued).isNone = true ∧
    standsAtAdd { issued with turns := [], uncore := issued.uncore + 1, haste := 0 } = true ∧ (slotOf issuing 0 0).pc = 0x1002#64 ∧
    standsAlone .drain = true ∧ standsAlone .illegalEncoding = false ∧
    (let s := { issuing with turns := [.agenda 0], agenda := [.drain] }; (dueNow s).isNone = true ∧ (haste s).isNone = true ∧ s.turns = .agenda 0 :: [] ∧ s.agenda = .drain :: []) ∧
    (let s := { issuing with turns := [.act .drain] }; (dueNow s).isNone = true ∧ (haste s).isNone = true ∧ s.turns = .act .drain :: []) := by decide +kernel

theorem witness_StepRuns_pause : (let s := modCore issued 0 fun c => { c with pauseTo := some 0 }; s.turns = .issue 0 :: [] ∧ (dueNow s).isNone = true ∧ (haste s).isNone = true ∧ owesIssue s 0 = false ∧ (owed s).isNone = true ∧
    dueNow (tick s) = some (.pauseEnd 0)) ∧ (dueNow (tick issued)).isNone = true := by decide +kernel

theorem witness_RotationPicks : (let s := issuing; pickSlot s 0 1 = some 0 ∧ isStreamer 0 = false ∧ eligible s 0 0 1 = true ∧ pickSlot base 0 1 = none ∧ (coreOf s 0).last = 15) := by decide +kernel

theorem witness_ResetValues : Memory.wf State.reset.mem = true ∧ (queueOf State.reset 63).qsize = 6 ∧ (slotOf State.reset 5 3).status = .free := by decide +kernel

theorem witness_StepSafe : Canonical State.reset ∧ Canonical issuing := by unfold Canonical; decide +kernel
end Sys2Proof.Tests
end

/-! ## What a step leaves of memory: the rules

`f_mem` says that an operation changes no byte of memory. -/

namespace Sys2Proof.Machine

/-- A fold of operations that change no memory changes none. -/
@[simp] theorem foldl_mem {α : Type} {f : State → α → State} (h : ∀ s a, (f s a).mem = s.mem) (s : State) (l : List α) :
    (l.foldl f s).mem = s.mem := by
  induction l generalizing s with
  | nil => rfl
  | cons a l ih => rw [List.foldl_cons, ih, h]

theorem foldl_fst_mem {α β : Type} {f : State × β → α → State × β} (h : ∀ x a, (f x a).1.mem = x.1.mem) (x : State × β) (l : List α) :
    (l.foldl f x).1.mem = x.1.mem := by
  induction l generalizing x with
  | nil => rfl
  | cons a l ih => rw [List.foldl_cons, ih, h]

@[simp] theorem ite_mem (c : Prop) [Decidable c] (s t : State) : (if c then s else t).mem = if c then s.mem else t.mem :=
  apply_ite State.mem c s t

end Sys2Proof.Machine

namespace Sys2Proof.Claims

open Sys2Proof.Machine

/-- A state with the memory of a canonical one is canonical. -/
theorem Canonical.of_mem {s t : State} (h : Canonical s) (e : t.mem = s.mem) : Canonical t := by
  unfold Canonical; rwa [e]

/-- The same of a state that a pair is known to hold. -/
theorem Canonical.of_fst {α : Type} {x : State × α} {t : State} {b : α} (h : Canonical x.1) (e : x = (t, b)) : Canonical t := by
  subst e; exact h

end Sys2Proof.Claims

namespace Sys2Proof.Machine

/-! ### Bodies and outcomes -/

/-- Every state that a body's answer carries, and that can become the next one, has a memory with a property. -/
def Ans.Keeps {α : Type} (P : List Host.Cell → Prop) : Ans α → Prop
  | .ok _ t | .trapIn _ _ t | .waitIn _ t | .holdIn t => P t.mem
  | .trap _ _ | .trapRead _ _ _ | .raise _ _ _ | .wait _ | .hold => True

/-- A step answers a next state, whose memory has a property. -/
def Answers (P : List Host.Cell → Prop) : Host.Outcome State Fault Refusal → Prop
  | .next t => P t.mem
  | .fault _ | .refused _ => False

/-- Memory in its canonical form, as a property that answers keep. -/
def CanonicalMem (m : List Host.Cell) : Prop := Memory.wf m = true

theorem mem_of_fst {α : Type} {x : State × α} {t : State} {b : α} (h : x = (t, b)) : t.mem = x.1.mem := by subst h; rfl

theorem mem_of_snd {α : Type} {x : α × State} {t : State} {b : α} (h : x = (b, t)) : t.mem = x.2.mem := by subst h; rfl

/-- A fold of operations that keep memory canonical keeps it. -/
theorem foldl_canonical {α : Type} {f : State → α → State} (hf : ∀ s a, Claims.Canonical s → Claims.Canonical (f s a)) {s : State}
    (h : Claims.Canonical s) (l : List α) : Claims.Canonical (l.foldl f s) := by
  induction l generalizing s with
  | nil => exact h
  | cons a l ih => exact ih (hf s a h)

theorem foldl_fst_canonical {α β : Type} {f : State × β → α → State × β} (hf : ∀ x a, Claims.Canonical x.1 → Claims.Canonical (f x a).1)
    {x : State × β} (h : Claims.Canonical x.1) (l : List α) : Claims.Canonical (l.foldl f x).1 := by
  induction l generalizing x with
  | nil => exact h
  | cons a l ih => exact ih (hf x a h)

section
variable {P : List Host.Cell → Prop} {α β : Type} {s t : State}

@[simp] theorem keeps_ok (a : α) (t : State) : (Ans.ok a t).Keeps P ↔ P t.mem := .rfl
@[simp] theorem keeps_trapIn (c : Nat) (v : Word) (t : State) : (Ans.trapIn c v t : Ans α).Keeps P ↔ P t.mem := .rfl
@[simp] theorem keeps_waitIn (w : Wait) (t : State) : (Ans.waitIn w t : Ans α).Keeps P ↔ P t.mem := .rfl
@[simp] theorem keeps_holdIn (t : State) : (Ans.holdIn t : Ans α).Keeps P ↔ P t.mem := .rfl
@[simp] theorem keeps_trap (c : Nat) (v : Word) : (Ans.trap c v : Ans α).Keeps P := trivial
@[simp] theorem keeps_trapRead (c : Nat) (v : Word) (t : State) : (Ans.trapRead c v t : Ans α).Keeps P := trivial
@[simp] theorem keeps_raise (c : Nat) (v : Word) (t : State) : (Ans.raise c v t : Ans α).Keeps P := trivial
@[simp] theorem keeps_wait (w : Wait) : (Ans.wait w : Ans α).Keeps P := trivial
@[simp] theorem keeps_hold : (Ans.hold : Ans α).Keeps P := trivial

@[simp] theorem answers_next : Answers P (.next t) ↔ P t.mem := .rfl

theorem answers_iff (o : Host.Outcome State Fault Refusal) : Answers P o ↔ ∃ t, o = .next t ∧ P t.mem := by
  cases o <;> simp [Answers]

theorem Ans.Keeps.bind {x : Ans α} {f : α → State → Ans β} (hx : x.Keeps P) (hf : ∀ a t, P t.mem → (f a t).Keeps P) :
    (x.bind f).Keeps P := by
  cases x with
  | ok a t => exact hf a t hx
  | trapIn | trap | trapRead | raise | wait | waitIn | hold | holdIn => exact hx

theorem Ans.Keeps.seq {x : Ans Unit} {f : State → Ans α} (hx : x.Keeps P) (hf : ∀ t, P t.mem → (f t).Keeps P) : (x.seq f).Keeps P :=
  hx.bind fun _ t h => hf t h

theorem Ans.Keeps.readThen {x : Ans α} {f : α → State → Ans β} (hx : x.Keeps P) (hf : ∀ a t, P t.mem → (f a t).Keeps P) :
    (x.readThen f).Keeps P :=
  hx.bind fun a t h => by
    have := hf a t h
    split
    · trivial
    · exact this

theorem require_keeps {b : Bool} {c : Nat} {v : Word} (h : P s.mem) : (require b c v s).Keeps P := by
  unfold require; split
  · exact h
  · trivial

@[simp] theorem keepReads_mem (s t : State) : (keepReads s t).mem = s.mem := rfl

end

end Sys2Proof.Machine

/-! ## What each operation, body and step leaves of memory, in the order of the model -/

namespace Sys2Proof.Machine

open Sys2Proof.Claims

section
variable {P : List Host.Cell → Prop}

/-! ### Ops -/

@[simp] theorem modLaunch_mem (s : State) (l : Nat) (f : Launch → Launch) : (modLaunch s l f).mem = s.mem := by
  unfold modLaunch; split <;> simp

@[simp] theorem finishVfrom_mem (s : State) (k q : Nat) : (finishVfrom s k q).mem = s.mem := by
  unfold finishVfrom; dsimp only; repeat' split
  all_goals simp

@[simp] theorem settleOnce_mem (k q : Nat) (s : State) : (settleOnce k q s).mem = s.mem := by simp [settleOnce]

@[simp] theorem settleTimes_mem (n k q : Nat) (s : State) : (settleTimes n k q s).mem = s.mem := by
  induction n generalizing s with
  | zero => rfl
  | succ n ih => simp [settleTimes, ih]

@[simp] theorem settleQueue_mem (s : State) (k q : Nat) : (settleQueue s k q).mem = s.mem := by simp [settleQueue]

@[simp] theorem putBack_mem (s : State) (k i : Nat) : (putBack s k i).mem = s.mem := by
  unfold putBack; dsimp only; split <;> simp

@[simp] theorem trapPlain_mem (s : State) (k i : Nat) (pc : Word) (cause : Nat) (val : Word) : (trapPlain s k i pc cause val).mem = s.mem := by
  simp [trapPlain]

@[simp] theorem dropWb_mem (s : State) (k serial : Nat) : (dropWb s k serial).mem = s.mem := by
  unfold dropWb; repeat' split
  all_goals simp

@[simp] theorem trapGets_mem (s : State) (g : GetsReq) (cause : Nat) (val : Word) : (trapGets s g cause val).mem = s.mem := by simp [trapGets]

@[simp] theorem failGets_mem (s : State) (g : GetsReq) : (failGets s g).mem = s.mem := by simp [failGets]

@[simp] theorem markLost_mem (s : State) (p : Agent → Bool) : (markLost s p).mem = s.mem := by simp [markLost]

@[simp] theorem leaveGather_mem (s : State) (k i : Nat) : (leaveGather s k i).mem = s.mem := by simp [leaveGather]

@[simp] theorem withdraw_mem (s : State) (k i : Nat) : (withdraw s k i).mem = s.mem := by
  unfold withdraw; split <;> simp

@[simp] theorem tellPeers_mem (s : State) (a : Agent) : (tellPeers s a).mem = s.mem := by simp [tellPeers]

@[simp] theorem sealCore_mem (s : State) (k : Nat) (checker : Bool) : (sealCore s k checker).mem = s.mem := by simp [sealCore]

@[simp] theorem takeTrapAt_mem (s : State) (k i : Nat) (pc : Word) (cause : Nat) (val : Word) (checker : Bool) (precise : Bool) :
    (takeTrapAt s k i pc cause val checker precise).mem = s.mem := by simp [takeTrapAt]

@[simp] theorem takeTrap_mem (s : State) (cause : Nat) (val : Word) : (takeTrap s cause val).mem = s.mem := by simp [takeTrap]

@[simp] theorem raiseTrap_mem (s : State) (cause : Nat) (val : Word) : (raiseTrap s cause val).mem = s.mem := by simp [raiseTrap]

theorem endOf_answers {α : Type} {x : Ans α} {s : State} {done : α → State → State} (h : P s.mem) (hx : x.Keeps P)
    (hd : ∀ a t, P t.mem → P (done a t).mem) : Answers P (endOf x s done) := by
  cases x with
  | ok a t => exact hd a t hx
  | trapIn | waitIn | holdIn => simpa [endOf] using hx
  | trap | trapRead | raise | wait | hold => simpa [endOf] using h

theorem run_answers {body : State → Ans Unit} {s : State} (h : P s.mem) (hb : (body s).Keeps P) : Answers P (run body s) :=
  endOf_answers h hb fun _ _ h => by simpa using h

theorem runJump_answers {body : State → Ans (Option Word)} {s : State} (h : P s.mem) (hb : (body s).Keeps P) :
    Answers P (runJump body s) :=
  endOf_answers h hb fun _ _ h => by simpa using h

theorem runEnd_answers {body : State → Ans Unit} {s : State} (h : P s.mem) (hb : (body s).Keeps P) : Answers P (runEnd body s) :=
  endOf_answers h hb fun _ _ h => h

/-! ### Flags -/

@[simp] theorem raiseFlags_mem (s : State) (k i : Nat) (f : BitVec 8) : (raiseFlags s k i f).mem = s.mem := by simp [raiseFlags]

/-! ### Operands -/

theorem popHead_keeps {q : Nat} {s : State} (h : P s.mem) : (popHead q s).Keeps P := by
  unfold popHead
  dsimp only
  split <;> simp [h]

theorem popQueue_keeps {q : Nat} {s : State} (h : P s.mem) : (popQueue q s).Keeps P := by
  unfold popQueue
  dsimp only
  split
  · simp [h]
  · exact popHead_keeps h

theorem raisePoint_keeps {s : State} (h : P s.mem) : (raisePoint s).Keeps P := by
  unfold raisePoint
  split <;> simp [h]

theorem pushNow_keeps {q : Nat} {v : Word} {s : State} (h : P s.mem) : (pushNow q v s).Keeps P := by
  unfold pushNow
  dsimp only
  split <;> simp [h]

theorem pushQueue_keeps {q : Nat} {v : Word} {s : State} (h : P s.mem) : (pushQueue q v s).Keeps P :=
  .seq (raisePoint_keeps h) fun _ h => pushNow_keeps h

theorem reserveQueue_keeps {q : Nat} {s : State} (h : P s.mem) : (reserveQueue q s).Keeps P := by
  unfold reserveQueue
  dsimp only
  refine .seq (raisePoint_keeps h) fun _ h => ?_
  split <;> simp [h]

theorem readName_keeps {n : Name} {s : State} (h : P s.mem) : (readName n s).Keeps P := by
  unfold readName
  split
  · exact .bind (popQueue_keeps h) fun _ _ h => h
  · repeat' split
    all_goals simp [h]

@[simp] theorem writeFixed_mem (s : State) (n : Nat) (w : Word) : (writeFixed s n w).mem = s.mem := by simp [writeFixed]

@[simp] theorem putName_mem (s : State) (k i : Nat) (n : Name) (e : NameEntry) (v : Int) (sat : Bool) : (putName s k i n e v sat).mem = s.mem := by
  simp [putName]

theorem writeName_keeps {n : Name} {x : Int} {s : State} (h : P s.mem) : (writeName n x s).Keeps P := by
  unfold writeName
  split
  · exact pushQueue_keeps h
  · repeat' split
    all_goals simp [h]

theorem deferWrite_keeps {a : Name} {x : Option Int} {err : Option (Nat × Word)} {poison : Bool} {s : State}
    (h : P s.mem) : (deferWrite a x err poison s).Keeps P := by
  unfold deferWrite
  dsimp only
  split
  · exact .bind (reserveQueue_keeps h) fun _ _ h => by simp [h]
  · repeat' split
    all_goals simp [h]

theorem widthOfName_keeps {n : Name} {s : State} (h : P s.mem) : (widthOfName n s).Keeps P := by
  unfold widthOfName
  repeat' split
  all_goals simp [h]

theorem signedOfName_keeps {n : Name} {s : State} (h : P s.mem) : (signedOfName n s).Keeps P := by
  unfold signedOfName
  repeat' split
  all_goals simp [h]

theorem readWindow_keeps {n : Name} {cmd : Bool} {s : State} (h : P s.mem) : (readWindow n cmd s).Keeps P := by
  unfold readWindow
  dsimp only
  refine .bind (readName_keeps h) fun _ _ h => ?_
  split <;> simp [h]

/-! ### Control -/

theorem branchIf_keeps {b : Bool} {t : Target} {s : State} (h : P s.mem) : (branchIf b t s).Keeps P := h

theorem branchOn_keeps {f : Int → Int → Bool} {b c : Name} {t : Target} {s : State} (h : P s.mem) : (branchOn f b c t s).Keeps P :=
  .bind (readName_keeps h) fun _ _ h => .bind (readName_keeps h) fun _ _ h => branchIf_keeps h

theorem branchOutcome_keeps {want : Word} {t : Target} {s : State} (h : P s.mem) : (branchOutcome want t s).Keeps P :=
  .bind (popQueue_keeps h) fun _ _ h => branchIf_keeps h

theorem execJl_answers {a : Name} {t : Target} {s : State} (h : P s.mem) : Answers P (execJl a t s) :=
  runJump_answers h (.bind (writeName_keeps h) fun _ _ h => branchIf_keeps h)

theorem execJr_answers {a : Name} {s : State} (h : P s.mem) : Answers P (execJr a s) := runJump_answers h (.bind (readName_keeps h) fun _ _ h => h)

theorem execJlr_answers {a b : Name} {s : State} (h : P s.mem) : Answers P (execJlr a b s) :=
  runJump_answers h (.bind (readName_keeps h) fun _ _ h => .bind (writeName_keeps h) fun _ _ h => h)

theorem execBz_answers {a : Name} {t : Target} {s : State} (h : P s.mem) : Answers P (execBz a t s) :=
  runJump_answers h (.bind (readName_keeps h) fun _ _ h => branchIf_keeps h)

theorem execBnz_answers {a : Name} {t : Target} {s : State} (h : P s.mem) : Answers P (execBnz a t s) :=
  runJump_answers h (.bind (readName_keeps h) fun _ _ h => branchIf_keeps h)

theorem execLoop_answers {a : Name} {t : Target} {s : State} (h : P s.mem) : Answers P (execLoop a t s) := by
  unfold execLoop
  refine runJump_answers h ?_
  split
  · trivial
  · exact .bind (readName_keeps h) fun _ _ h => .bind (writeName_keeps h) fun _ _ h => .bind (readName_keeps h) fun _ _ h => branchIf_keeps h

@[simp] theorem releaseMembers_mem (s : State) (ms : List (Nat × Nat)) : (releaseMembers s ms).mem = s.mem := by simp [releaseMembers]

@[simp] theorem releaseGather_mem (s : State) (c idx : Nat) : (releaseGather s c idx).mem = s.mem := by
  unfold releaseGather; split <;> simp

@[simp] theorem releaseDue_mem (s : State) (c : Nat) : (releaseDue s c).mem = s.mem := by
  unfold releaseDue; dsimp only; split <;> simp

theorem alignBody_keeps {tag : BitVec 8} {timeout : BitVec 16} {s : State} (h : P s.mem) : (alignBody tag timeout s).Keeps P := by
  unfold alignBody
  dsimp only
  repeat' split
  all_goals simp [h]

theorem execAlignDeadline_answers {cluster idx : Nat} {s : State} (h : P s.mem) : Answers P (execAlignDeadline cluster idx s) := by
  unfold execAlignDeadline
  repeat' split
  all_goals simp [h]

/-! ### Arrays -/

@[simp] theorem flipBit_mem (s : State) (wa bit : Nat) : (flipBit s wa bit).mem = s.mem := by simp [flipBit]

@[simp] theorem logVbus_mem (s : State) (now c chan event lane attempt spare : Nat) :
    (logVbus s now c chan event lane attempt spare).mem = s.mem := by simp [logVbus]

@[simp] theorem charge_mem (s : State) (c chan lane : Nat) (cycles : List Nat) : (charge s c chan lane cycles).mem = s.mem := by simp [charge]

@[simp] theorem swapLane_mem (s : State) (now c chan lane : Nat) : (swapLane s now c chan lane).mem = s.mem := by
  unfold swapLane; split <;> simp

@[simp] theorem nameLane_mem (s : State) (c : Nat) (b : Beat) : (nameLane s c b).1.mem = s.mem := by
  unfold nameLane; repeat' split
  all_goals simp

@[simp] theorem attempt_mem (s : State) (now c : Nat) (b : Beat) : (attempt s now c b).1.mem = s.mem := by
  unfold attempt; dsimp only; repeat' split
  all_goals simp

@[simp] theorem unlessHeld_mem {s t : State} (h : t.mem = s.mem) : (unlessHeld s t).mem = s.mem := by
  unfold unlessHeld; split <;> simp [h]

@[simp] theorem arrayRead_mem (s : State) (a n : Nat) : (arrayRead s a n).2.mem = s.mem := by simp [arrayRead]

/-! ### Translate -/

@[simp] theorem walkReads_mem (s : State) (ws : List Nat) : (walkReads s ws).2.mem = s.mem := by
  unfold walkReads
  generalize false = b
  induction ws generalizing s b with
  | nil => rfl
  | cons w ws ih => rw [List.foldl_cons, ih, memoryRead_mem]

@[simp] theorem treeReads_mem (s : State) (launch : Option Nat) (va : Nat) : (treeReads s launch va).2.mem = s.mem := by simp [treeReads]

theorem findPage_mem {s t : State} {k va : Nat} {launch : Option Nat} {p : Page} (h : findPage s k launch va = some (p, t)) :
    t.mem = s.mem := by
  unfold findPage at h
  split at h
  · cases h; rfl
  · dsimp only at h
    split at h
    · cases h; simp
    · split at h
      · cases h
      · split at h
        · cases h
        · cases h; simp

@[simp] theorem searched_mem (s : State) (k : Nat) (launch : Option Nat) (va : Nat) : (searched s k launch va).mem = s.mem := by
  unfold searched
  split
  · next h => exact findPage_mem h
  · simp

theorem translate_mem {s t : State} {k va pa : Nat} {launch : Option Nat} {n : Need} (h : translate s k launch va n = .inr (pa, t)) :
    t.mem = s.mem := by
  unfold translate at h
  split at h
  · cases h
  · next hp =>
    split at h
    · cases h
    · cases h; exact findPage_mem hp

theorem awaitBeats_keeps {α : Type} {s t : State} {x : Ans α} (h : P s.mem) (hx : x.Keeps P) : (awaitBeats s t x).Keeps P := by
  unfold awaitBeats; split
  · simpa using h
  · exact hx

theorem translateFor_keeps {launch : Option Nat} {va : Word} {n : Need} {s : State} (h : P s.mem) :
    (translateFor launch va n s).Keeps P := by
  unfold translateFor
  split
  · exact awaitBeats_keeps h (by simpa using h)
  · next ht => exact awaitBeats_keeps h (by simpa [translate_mem ht] using h)

theorem translateCur_keeps {va : Word} {n : Need} {s : State} (h : P s.mem) : (translateCur va n s).Keeps P := translateFor_keeps h

/-! ### Fetch -/

@[simp] theorem putLine_mem (s : State) (k : Nat) (b : LineBuf) : (putLine s k b).mem = s.mem := by simp [putLine]

@[simp] theorem receiveLine_mem (k : Nat) (b : LineBuf) (s : State) (i : Nat) : (receiveLine k b s i).mem = s.mem := by
  unfold receiveLine
  split
  · split
    · next ht => split <;> simp [translate_mem ht]
    · rfl
  · rfl

@[simp] theorem receiveAhead_mem (k : Nat) (b : LineBuf) (s : State) : (receiveAhead k b s).mem = s.mem := by simp [receiveAhead]

@[simp] theorem broadcast_mem (s : State) (c : Nat) (b : LineBuf) : (broadcast s c b).mem = s.mem := by simp [broadcast]

@[simp] theorem lineAnswered_mem {s : State} {act : State → State} (c n : Nat) (h : (act s).mem = s.mem) :
    (lineAnswered s c n act).mem = s.mem := by
  unfold lineAnswered; split <;> simp [h]

@[simp] theorem lineArrives_mem (s : State) (c : Nat) (b : LineBuf) : (lineArrives s c b).mem = s.mem := by simp [lineArrives]

@[simp] theorem trapWaiters_mem (s : State) (c pa cause : Nat) : (trapWaiters s c pa cause).mem = s.mem := by simp [trapWaiters]

@[simp] theorem lineFails_mem (s : State) (c pa cause : Nat) : (lineFails s c pa cause).mem = s.mem := by simp [lineFails]

/-! ### Link -/

@[simp] theorem modFab_mem (s : State) (f : Fabric → Fabric) : (modFab s f).mem = s.mem := by simp [modFab]

@[simp] theorem modPort_mem (s : State) (p : Nat) (f : Port → Port) : (modPort s p f).mem = s.mem := by simp [modPort]

@[simp] theorem givePort_mem (s : State) (port : Nat) (p : Packet) : (givePort s port p).mem = s.mem := by simp [givePort]

/-! ### Wire -/

@[simp] theorem recordErrAt_mem (s : State) (k i uid cause : Nat) (addr : Word) : (recordErrAt s k i uid cause addr).mem = s.mem := by
  simp [recordErrAt]

@[simp] theorem answerWb_mem (s : State) (k serial bits v : Nat) (err : Option (Nat × Word)) (poison : Bool) :
    (answerWb s k serial bits v err poison).mem = s.mem := by simp [answerWb]

@[simp] theorem failCopy_mem (s : State) (k : Nat) (m : Message) (cause : Nat) : (failCopy s k m cause).mem = s.mem := by simp [failCopy]

@[simp] theorem answerMsg_mem (s : State) (k serial status cause : Nat) : (answerMsg s k serial status cause).mem = s.mem := by
  unfold answerMsg; split <;> simp

@[simp] theorem failWrite_mem (s : State) (e : WEntry) (cause : Nat) : (failWrite s e cause).mem = s.mem := by simp [failWrite]

@[simp] theorem codeArrives_mem (s : State) (q serial addr : Nat) (data : Option (List Byte)) : (codeArrives s q serial addr data).mem = s.mem := by
  simp [codeArrives]

@[simp] theorem frontArrives_mem (s : State) (q serial : Nat) (w : Option Word) : (frontArrives s q serial w).mem = s.mem := by simp [frontArrives]

@[simp] theorem mboxArrives_mem (s : State) (i : Instr) (addr : Nat) (data : Option (List Byte)) : (mboxArrives s i addr data).mem = s.mem := by
  simp [mboxArrives]

@[simp] theorem failPending_mem (s : State) (p : Pending) : (failPending s p).mem = s.mem := by
  unfold failPending; repeat' split
  all_goals simp

@[simp] theorem modFlow_mem (s : State) (peer cls : Nat) (f : Flow → Flow) : (modFlow s peer cls f).mem = s.mem := by simp [modFlow]

@[simp] theorem outPacket_mem (s : State) (p : Packet) : (outPacket s p).mem = s.mem := by simp [outPacket]

@[simp] theorem emitPacket_mem (s : State) (p : Packet) : (emitPacket s p).mem = s.mem := by simp [emitPacket]

@[simp] theorem injectNow_mem (s : State) (g : Grain) : (injectNow s g).mem = s.mem := by simp [injectNow]

@[simp] theorem sendPacket_mem (s : State) (peer cls kind : Nat) (payload : List Byte) (p : Pending) (mark : Bool) :
    (sendPacket s peer cls kind payload p mark).mem = s.mem := by simp [sendPacket]

@[simp] theorem drainFlow_mem (s : State) (peer cls : Nat) (n : Nat) : (drainFlow s peer cls n).mem = s.mem := by
  induction n generalizing s with
  | zero => rfl
  | succ n ih =>
    unfold drainFlow; repeat' split
    all_goals simp [ih]

@[simp] theorem reply_mem (s : State) (peer : Nat) (seq : BitVec 32) (status cause : Nat) (data : List Byte) :
    (reply s peer seq status cause data).mem = s.mem := by simp [reply]

/-! ### Access -/

theorem readBytes_keeps {a n : Nat} {s : State} {bring : State → Nat → Nat → Bool × State} {va : Word} (h : P s.mem)
    (hb : ∀ s a n, (bring s a n).2.mem = s.mem) : (readBytes a n s bring va).Keeps P := by
  unfold readBytes
  split
  · split
    · exact h
    · simp [h]
  · split
    · exact h
    · exact awaitBeats_keeps h (by simpa [hb] using h)

theorem readClean_keeps {a n : Nat} {va : Word} {s : State} (h : P s.mem) : (readClean a n va s).Keeps P := by
  unfold readClean
  refine .bind (readBytes_keeps h fun _ _ _ => by simp) fun _ _ h => ?_
  split <;> simp [h]

theorem readWin_keeps {w : Word} {off : Int} {n : Nat} {s : State} (h : P s.mem) : (readWin w off n s).Keeps P := readClean_keeps h

theorem readWords_keeps {a : Nat} {va : Word} {n : Nat} {s : State} (h : P s.mem) : (readWords a va n s).Keeps P := by
  induction n generalizing a va s with
  | zero => exact h
  | succ n ih => exact .bind (readClean_keeps h) fun _ _ h => .bind (ih h) fun _ _ h => h

/-! ### Thresher -/

@[simp] theorem applyLayout_mem (s : State) (k : Nat) (new : List (Nat × Tab NameEntry)) : (applyLayout s k new).mem = s.mem := by
  unfold applyLayout; exact foldl_mem (fun _ _ => by simp) s new

@[simp] theorem pause_mem (s : State) (k p : Nat) : (pause s k p).mem = s.mem := by simp [pause]

@[simp] theorem promptPause_mem (s t : State) (k : Nat) : (promptPause s t k).mem = t.mem := by
  unfold promptPause; split <;> simp

theorem placeNames_mem {s t : State} {k slot : Nat} {names : Tab NameEntry} (h : placeNames s k slot names = .inr t) : t.mem = s.mem := by
  unfold placeNames at h
  dsimp only at h
  split at h
  · cases h; rfl
  · split at h <;> cases h
    simp

theorem placeMap_mem {s t : State} {k slot : Nat} {img : Image} (h : placeMap s k slot img = .inr t) : t.mem = s.mem := by
  unfold placeMap at h
  split at h
  · cases h
  · next hn =>
    split at h
    · cases h; simp [placeNames_mem hn]
    · split at h <;> cases h
      simp [placeNames_mem hn]

/-! ### MapClass -/

theorem awaitNames_keeps {s : State} (h : P s.mem) : (awaitNames s).Keeps P := by
  unfold awaitNames
  split <;> simp [h]

theorem awaitName_keeps {n : Name} {s : State} (h : P s.mem) : (awaitName n s).Keeps P := by
  unfold awaitName
  split <;> simp [h]

@[simp] theorem namesFreed_mem (s : State) (k : Nat) : (namesFreed s k).mem = s.mem := by simp [namesFreed]

@[simp] theorem endOwnership_mem (s : State) (k i : Nat) : (endOwnership s k i).mem = s.mem := by simp [endOwnership]

theorem readParcels_keeps {w : Word} {off : Int} {n : Nat} {s : State} (h : P s.mem) : (readParcels w off n s).Keeps P := by
  induction n generalizing off s with
  | zero => exact h
  | succ n ih => exact .bind (readWin_keeps h) fun _ _ h => .bind (ih h) fun _ _ h => h

theorem mapldBody_keeps {b c : Name} {disp : BitVec 16} {s : State} (h : P s.mem) : (mapldBody b c disp s).Keeps P := by
  unfold mapldBody
  refine .bind (readWindow_keeps h) fun _ _ h => ?_
  refine .bind (readName_keeps h) fun _ _ h => ?_
  refine .bind (readParcels_keeps h) fun _ _ h => ?_
  refine .readThen (readParcels_keeps h) fun _ _ h => ?_
  split
  · trivial
  · refine .bind (awaitNames_keeps h) fun _ _ h => ?_
    split
    · trivial
    · next ht => simp [h, placeMap_mem ht]

@[simp] theorem releaseMap_mem (s : State) : (releaseMap s).mem = s.mem := by simp [releaseMap]

theorem execMaprel_answers {s : State} (h : P s.mem) : Answers P (execMaprel s) :=
  run_answers h (.bind (awaitNames_keeps h) fun _ _ h => by simp [h])

theorem mapName_keeps {n : Name} {s : State} (h : P s.mem) : (mapName n s).Keeps P := by
  unfold mapName
  repeat' split
  all_goals simp [h]

theorem widen_keeps {n : Name} {e : NameEntry} {w' : Nat} {s : State} (h : P s.mem) : (widen n e w' s).Keeps P := by
  unfold widen
  dsimp only
  repeat' split
  all_goals simp [h]

theorem narrow_keeps {n : Name} {e : NameEntry} {w' : Nat} {s : State} (h : P s.mem) : (narrow n e w' s).Keeps P := by
  unfold narrow
  split <;> simp [h]

theorem execResize_answers {b : Name} {width : BitVec 7} {s : State} (h : P s.mem) : Answers P (execResize b width s) := by
  unfold execResize
  refine run_answers h ?_
  refine .bind (mapName_keeps h) fun _ _ h => ?_
  refine .bind (awaitName_keeps h) fun _ _ h => ?_
  refine .bind (mapName_keeps h) fun _ _ h => ?_
  split
  · exact narrow_keeps h
  · split
    · exact widen_keeps h
    · exact h

theorem resizeArray_keeps {first n' : Nat} {ty : Nat} {s : State} (h : P s.mem) : (resizeArray first n' ty s).Keeps P := by
  unfold resizeArray
  dsimp only
  repeat' split
  all_goals simp [h]

theorem execResizev_answers {v : BitVec 6} {count : BitVec 7} {s : State} (h : P s.mem) : Answers P (execResizev v count s) := by
  unfold execResizev
  refine run_answers h ?_
  split
  · trivial
  · split
    · trivial
    · exact .bind (awaitNames_keeps h) fun _ _ h => resizeArray_keeps h

theorem execSetmode_answers {b : Name} {sgn : BitVec 1} {mode : BitVec 2} {s : State} (h : P s.mem) : Answers P (execSetmode b sgn mode s) :=
  run_answers h (.bind (mapName_keeps h) fun _ _ h => .bind (awaitName_keeps h) fun _ _ h => .bind (mapName_keeps h) fun _ _ h => by simp [h])

theorem query_keeps {f : NameEntry → Nat} {g : Nat → Nat} {b c : Name} {s : State} (h : P s.mem) : (query f g b c s).Keeps P := by
  unfold query
  split
  · exact writeName_keeps h
  · split
    · trivial
    · exact writeName_keeps h

/-! ### Homes -/

theorem emitWrite_keeps {o : WOp} {va : Word} {rel held : Bool} {s : State} (h : P s.mem) : (emitWrite o va rel held s).Keeps P := by
  unfold emitWrite
  dsimp only
  repeat' split
  all_goals simp [h]

@[simp] theorem emitOutside_mem (s : State) (o : WOp) (peer : Option (Nat × BitVec 32)) : (emitOutside s o peer).mem = s.mem := by simp [emitOutside]

theorem awaitDrained_keeps {scope : Nat} {s : State} (h : P s.mem) : (awaitDrained scope s).Keeps P := by
  unfold awaitDrained
  dsimp only
  split <;> simp [h]

theorem awaitLoads_keeps {s : State} (h : P s.mem) : (awaitLoads s).Keeps P := by
  unfold awaitLoads
  split <;> simp [h]

@[simp] theorem clearSector_mem (s : State) (sec : Nat) : (clearSector s sec).mem = s.mem := by simp [clearSector]

@[simp] theorem refuseSector_mem (s : State) (e : WEntry) (sec : Nat) : (refuseSector s e sec).mem = s.mem := by
  unfold refuseSector; split <;> simp

@[simp] theorem answerAtomic_mem (s : State) (e : WEntry) (a : AtomicReq) (old : Nat) : (answerAtomic s e a old).mem = s.mem := by
  unfold answerAtomic; split <;> simp

theorem atomicAt_canonical {s : State} (h : Canonical s) (e : WEntry) (a : AtomicReq) : Canonical (atomicAt s e a) := by
  unfold atomicAt
  have hs : ∀ o, Canonical (match o with | some v => performStore s (storeBytes a.addr a.bytes v) false | none => s) := fun o => by
    cases o with
    | none => exact h
    | some v => exact performStore_canonical h _ _
  exact (hs _).of_mem (answerAtomic_mem ..)

theorem replayParked_canonical {s : State} (h : Canonical s) : Canonical (replayParked s) := by
  unfold replayParked
  refine foldl_canonical (fun t p h => ?_) ?_ _
  case refine_2 => exact h
  dsimp only
  split
  · split
    · exact h
    · split
      · exact h.of_mem (transfers_mem ..)
      · exact atomicAt_canonical (h.of_mem (transfers_mem ..)) _ _
  · exact h

@[simp] theorem tellSupervisor_mem (s : State) (c : Nat) (sender : Agent) (words : List Word) (strand : Option (Nat × Nat × Nat)) :
    (tellSupervisor s c sender words strand).mem = s.mem := by simp [tellSupervisor]

theorem atomicArrives_canonical {s : State} (h : Canonical s) (e : WEntry) (a : AtomicReq) : Canonical (atomicArrives s e a).1 := by
  unfold atomicArrives
  dsimp only
  generalize hs : scrubWord _ _ = s1
  have h1 : Canonical s1 := hs ▸ h.of_mem (by simp)
  split
  · split
    · exact h1.of_mem (by simp)
    · exact h1
  · exact atomicAt_canonical h1 e a

theorem feAct_canonical {s : State} (h : Canonical s) (op : FeOp) (addr : Nat) (val : Word) : Canonical (feAct s op addr val).1 := by
  have h1 : Canonical (scrubWord s addr) := h.of_mem (by simp)
  have h2 : Canonical (performStore s (storeBytes addr 8 val.toNat) false) := performStore_canonical h _ _
  unfold feAct
  dsimp only
  split
  · exact h1
  · cases op
    case festate => exact h
    case stfe | stff | fefull => exact h2
    all_goals exact h1

theorem feTake_canonical {s : State} (h : Canonical s) (op : FeOp) (addr k i : Nat) : Canonical (feTake s op addr k i).1 := by
  have h1 : Canonical (feAct s op addr 0#64).1 := feAct_canonical h ..
  unfold feTake; dsimp only; split <;> exact h1

theorem feServe_canonical {s : State} (h : Canonical s) (w : FeWait) : Canonical (feServe s w) := by
  have h1 : Canonical (if w.op.writes then feAct s w.op w.addr w.val else feTake s w.op w.addr w.core w.slot).1 := by
    split
    · exact feAct_canonical h ..
    · exact feTake_canonical h ..
  unfold feServe
  generalize (if w.op.writes then feAct s w.op w.addr w.val else feTake s w.op w.addr w.core w.slot) = x at h1
  dsimp only
  split
  · exact h1.of_mem (by simp)
  · exact h1.of_mem (by simp)
  · exact h1

theorem feWake_canonical (n : Nat) {s : State} (h : Canonical s) (addr : Nat) : Canonical (feWake n s addr) := by
  induction n generalizing s with
  | zero => exact h
  | succ n ih =>
    unfold feWake
    dsimp only
    split
    · exact h
    · split
      · exact h
      · split
        · exact ih (feServe_canonical (h.of_mem (by simp)) _)
        · exact h

theorem feChanged_canonical {s t : State} (h : Canonical t) (addr : Nat) : Canonical (feChanged s t addr) := by
  unfold feChanged; split
  · exact h
  · exact feWake_canonical _ h _

theorem feArrives_canonical {s : State} (h : Canonical s) (w : FeWait) : Canonical (feArrives s w).1 := by
  unfold feArrives; split
  · exact feChanged_canonical (feServe_canonical h w) _
  · split
    · exact h.of_mem (by simp)
    · exact h

@[simp] theorem flushRun_mem (s : State) (r : SectorRun) : (flushRun s r).mem = s.mem := by simp [flushRun]

theorem writeSector_canonical {s : State} (h : Canonical s) (r : SectorRun) : Canonical (writeSector s r) := by
  unfold writeSector
  refine replayParked_canonical (foldl_canonical (fun _ p h => performStore_canonical h p.1 p.2) ?_ _)
  exact h

@[simp] theorem endRuns_mem (s : State) (e : WEntry) (bs : List MByte) : (endRuns s e bs).mem = s.mem := by simp [endRuns]

theorem gatherWrite_canonical {s : State} (h : Canonical s) (e : WEntry) (bs : List MByte) (poison : Bool) (sec : Nat) :
    Canonical (gatherWrite s e bs poison sec) := by
  unfold gatherWrite
  dsimp only
  split
  · split
    · split
      · exact writeSector_canonical h _
      · exact h
    · exact h.of_mem (by simp)
  · split
    · exact h
    · exact h.of_mem (by simp)

@[simp] theorem readSectors_mem (s : State) (bs : List MByte) : (readSectors s bs).mem = s.mem := by simp [readSectors]

theorem storeArrives_canonical {s : State} (h : Canonical s) (e : WEntry) (bs : List MByte) (poison : Bool) :
    Canonical (storeArrives s e bs poison) := by
  have hr : Canonical (readSectors (endRuns s e bs) bs) := h.of_mem (by simp)
  have answered : ∀ {t : State}, Canonical t → Canonical (replayParked (match e.peer with | some (d, q) => reply t d q 0 0 [] | none => t)) :=
    fun ht => replayParked_canonical <| by
      split
      · exact ht.of_mem (reply_mem ..)
      · exact ht
  unfold storeArrives
  dsimp only
  split
  · exact answered (performStore_canonical hr _ _)
  · split
    · exact gatherWrite_canonical hr ..
    · split
      · exact answered (performStore_canonical (hr.of_mem (by simp)) _ _)
      · refine (performStore_canonical hr (bs.filter fun b => !(sectorFails (readSectors (endRuns s e bs) bs) b.addr)) poison).of_mem ?_
        simp

@[simp] theorem sendStore_mem (n : Nat) (s : State) (e : WEntry) (bs : List MByte) (poison : Bool) : (sendStore n s e bs poison).mem = s.mem := by
  induction n generalizing s bs with
  | zero => rfl
  | succ n ih =>
    cases bs with
    | nil => rfl
    | cons b bs => simp [sendStore, ih]

@[simp] theorem hostReads_mem (s : State) (a n : Nat) : (hostReads s a n).mem = s.mem := by simp [hostReads]

@[simp] theorem hostTake_mem (s : State) (q : List WEntry) (a n : Nat) : (hostTake s q a n).mem = s.mem := by simp [hostTake]

theorem performAt_canonical {s : State} (h : Canonical s) (q idx : Nat) : Canonical (performAt s q idx) := by
  unfold performAt
  split
  · exact h
  · next e _ =>
    have h1 : Canonical (modQuad s q fun x => { x with wq := dropAt x.wq idx }) := h.of_mem (modQuad_mem ..)
    dsimp only
    split
    · split
      · exact h1.of_mem (by simp)
      · exact storeArrives_canonical h1 ..
    · split
      · next ht => exact (feArrives_canonical h1 _).of_fst ht
      · exact h.of_mem (by simp)
    · next a _ =>
      split
      · exact h1.of_mem (by simp)
      · have ha := atomicArrives_canonical h1 e a
        split
        · next ht => exact ha.of_fst ht
        · next ht => exact (ha.of_fst ht).of_mem (by simp)
    · split
      · exact h1.of_mem (by simp)
      · split <;> exact h1.of_mem (by simp)

theorem performIf_canonical {s : State} (h : Canonical s) (want : WOp → Bool) (q idx : Nat) : Canonical (performIf want q idx s) := by
  unfold performIf; split
  · exact h
  · split
    · exact unlessHeld_canonical h (performAt_canonical h q idx)
    · exact h

theorem execStorePerformed_answers {quad idx : Nat} {s : State} (h : CanonicalMem s.mem) : Answers CanonicalMem (execStorePerformed quad idx s) := by
  unfold execStorePerformed
  dsimp only
  split
  · exact performIf_canonical h _ _ _
  · split
    · split <;> simp [h]
    · split
      · exact feWake_canonical _ h _
      · exact h

theorem execFeopRetry_answers {core slot : Nat} {s : State} (h : CanonicalMem s.mem) : Answers CanonicalMem (execFeopRetry core slot s) := by
  unfold execFeopRetry
  dsimp only
  split
  · exact h
  · split
    · exact h
    · split
      · next ht => exact (feArrives_canonical (Canonical.of_mem h (by simp)) _).of_fst ht
      · simp [h]

/-! ### Lanes -/

@[simp] theorem holdBeat_mem (s : State) (k i block : Nat) (poison : Bool) : (holdBeat s k i block poison).mem = s.mem := by simp [holdBeat]

@[simp] theorem deliverBeat_mem (s : State) (c : Nat) (b : Beat) (poison : Bool) : (deliverBeat s c b poison).mem = s.mem := by
  unfold deliverBeat; repeat' split
  all_goals simp

@[simp] theorem setBeat_mem (s : State) (c : Nat) (b : Beat) (new : Option Beat) : (setBeat s c b new).mem = s.mem := by simp [setBeat]

theorem execVbusRetryAttempt_answers {cluster channel : Nat} {s : State} (h : P s.mem) : Answers P (execVbusRetryAttempt cluster channel s) := by
  unfold execVbusRetryAttempt
  split
  · exact h
  · split
    · next ht => simp [h, mem_of_fst ht]
    · next ht => simp [h, mem_of_fst ht]
    · next ht => simp [h, mem_of_fst ht]

theorem execLaneSwap_answers {cluster channel lane : Nat} {s : State} (h : P s.mem) : Answers P (execLaneSwap cluster channel lane s) := by
  unfold execLaneSwap
  dsimp only
  split <;> simp [h]

@[simp] theorem firstBeat_mem (s : State) (pa bits v : Nat) (poison : Bool) (va : Word) (wb : Nat) :
    (firstBeat s pa bits v poison va wb).1.mem = s.mem := by
  unfold firstBeat
  dsimp only
  split
  · split
    · rfl
    · split
      · next ht => simp [mem_of_fst ht]
      · next ht => simp [mem_of_fst ht]
  · rfl

/-! ### Memory -/

theorem loadTo_keeps {a : Name} {bits v : Nat} {bad : Bool} {addr : Word} {s : State} (h : P s.mem) : (loadTo a bits v bad addr s).Keeps P := by
  unfold loadTo
  dsimp only
  refine .bind (deferWrite_keeps h) fun _ _ h => ?_
  split <;> simp [h]

theorem ldqBody_keeps {a b c : Name} {size : BitVec 2} {disp : BitVec 14} {s : State} (h : P s.mem) : (ldqBody a b c size disp s).Keeps P := by
  unfold ldqBody
  refine .bind (readWindow_keeps h) fun _ _ h => ?_
  refine .bind (readName_keeps h) fun _ _ h => ?_
  split
  · exact loadTo_keeps h
  · exact .bind (readBytes_keeps h fun _ _ _ => by simp) fun _ _ h => loadTo_keeps h

theorem readBits_keeps {w : Word} {β n : Nat} {s : State} (h : P s.mem) : (readBits w β n s).Keeps P := by
  unfold readBits
  refine .bind (readBytes_keeps h fun _ _ _ => by simp) fun _ _ h => ?_
  split
  · exact h
  · exact .bind (readBytes_keeps h fun _ _ _ => by simp) fun _ _ h => h

theorem execLdb_answers {a b c : Name} {disp : BitVec 10} {bits : BitVec 6} {s : State} (h : P s.mem) : Answers P (execLdb a b c disp bits s) :=
  run_answers h (.bind (readWindow_keeps h) fun _ _ h => .bind (readName_keeps h) fun _ _ h => .bind (readBits_keeps h) fun _ _ h => loadTo_keeps h)

theorem commandStore_keeps {w : Word} {off : Int} {size : BitVec 2} {x : Int} {s : State} (h : P s.mem) : (commandStore w off size x s).Keeps P := by
  unfold commandStore
  dsimp only
  repeat' split
  all_goals simp [h]

theorem execStq_answers {a b c : Name} {size : BitVec 2} {disp : BitVec 14} {s : State} (h : P s.mem) : Answers P (execStq a b c size disp s) := by
  unfold execStq
  refine run_answers h ?_
  refine .seq (raisePoint_keeps h) fun _ h => ?_
  refine .bind (readName_keeps h) fun _ _ h => ?_
  refine .bind (readWindow_keeps h) fun _ _ h => ?_
  refine .bind (readName_keeps h) fun _ _ h => ?_
  split
  · exact commandStore_keeps h
  · exact emitWrite_keeps h

theorem execStb_answers {a b c : Name} {disp : BitVec 10} {bits : BitVec 6} {s : State} (h : P s.mem) : Answers P (execStb a b c disp bits s) :=
  run_answers h (.seq (raisePoint_keeps h) fun _ h => .bind (readName_keeps h) fun _ _ h => .bind (readWindow_keeps h) fun _ _ h =>
      .bind (readName_keeps h) fun _ _ h => emitWrite_keeps h)

theorem peerLoad_keeps {a : Name} {p n : Nat} {acq : Option Nat} {va : Word} {s : State} (h : P s.mem) : (peerLoad a p n acq va s).Keeps P := by
  unfold peerLoad
  split
  · exact h
  · exact .bind (deferWrite_keeps h) fun _ _ h => by simp [h]

theorem globalLoad_keeps {a : Name} {p n : Nat} {va : Word} {s : State} (h : P s.mem) : (globalLoad a p n va s).Keeps P := by
  unfold globalLoad
  refine .bind (readBytes_keeps h fun _ _ _ => by simp) fun _ _ h => ?_
  refine .bind (deferWrite_keeps h) fun _ _ h => ?_
  split
  · next ht => simp [h, mem_of_fst ht]
  · next ht => simp [h, mem_of_fst ht]

theorem afterLoad_keeps {s : State} (h : P s.mem) : (afterLoad s).Keeps P := by
  unfold afterLoad
  split <;> simp [h]

theorem loadAt_keeps {a : Name} {va : Word} {n : Nat} {acq : Option Nat} {s : State} (h : P s.mem) : (loadAt a va n acq s).Keeps P := by
  unfold loadAt
  split
  · trivial
  · refine .bind (translateCur_keeps h) fun _ _ h => ?_
    refine .seq ?_ fun _ h => ?_
    · split
      · exact peerLoad_keeps h
      · exact globalLoad_keeps h
    · exact afterLoad_keeps h

theorem storeAt_keeps {x : Int} {mark : Bool} {va : Word} {n : Nat} {rel : Bool} {s : State} (h : P s.mem) : (storeAt x mark va n rel s).Keeps P := by
  unfold storeAt
  split
  · trivial
  · exact .bind (translateCur_keeps h) fun _ _ h => emitWrite_keeps h

theorem execLdg_answers {a b c : Name} {size : BitVec 2} {disp : BitVec 14} {s : State} (h : P s.mem) : Answers P (execLdg a b c size disp s) :=
  run_answers h (.bind (readName_keeps h) fun _ _ h => .bind (readName_keeps h) fun _ _ h => loadAt_keeps h)

theorem execStg_answers {a b c : Name} {size : BitVec 2} {disp : BitVec 14} {s : State} (h : P s.mem) : Answers P (execStg a b c size disp s) :=
  run_answers h (.seq (raisePoint_keeps h) fun _ h => .bind (readName_keeps h) fun _ _ h => .bind (readName_keeps h) fun _ _ h =>
      .bind (readName_keeps h) fun _ _ h => storeAt_keeps h)

theorem feRead_keeps {op : FeOp} {a b c : Name} {d : BitVec 8} {s : State} (h : CanonicalMem s.mem) :
    (feRead op a b c d s).Keeps CanonicalMem := by
  unfold feRead
  refine .bind (readWindow_keeps h) fun _ _ h => .bind (readName_keeps h) fun _ _ h => ?_
  dsimp only
  split
  · exact h
  · split
    · exact loadTo_keeps (feChanged_canonical (feTake_canonical h _ _ _ _) _)
    · refine .bind (deferWrite_keeps h) fun _ _ h => ?_
      split
      · next ht => exact (feArrives_canonical h _).of_fst ht
      · simp [h]

theorem feWrite_keeps {op : FeOp} {a b c : Name} {d : BitVec 8} {s : State} (h : P s.mem) : (feWrite op a b c d s).Keeps P :=
  .seq (raisePoint_keeps h) fun _ h => .bind (readName_keeps h) fun _ _ h => .bind (readWindow_keeps h) fun _ _ h => .bind (readName_keeps h)
      fun _ _ h => emitWrite_keeps h

theorem execWin_answers {a b c : Name} {kind : BitVec 2} {size : BitVec 5} {s : State} (h : P s.mem) : Answers P (execWin a b c kind size s) :=
  run_answers h (.bind (readName_keeps h) fun _ _ h => .bind (readName_keeps h) fun _ _ h => writeName_keeps h)

/-! ### Ordering -/

theorem execLdacq_answers {a b : Name} {size : BitVec 2} {scope : BitVec 3} {disp : BitVec 11} {s : State}
    (h : P s.mem) : Answers P (execLdacq a b size scope disp s) :=
  run_answers h (.bind (readName_keeps h) fun _ _ h => loadAt_keeps h)

theorem execStrel_answers {a b : Name} {size : BitVec 2} {scope : BitVec 3} {disp : BitVec 11} {s : State}
    (h : P s.mem) : Answers P (execStrel a b size scope disp s) :=
  run_answers h (.seq (raisePoint_keeps h) fun _ h => .bind (readName_keeps h) fun _ _ h => .bind (readName_keeps h) fun _ _ h => storeAt_keeps h)

theorem sendAtomic_keeps {ret : Option Name} {va : Word} {r : AtomicReq} {order : BitVec 2} {scope : BitVec 3} {s : State}
    (h : P s.mem) : (sendAtomic ret va r order scope s).Keeps P := by
  unfold sendAtomic
  split
  · trivial
  · refine .bind (translateCur_keeps h) fun _ _ h => ?_
    split
    · exact .bind (deferWrite_keeps h) fun _ _ h => emitWrite_keeps h
    · exact emitWrite_keeps h

theorem execAmo_answers {a b c : Name} {op : BitVec 4} {size order : BitVec 2} {scope : BitVec 3} {s : State}
    (h : P s.mem) : Answers P (execAmo a b c op size order scope s) :=
  run_answers h (.seq (raisePoint_keeps h) fun _ h => .seq (require_keeps h) fun _ h => .bind (signedOfName_keeps h) fun _ _ h =>
      .bind (readName_keeps h) fun _ _ h => .bind (readName_keeps h) fun _ _ h => sendAtomic_keeps h)

theorem execCas_answers {a b c d : Name} {size order : BitVec 2} {scope : BitVec 3} {s : State}
    (h : P s.mem) : Answers P (execCas a b c d size order scope s) :=
  run_answers h (.seq (raisePoint_keeps h) fun _ h => .seq (require_keeps h) fun _ h => .bind (readName_keeps h) fun _ _ h =>
      .bind (readName_keeps h) fun _ _ h => .bind (readName_keeps h) fun _ _ h => sendAtomic_keeps h)

theorem execRed_answers {a b : Name} {op : BitVec 4} {size order : BitVec 2} {scope : BitVec 3} {s : State}
    (h : P s.mem) : Answers P (execRed a b op size order scope s) :=
  run_answers h (.seq (raisePoint_keeps h) fun _ h => .bind (signedOfName_keeps h) fun _ _ h => .bind (readName_keeps h) fun _ _ h =>
      .bind (readName_keeps h) fun _ _ h => sendAtomic_keeps h)

theorem execFence_answers {kind scope : BitVec 3} {s : State} (h : P s.mem) : Answers P (execFence kind scope s) := by
  unfold execFence
  refine run_answers h ?_
  refine .seq (awaitLoads_keeps h) fun _ h => ?_
  split
  · exact h
  · split
    · exact awaitDrained_keeps h
    · exact awaitDrained_keeps h

theorem execErrfence_answers {s : State} (h : P s.mem) : Answers P (execErrfence s) := by
  unfold execErrfence
  refine run_answers h ?_
  refine .seq (awaitLoads_keeps h) fun _ h => ?_
  split
  · exact h
  · exact raisePoint_keeps h

@[simp] theorem modBarrier_mem (s : State) (c p : Nat) (f : Barrier → Barrier) : (modBarrier s c p f).mem = s.mem := by simp [modBarrier]

@[simp] theorem endGeneration_mem (s : State) (c p : Nat) : (endGeneration s c p).mem = s.mem := by
  unfold endGeneration
  dsimp only
  rw [foldl_mem fun _ _ => by simp]
  simp

theorem waitBar_keeps {p : Nat} {g : BitVec 32} {s : State} (h : P s.mem) : (waitBar p g s).Keeps P := by simp [waitBar, h]

theorem arrive_keeps {nowait : Bool} {c p : Nat} {s : State} (h : P s.mem) : (arrive nowait c p s).Keeps P := by
  unfold arrive
  dsimp only
  split
  · simp [h]
  · split
    · simp [h]
    · exact waitBar_keeps (by simp [h])

theorem rejoin_keeps {c id : Nat} {s : State} (h : P s.mem) : (rejoin c id s).Keeps P := by
  unfold rejoin
  dsimp only
  split
  · simp [h]
  · split
    · simp [h]
    · split
      · simp [h]
      · exact waitBar_keeps (by simp [h])

theorem barAgain_keeps {c id : Nat} {w : BarWait} {s : State} (h : P s.mem) : (barAgain c id w s).Keeps P := by
  unfold barAgain
  repeat' split
  all_goals simp [h]

theorem barBody_keeps {nowait : Bool} {id : Nat} {s : State} (h : P s.mem) : (barBody nowait id s).Keeps P := by
  unfold barBody
  dsimp only
  split
  · trivial
  · split
    · trivial
    · refine .seq (awaitDrained_keeps h) fun _ h => ?_
      split
      · exact rejoin_keeps h
      · split
        · exact barAgain_keeps h
        · exact arrive_keeps h

/-! ### Pacing -/

@[simp] theorem sendHardware_mem (s : State) (target sender : Agent) (words : List Word) : (sendHardware s target sender words).mem = s.mem := by
  simp [sendHardware]

@[simp] theorem announceTo_mem (s : State) (me dst : Agent) (count : BitVec 32) (restart ended : Bool) :
    (announceTo s me dst count restart ended).mem = s.mem := by simp [announceTo]

@[simp] theorem announce_mem (s : State) (c l : Nat) (restart : Bool) : (announce s c l restart).mem = s.mem := by simp [announce]

@[simp] theorem getsGive_mem (s : State) (g : GetsReq) (a : Nat) : (getsGive s g a).mem = s.mem := by
  unfold getsGive; split <;> simp

@[simp] theorem getsFail_mem (s : State) (g : GetsReq) (cause : Nat) (val : Word) : (getsFail s g cause val).mem = s.mem := by
  unfold getsFail; split <;> simp

@[simp] theorem getsArrive_mem (s : State) (g : GetsReq) : (getsArrive s g).mem = s.mem := by
  unfold getsArrive; repeat' split
  all_goals simp

@[simp] theorem getsAgain_mem (s : State) (q : Nat) : (getsAgain s q).mem = s.mem := by simp [getsAgain]

theorem execStepFinish_answers {core : Nat} {s : State} (h : P s.mem) : Answers P (execStepFinish core s) := by
  unfold execStepFinish
  dsimp only
  split <;> simp [h]

@[simp] theorem releaseStep_mem (s : State) (k : Nat) : (releaseStep s k).mem = s.mem := by simp [releaseStep]

theorem execStepBegin_answers {core : Nat} {s : State} (h : P s.mem) : Answers P (execStepBegin core s) := by
  unfold execStepBegin
  dsimp only
  split <;> simp [h]

theorem stepBody_keeps {s : State} (h : P s.mem) : (stepBody s).Keeps P := by
  unfold stepBody
  dsimp only
  split
  · trivial
  · refine .seq (raisePoint_keeps h) fun _ h => ?_
    repeat' split
    all_goals simp [h]

theorem configure_keeps {bad : Option (Nat × Word)} {f : Logical → Logical} {s : State} (h : P s.mem) : (configure bad f s).Keeps P := by
  unfold configure
  dsimp only
  repeat' split
  all_goals simp [h]

@[simp] theorem requestCount_mem (s : State) (t : Agent) : (requestCount s t).mem = s.mem := by simp [requestCount]

theorem depsetBody_keeps {b : Name} {subs : Bool} {idx : Nat} {s : State} (h : P s.mem) : (depsetBody b subs idx s).Keeps P := by
  unfold depsetBody
  split
  · trivial
  · exact .bind (readName_keeps h) fun _ _ h => .seq (configure_keeps h) fun _ h => by simp [h]

theorem execSkewset_answers {limit : BitVec 16} {s : State} (h : P s.mem) : Answers P (execSkewset limit s) := by
  unfold execSkewset
  refine run_answers h ?_
  split
  · trivial
  · exact configure_keeps h

theorem execRingset_answers {b : Name} {ring depth : BitVec 4} {s : State} (h : P s.mem) : Answers P (execRingset b ring depth s) := by
  unfold execRingset
  refine run_answers h ?_
  split
  · trivial
  · exact .bind (readName_keeps h) fun _ _ h => configure_keeps h

@[simp] theorem joinPaced_mem (s : State) (c l slot : Nat) : (joinPaced s c l slot).mem = s.mem := by simp [joinPaced]

@[simp] theorem leavePaced_mem (s : State) (c l slot : Nat) : (leavePaced s c l slot).mem = s.mem := by simp [leavePaced]

theorem execPace_answers {s : State} (h : P s.mem) : Answers P (execPace s) := by
  unfold execPace
  refine run_answers h ?_
  split <;> simp [h]

theorem execUnpace_answers {s : State} (h : P s.mem) : Answers P (execUnpace s) := by
  unfold execUnpace
  refine run_answers h ?_
  split <;> simp [h]

theorem execPuts_answers {a : Name} {ring : BitVec 2} {off : BitVec 12} {s : State} (h : P s.mem) : Answers P (execPuts a ring off s) := by
  unfold execPuts
  dsimp only
  refine run_answers h ?_
  split
  · trivial
  · refine .seq (raisePoint_keeps h) fun _ h => ?_
    split
    · trivial
    · exact .bind (readName_keeps h) fun _ _ h => emitWrite_keeps h

@[simp] theorem getsOut_mem (s : State) (g : GetsReq) : (getsOut s g).mem = s.mem := by simp [getsOut]

theorem getsBody_keeps {a b c : Name} {ring : BitVec 2} {off : BitVec 12} {s : State} (h : P s.mem) : (getsBody a b c ring off s).Keeps P := by
  unfold getsBody
  dsimp only
  split
  · trivial
  · refine .bind (readName_keeps h) fun _ _ h => ?_
    refine .bind (readName_keeps h) fun _ _ h => ?_
    split
    · trivial
    · split
      · trivial
      · exact .bind (deferWrite_keeps h) fun _ _ h => by simp [h]

@[simp] theorem getsResend_mem (s : State) (g : GetsReq) : (getsResend s g).mem = s.mem := by simp [getsResend]

theorem execGetsRetry_answers {g : GetsReq} {s : State} (h : P s.mem) : Answers P (execGetsRetry g s) := by
  unfold execGetsRetry
  split <;> simp [h]

theorem execAnnounceArrival_answers {dst producer : Agent} {count : BitVec 32} {restart ended : Bool} {s : State}
    (h : P s.mem) : Answers P (execAnnounceArrival dst producer count restart ended s) := by
  unfold execAnnounceArrival
  split <;> simp [h]

theorem execCountRequest_answers {dst subscriber : Agent} {s : State} (h : P s.mem) : Answers P (execCountRequest dst subscriber s) := by
  unfold execCountRequest
  split <;> simp [h]

/-! ### Husk -/

@[simp] theorem freeSlotOf_mem (s : State) (k i : Nat) : (freeSlotOf s k i).mem = s.mem := by simp [freeSlotOf]

@[simp] theorem leaveBarrier_mem (s : State) (k i : Nat) : (leaveBarrier s k i).mem = s.mem := by
  unfold leaveBarrier; split <;> simp

@[simp] theorem takeHusk_mem (s : State) (k i : Nat) (pc : Word) (wait : Nat) (spill : Word) : (takeHusk s k i pc wait spill).1.mem = s.mem := by
  unfold takeHusk; dsimp only; split <;> simp

@[simp] theorem sendBytes_mem (n : Nat) (s : State) (pa : Nat) (bs : List Byte) : (sendBytes n s pa bs).mem = s.mem := by
  induction n generalizing s pa bs with
  | zero => rfl
  | succ n ih => unfold sendBytes; split <;> simp [ih]

theorem writePhys_canonical {s : State} (h : Canonical s) (pa : Nat) (bs : List Byte) : Canonical (writePhys s pa bs) := by
  unfold writePhys
  dsimp only
  split
  · exact h.of_mem (by simp)
  · split
    · exact h.of_mem (by simp)
    · exact performStore_canonical h _ _

@[simp] theorem queuePhys_mem (s : State) (k i uid pa : Nat) (bs : List Byte) (rel : Bool) : (queuePhys s k i uid pa bs rel).mem = s.mem := by
  simp [queuePhys]

@[simp] theorem writeHusk_mem (s : State) (k i uid ra spill : Nat) (words : List Word) (bytes : List Byte) :
    (writeHusk s k i uid ra spill words bytes).mem = s.mem := by simp [writeHusk]

@[simp] theorem huskFor_mem (s : State) (k i : Nat) (pc : Word) (wait : Nat) : (huskFor s k i pc wait).mem = s.mem := by
  unfold huskFor; dsimp only; repeat' split
  all_goals simp

theorem translateBlocks_keeps {va : Word} {n : Nat} {need : Need} {s : State} (h : P s.mem) : (translateBlocks va n need s).Keeps P := by
  induction n generalizing va s with
  | zero => exact h
  | succ n ih => exact .bind (translateCur_keeps h) fun _ _ h => .bind (ih h) fun _ _ h => h

theorem emitRuns_keeps {l : List (Nat × List Byte)} {va : Word} {rel : Bool} {s : State} (h : P s.mem) : (emitRuns l va rel s).Keeps P := by
  induction l generalizing s with
  | nil => exact h
  | cons _ _ ih => exact .seq (emitWrite_keeps h) fun _ h => ih h

theorem huskPlace_keeps {global : Bool} {b c : Name} {disp : BitVec 16} {need : Need} {s : State}
    (h : P s.mem) : (huskPlace global b c disp need s).Keeps P := by
  unfold huskPlace
  split
  · refine .bind (readName_keeps h) fun _ _ h => ?_
    refine .bind (readName_keeps h) fun _ _ h => ?_
    split
    · exact h
    · exact .bind (translateCur_keeps h) fun _ _ h => h
  · exact .bind (readWindow_keeps h) fun _ _ h => .bind (readName_keeps h) fun _ _ h => h

theorem huskSave_keeps {global : Bool} {b c : Name} {disp : BitVec 16} {s : State} (h : P s.mem) : (huskSave global b c disp s).Keeps P := by
  unfold huskSave
  split
  · trivial
  · refine .seq (raisePoint_keeps h) fun _ h => ?_
    refine .seq (awaitNames_keeps h) fun _ h => ?_
    refine .bind (huskPlace_keeps h) fun _ _ h => ?_
    refine .readThen (readClean_keeps h) fun _ _ h => ?_
    split
    · trivial
    · exact .bind (translateBlocks_keeps h) fun _ _ h => .seq (emitRuns_keeps h) fun _ h => emitRuns_keeps h

theorem spillRead_keeps {sp : SpillAt} {off n : Nat} {s : State} (h : P s.mem) : (spillRead sp off n s).Keeps P := by
  unfold spillRead
  split
  · exact readClean_keeps h
  · exact .bind (translateFor_keeps h) fun _ _ h => readClean_keeps h

theorem spillReads_keeps {sp : SpillAt} {off size n : Nat} {s : State} (h : P s.mem) : (spillReads sp off size n s).Keeps P := by
  induction n generalizing off s with
  | zero => exact h
  | succ n ih => exact .bind (spillRead_keeps h) fun _ _ h => .bind (ih h) fun _ _ h => h

theorem readSpill_keeps {words : List Word} {sp : SpillAt} {s : State} (h : P s.mem) : (readSpill words sp s).Keeps P := by
  unfold readSpill
  refine .bind (spillReads_keeps h) fun _ _ h => ?_
  refine .readThen (spillReads_keeps h) fun _ _ h => ?_
  split
  · trivial
  · refine .bind (spillReads_keeps h) fun _ _ h => ?_
    refine .readThen (spillReads_keeps h) fun _ _ h => ?_
    repeat' split
    all_goals simp [h]

@[simp] theorem restartSteps_mem (s : State) (c l : Nat) (step : BitVec 32) : (restartSteps s c l step).mem = s.mem := by simp [restartSteps]

@[simp] theorem resumePaced_mem (s : State) (c l slot old : Nat) (step : BitVec 32) (inStep : Bool) :
    (resumePaced s c l slot old step inStep).mem = s.mem := by
  unfold resumePaced; dsimp only; repeat' split
  all_goals simp

theorem becomeHusk_keeps {d : HuskData} {s : State} (h : P s.mem) : (becomeHusk d s).Keeps P := by
  unfold becomeHusk
  refine .seq (awaitNames_keeps h) fun _ h => ?_
  split
  · trivial
  · next ht => simp [h, placeMap_mem ht]

@[simp] theorem takeXfers_mem (s : State) (c l launch old slot uid : Nat) : (takeXfers s c l launch old slot uid).mem = s.mem := by simp [takeXfers]

@[simp] theorem forceMap_mem (s : State) (k : Nat) (h : Option (List Parcel)) : (forceMap s k h).mem = s.mem := by simp [forceMap]

@[simp] theorem dropMap_mem (s : State) (k : Nat) : (dropMap s k).mem = s.mem := by simp [dropMap]

@[simp] theorem dropMaps_mem (s : State) : (dropMaps s).mem = s.mem := by simp [dropMaps]

theorem startHusk_keeps {d : HuskData} {s : State} (h : P s.mem) : (startHusk d s).Keeps P := by
  unfold startHusk
  dsimp only
  split
  · trivial
  · refine .seq (awaitDrained_keeps h) fun _ h => ?_
    split
    · exact h
    · split
      · trivial
      · next ht => simp [h, placeMap_mem ht]

theorem huskLaunch_keeps {words : List Word} {s : State} (h : P s.mem) : (huskLaunch words s).Keeps P := by
  unfold huskLaunch
  dsimp only
  repeat' split
  all_goals simp [h]

@[simp] theorem markEnding_mem (s : State) (l event grade cause : Nat) (agent : Agent) (value : Word) :
    (markEnding s l event grade cause agent value).mem = s.mem := by simp [markEnding]

@[simp] theorem noteFailure_mem (s : State) (l cause : Nat) (val : Word) : (noteFailure s l cause val).mem = s.mem := by simp [noteFailure]

theorem failRestart_keeps {l : Nat} {s : State} {a : Ans Unit} (ha : a.Keeps P) : (failRestart l s a).Keeps P := by
  cases a with
  | trapIn c v t => simpa [failRestart] using ha
  | trap | trapRead => trivial
  | ok | raise | wait | waitIn | hold | holdIn => exact ha

theorem huskFrom_keeps {words : List Word} {s : State} (h : P s.mem) : (huskFrom words s).Keeps P := by
  unfold huskFrom
  split
  · trivial
  · refine .bind (huskLaunch_keeps h) fun _ _ h => ?_
    refine .readThen (readSpill_keeps h) fun _ _ h => ?_
    split
    · exact startHusk_keeps h
    · exact becomeHusk_keeps h

theorem huskRun_keeps {global : Bool} {b c : Name} {disp : BitVec 16} {s : State} (h : P s.mem) : (huskRun global b c disp s).Keeps P := by
  unfold huskRun
  split
  · trivial
  · refine .bind (huskPlace_keeps h) fun _ _ h => ?_
    refine .readThen (readWords_keeps h) fun _ _ h => ?_
    split
    · exact failRestart_keeps (huskFrom_keeps h)
    · exact huskFrom_keeps h

theorem endHuskRun_answers {body : State → Ans Unit} {s : State} (h : P s.mem) (hb : (body s).Keeps P) : Answers P (endHuskRun body s) := by
  unfold endHuskRun; split
  · exact run_answers h hb
  · exact runEnd_answers h hb

/-! ### Strand -/

theorem execNop_answers {s : State} (h : P s.mem) : Answers P (execNop s) := run_answers h h

theorem execYield_answers {s : State} (h : P s.mem) : Answers P (execYield s) := run_answers h h

@[simp] theorem dropFailed_mem (s : State) (k i : Nat) : (dropFailed s k i).mem = s.mem := by simp [dropFailed]

@[simp] theorem freeInbox_mem (s : State) (k i : Nat) : (freeInbox s k i).mem = s.mem := by
  unfold freeInbox; split <;> simp

@[simp] theorem endStrand_mem (s : State) (k i : Nat) : (endStrand s k i).mem = s.mem := by simp [endStrand]

@[simp] theorem unpaceStrand_mem (s : State) (k i : Nat) : (unpaceStrand s k i).mem = s.mem := by simp [unpaceStrand]

theorem execExit_answers {s : State} (h : P s.mem) : Answers P (execExit s) := by
  unfold execExit
  dsimp only
  refine runEnd_answers h ?_
  split
  · trivial
  · refine .seq (raisePoint_keeps h) fun _ h => ?_
    split <;> simp [h]

theorem execHret_answers {s : State} (h : P s.mem) : Answers P (execHret s) := by
  unfold execHret
  refine runEnd_answers h ?_
  split
  · trivial
  · refine .seq (raisePoint_keeps h) fun _ h => ?_
    split <;> simp [h]

theorem execWfe_answers {s : State} (h : P s.mem) : Answers P (execWfe s) := by
  unfold execWfe
  refine runEnd_answers h ?_
  repeat' split
  all_goals simp [h]

theorem execEvsend_answers {a : Name} {s : State} (h : P s.mem) : Answers P (execEvsend a s) := by
  unfold execEvsend
  dsimp only
  refine run_answers h ?_
  refine .seq (raisePoint_keeps h) fun _ h => ?_
  refine .bind (readName_keeps h) fun _ _ h => ?_
  repeat' split
  all_goals simp [h]

theorem execEventArrival_answers {target : Agent} {s : State} (h : P s.mem) : Answers P (execEventArrival target s) := by
  unfold execEventArrival
  dsimp only
  split <;> simp [h]

theorem placeChild_mem {s t : State} {i : Nat} {v : Int} {target : Word} (h : placeChild s i v target = some t) : t.mem = s.mem := by
  unfold placeChild at h
  dsimp only at h
  split at h
  · cases h
  · next hn =>
    split at h <;> cases h
    simp [placeNames_mem hn]

theorem forkBody_keeps {a b : Name} {t : Target} {s : State} (h : P s.mem) : (forkBody a b t s).Keeps P := by
  unfold forkBody
  split
  · trivial
  · refine .seq (require_keeps h) fun _ h => ?_
    refine .bind (readName_keeps h) fun _ _ h => ?_
    refine .seq (require_keeps h) fun _ h => ?_
    refine .seq (awaitDrained_keeps h) fun _ h => ?_
    split
    · exact writeName_keeps h
    · split
      · exact writeName_keeps h
      · refine writeName_keeps ?_
        next ht => simp [h, placeChild_mem ht]

theorem execMigpt_answers {s : State} (h : P s.mem) : Answers P (execMigpt s) := by
  unfold execMigpt
  dsimp only
  refine runEnd_answers h ?_
  split
  · simp [h]
  · refine .seq (raisePoint_keeps h) fun _ h => ?_
    repeat' split
    all_goals simp [h]

/-! ### Message -/

theorem putOut_keeps {target : Agent} {launch : Option Nat} {words : List Word} {s : State}
    (h : P s.mem) : (putOut target launch words s).Keeps P := by
  unfold putOut
  dsimp only
  split <;> simp [h]

theorem payload_keeps {w : Word} {i n : Nat} {s : State} (h : P s.mem) : (payload w i n s).Keeps P := by
  induction n generalizing i s with
  | zero => exact h
  | succ n ih => exact .bind (readWin_keeps h) fun _ _ h => .bind (ih h) fun _ _ h => h

theorem snapshot_keeps {w : Word} {n : Nat} {s : State} (h : P s.mem) : (snapshot w n s).Keeps P := by
  unfold snapshot
  split
  · exact payload_keeps h
  · exact h

theorem releaseSend_keeps {rel : Bool} {scope : Nat} {ws : List Word} {s : State} (h : P s.mem) : (releaseSend rel scope ws s).Keeps P := by
  have ha : (awaitDrained scope s).Keeps P := awaitDrained_keeps h
  unfold releaseSend
  split
  · split
    · next hw => rw [hw] at ha; simpa using ha
    · exact ha
  · exact h

theorem sendBody_keeps {scope : BitVec 3} {rel : BitVec 1} {b c : Name} {n : BitVec 7} {s : State}
    (h : P s.mem) : (sendBody scope rel b c n s).Keeps P := by
  unfold sendBody
  dsimp only
  refine .seq (raisePoint_keeps h) fun _ h => ?_
  refine .bind (readName_keeps h) fun _ _ h => ?_
  refine .bind (readWindow_keeps h) fun _ _ h => ?_
  split
  · trivial
  · split
    · trivial
    · exact .bind (snapshot_keeps h) fun _ _ h => .seq (releaseSend_keeps h) fun _ h => putOut_keeps h

theorem acceptAt_canonical {s : State} (h : Canonical s) (k e : Nat) (m : Message) : Canonical (acceptAt s k e m) :=
  (writeEntry_canonical h k e m.words).of_mem (by simp [acceptAt])

theorem acceptIn_canonical {s : State} (h : Canonical s) (k : Nat) (m : Message) : Canonical (acceptIn s k m).1 := by
  unfold acceptIn; split
  · exact h
  · exact acceptAt_canonical h ..

@[simp] theorem logCompletion_mem (s : State) (k : Nat) (m : Message) : (logCompletion s k m).mem = s.mem := by simp [logCompletion]

theorem deliver_canonical {s : State} (h : Canonical s) (m : Message) : Canonical (deliver s m).1 := by
  unfold deliver
  dsimp only
  split
  · split
    · exact h
    · exact acceptIn_canonical h ..
  · split
    · exact h
    · split
      · exact h
      · split
        · exact h
        · exact acceptIn_canonical (h.of_mem (by simp)) ..

theorem arriveHw_canonical {s : State} (h : Canonical s) (m : HwMsg) : Canonical (arriveHw s m) := by
  have hd := deliver_canonical h m.msg
  unfold arriveHw
  dsimp only
  split
  · exact h.of_mem (by simp)
  · split
    · next ht =>
      split
      · exact (hd.of_fst ht).of_mem (modCluster_mem ..)
      · exact (hd.of_fst ht).of_mem rfl
    · next ht => exact (hd.of_fst ht).of_mem rfl
    · next ht => exact (hd.of_fst ht).of_mem rfl

theorem execMessageArrival_answers {m : Message} {s : State} (h : CanonicalMem s.mem) : Answers CanonicalMem (execMessageArrival m s) := by
  unfold execMessageArrival
  dsimp only
  split
  · split
    · exact h
    · exact arriveHw_canonical h _
  · split
    · exact h
    · split
      · exact h
      · split
        · exact (deliver_canonical h m).of_mem (answerMsg_mem ..)
        · split <;> simp [h]

theorem execTrapMessage_answers {cluster : Nat} {s : State} (h : CanonicalMem s.mem) : Answers CanonicalMem (execTrapMessage cluster s) := by
  unfold execTrapMessage
  dsimp only
  split
  · exact h
  · split
    · exact h
    · exact acceptAt_canonical (h : Canonical s) ..

theorem execHandlerStart_answers {core slot : Nat} {s : State} (h : P s.mem) : Answers P (execHandlerStart core slot s) := by
  unfold execHandlerStart
  dsimp only
  repeat' split
  all_goals simp [h]

@[simp] theorem routeCopy_mem (src : Word) (x : BitVec 32) (s : State) : (routeCopy src x s).2.mem = s.mem := by
  unfold routeCopy
  dsimp only
  split
  · simp
  · next ht =>
    have hu := unlessHeld_mem (translate_mem ht)
    repeat' split
    all_goals exact hu

theorem recordOf_keeps {w : Word} {off : Int} {s : State} (h : P s.mem) : (recordOf w off s).Keeps P := by
  unfold recordOf
  split
  · exact .bind (readWin_keeps h) fun _ _ h => h
  · exact h

theorem copyFrom_keeps {a : Name} {ws : List Nat} {s : State} (h : P s.mem) : (copyFrom a ws s).Keeps P := by
  unfold copyFrom
  dsimp only
  split
  · simp [h]
  · exact .seq (writeName_keeps h) fun _ h => putOut_keeps (by simp [h])

theorem copyBody_keeps {a b c : Name} {disp : BitVec 16} {s : State} (h : P s.mem) : (copyBody a b c disp s).Keeps P := by
  unfold copyBody
  refine .seq (raisePoint_keeps h) fun _ h => ?_
  refine .bind (readWindow_keeps h) fun _ _ h => ?_
  refine .bind (readName_keeps h) fun _ _ h => ?_
  refine .readThen (recordOf_keeps h) fun _ _ h => ?_
  split
  · trivial
  · exact copyFrom_keeps h

theorem execCopyRequest_answers {core entry : Nat} {s : State} (h : CanonicalMem s.mem) : Answers CanonicalMem (execCopyRequest core entry s) := by
  unfold execCopyRequest
  dsimp only
  split
  · exact h
  · split
    · exact h
    · split
      · exact h
      · next ht =>
        rw [answers_next, modCore_mem, setSlot_mem, placeMap_mem ht]
        exact Memory.wf_memPutWords h _ _

theorem execResumePacket_answers {core slot : Nat} {zero verdict pc value : Word} {s : State}
    (h : P s.mem) : Answers P (execResumePacket core slot zero verdict pc value s) := by
  unfold execResumePacket
  dsimp only
  repeat' split
  all_goals simp [h]

theorem execCompletionArrival_answers {target : Agent} {handler : Word} {xid : BitVec 32} {status : Word} {s : State}
    (h : P s.mem) : Answers P (execCompletionArrival target handler xid status s) := by
  unfold execCompletionArrival
  dsimp only
  repeat' split
  all_goals simp [h]

theorem execXwait_answers {a : Name} {s : State} (h : P s.mem) : Answers P (execXwait a s) := by
  have withdrawn : ∀ c l f, P (modLogical s c l f).mem := fun c l f => by simpa using h
  refine run_answers h (.bind (readName_keeps h) fun _ _ h => ?_)
  dsimp only
  split
  · exact h
  · split
    · exact h
    · exact withdrawn ..

/-! ### Launches -/

@[simp] theorem baseReads_mem (s : State) (w : Word) (off n : Nat) : (baseReads s w off n).mem = s.mem := by
  unfold baseReads; split <;> simp

theorem baseWrite_canonical {s : State} (h : Canonical s) (w : Word) (off : Nat) (bs : List Byte) : Canonical (baseWrite s w off bs) := by
  unfold baseWrite; split
  · exact writePhys_canonical h ..
  · exact h

theorem writeRecord_canonical {s : State} (h : Canonical s) (q : Nat) (rec : List Byte) : Canonical (writeRecord s q rec) :=
  (baseWrite_canonical h ..).of_mem rfl

theorem postRecord_canonical {s : State} (h : Canonical s) (q : Nat) (rec : List Byte) : Canonical (postRecord s q rec) := by
  unfold postRecord; dsimp only; split
  · exact writeRecord_canonical h ..
  · exact h.of_mem (modQueue_mem ..)

theorem flushRecords_canonical (n : Nat) {s : State} (h : Canonical s) (q : Nat) : Canonical (flushRecords n s q) := by
  induction n generalizing s with
  | zero => exact h
  | succ n ih =>
    unfold flushRecords
    split
    · exact h
    · split
      · exact h
      · exact ih (writeRecord_canonical (h.of_mem (modQueue_mem ..)) ..)

@[simp] theorem dropXfers_mem (s : State) (l : Nat) : (dropXfers s l).mem = s.mem := by simp [dropXfers]

@[simp] theorem freeStrands_mem (s : State) (l : Nat) : (freeStrands s l).mem = s.mem := by simp [freeStrands]

@[simp] theorem returnBarriers_mem (s : State) (l : Nat) : (returnBarriers s l).mem = s.mem := by simp [returnBarriers]

@[simp] theorem endLaunch_mem (s : State) (l event grade cause : Nat) (agent : Agent) (value : Word) :
    (endLaunch s l event grade cause agent value).mem = s.mem := by simp [endLaunch]

@[simp] theorem fatalFault_mem (s : State) : (fatalFault s).mem = s.mem := by simp [fatalFault]

/-! ### Packets -/

theorem readChunks_mem (x : State × List Nat) (a n : Nat) : (readChunks x a n).1.mem = x.1.mem := by
  unfold readChunks
  exact foldl_fst_mem (fun _ _ => by simp) _ _

theorem readRange_mem (fuel : Nat) (data : Bool) (x : State × List Nat) (root va n : Nat) :
    (readRange fuel data x root va n).1.mem = x.1.mem := by
  induction fuel generalizing x va n with
  | zero => rfl
  | succ fuel ih =>
    unfold readRange
    split
    · rfl
    · dsimp only
      split
      · simp
      · rw [ih]
        split
        · rw [readChunks_mem]; simp
        · simp

theorem refuseSheaf_canonical {s : State} (h : Canonical s) (q : Nat) (ms : List (BitVec 32 × List Byte)) (i reason value : Nat) :
    Canonical (refuseSheaf s q ms i reason value) := by
  unfold refuseSheaf
  exact foldl_canonical (fun _ _ h => postRecord_canonical h ..) h _

theorem judge_canonical {s : State} (h : Canonical s) (q : Nat) (ms : List (BitVec 32 × List Byte)) (inSheaf : Bool) :
    Canonical (judge s q ms inSheaf) := by
  unfold judge
  dsimp only
  split
  · exact refuseSheaf_canonical (h.of_mem (by simp)) ..
  · exact h.of_mem (by simp)

@[simp] theorem objectReads_mem (q : Nat) (s : State) (p : List Byte) : (objectReads q s p).mem = s.mem := by
  have ranges : ∀ rd : Nat → Nat → Option (List Byte), (((0, 64) :: objectRanges rd p).foldl (fun x r =>
      readRange (r.2 / 4096 + 2) true x (pktField p 16 8) (pktField p 8 8 + r.1) r.2) (s, [])).1.mem = s.mem :=
    fun rd => foldl_fst_mem (fun _ _ => readRange_mem ..) _ _
  unfold objectReads
  dsimp only
  split
  · split
    · rw [modQueue_mem, readRange_mem]; exact ranges _
    · rw [modQueue_mem]; exact ranges _
  · rfl

@[simp] theorem askChunk_mem (s : State) (q a : Nat) : (askChunk s q a).mem = s.mem := by simp [askChunk]

theorem goOnChecking_canonical {s : State} (h : Canonical s) (q : Nat) : Canonical (goOnChecking s q) := by
  unfold goOnChecking
  dsimp only
  split
  · exact h
  · split
    · exact h
    · split
      · split
        · exact h.of_mem (heldBack_mem ..)
        · exact judge_canonical (h.of_mem (by simp)) ..
      · exact h.of_mem (by simp)

theorem validate_canonical {s : State} (h : Canonical s) (q : Nat) (ms : List (BitVec 32 × List Byte)) (inSheaf : Bool) :
    Canonical (validate s q ms inSheaf) :=
  goOnChecking_canonical (h.of_mem (modQueue_mem ..)) q

theorem takeAlone_canonical {s : State} (h : Canonical s) (q : Nat) (m : BitVec 32 × List Byte) : Canonical (takeAlone s q m) := by
  unfold takeAlone
  dsimp only
  split
  · exact h.of_mem (modQueue_mem ..)
  · split
    · exact h.of_mem (modQueue_mem ..)
    · exact validate_canonical h ..

theorem takePacket_canonical {s : State} (h : Canonical s) (q : Nat) (m : BitVec 32 × List Byte) : Canonical (takePacket s q m) := by
  have dropped : Canonical (modQueue s q fun y => { y with held := [], sheaf := none }) := h.of_mem (modQueue_mem ..)
  unfold takePacket
  dsimp only
  split
  · split
    · exact refuseSheaf_canonical dropped ..
    · split
      · exact validate_canonical h ..
      · exact h.of_mem (modQueue_mem ..)
  · split
    · exact takeAlone_canonical h ..
    · split
      · exact validate_canonical h ..
      · exact takeAlone_canonical (refuseSheaf_canonical dropped ..) ..

/-! ### Fabric -/

@[simp] theorem sendAck_mem (s : State) (peer cls : Nat) : (sendAck s peer cls).mem = s.mem := by simp [sendAck]

@[simp] theorem drainAll_mem (s : State) : (drainAll s).mem = s.mem := by simp [drainAll]

@[simp] theorem purge_mem (s : State) : (purge s).mem = s.mem := by simp [purge]

@[simp] theorem advanceUna_mem (s : State) (peer cls : Nat) (a : BitVec 32) : (advanceUna s peer cls a).mem = s.mem := by simp [advanceUna]

@[simp] theorem takeAck_mem (s : State) (p : Packet) : (takeAck s p).mem = s.mem := by simp [takeAck]

@[simp] theorem replayFlow_mem (s : State) (peer cls : Nat) : (replayFlow s peer cls).mem = s.mem := by simp [replayFlow]

@[simp] theorem replayAll_mem (s : State) : (replayAll s).mem = s.mem := by simp [replayAll]

@[simp] theorem dropDevice_mem (s : State) (d : Nat) : (dropDevice s d).mem = s.mem := by simp [dropDevice]

@[simp] theorem joinDevice_mem (s : State) (d : Nat) : (joinDevice s d).mem = s.mem := by simp [joinDevice]

@[simp] theorem activate_mem (s : State) (v : BitVec 16) (t : List (Nat × Nat)) : (activate s v t).mem = s.mem := by simp [activate]

theorem checkVersion_mem {s t : State} {p : Packet} (h : checkVersion s p = some t) : t.mem = s.mem := by
  unfold checkVersion at h
  split at h
  · cases h; rfl
  · split at h
    · cases h
    · split at h
      · split at h <;> cases h
        simp
      · cases h

@[simp] theorem discard_mem (s : State) (p : Packet) : (discard s p).mem = s.mem := by simp [discard]

@[simp] theorem forward_mem (s : State) (p : Packet) : (forward s p).mem = s.mem := by simp [forward]

/-- A packet received changes memory only by what its action does. -/
theorem receive_canonical {kind cls : Nat} {act : State → Packet → State} {p : Packet} {s : State} (h : Canonical s)
    (ha : ∀ t, Canonical t → Canonical (act t p)) : Canonical (receive kind cls act p s) := by
  unfold receive
  split
  · exact h.of_mem (discard_mem ..)
  · split
    · exact h
    · next ht =>
      have h1 := h.of_mem (checkVersion_mem ht)
      dsimp only
      split
      · exact h1.of_mem (forward_mem ..)
      · split
        · exact h1
        · split
          · exact ha _ (h1.of_mem (by simp))
          · split <;> exact h1.of_mem (by simp)

@[simp] theorem receive_mem {kind cls : Nat} {act : State → Packet → State} {p : Packet} {s : State} (ha : ∀ t, (act t p).mem = t.mem) :
    (receive kind cls act p s).mem = s.mem := by
  unfold receive
  split
  · simp
  · split
    · rfl
    · next ht =>
      dsimp only
      repeat' split
      all_goals simp [ha, checkVersion_mem ht]

@[simp] theorem outsideAccess_mem (s : State) (p : Packet) (a n : Nat) (o : WOp) : (outsideAccess s p a n o).mem = s.mem := by
  unfold outsideAccess; split <;> simp

@[simp] theorem applyRead_mem (s : State) (p : Packet) : (applyRead s p).mem = s.mem := by simp [applyRead]

@[simp] theorem applyWrite_mem (s : State) (p : Packet) : (applyWrite s p).mem = s.mem := by
  unfold applyWrite; dsimp only; split <;> simp

@[simp] theorem applyAtomic_mem (s : State) (p : Packet) : (applyAtomic s p).mem = s.mem := by simp [applyAtomic]

@[simp] theorem applyHardware_mem (s : State) (m : Message) : (applyHardware s m).mem = s.mem := by simp [applyHardware]

theorem applyMsg_canonical {s : State} (h : Canonical s) (p : Packet) : Canonical (applyMsg s p) := by
  unfold applyMsg
  dsimp only
  split
  · exact h.of_mem (by simp)
  · split
    · exact h.of_mem (reply_mem ..)
    · exact (deliver_canonical h _).of_mem (reply_mem ..)

@[simp] theorem applyStep_mem (s : State) (p : Packet) : (applyStep s p).mem = s.mem := by simp [applyStep]

@[simp] theorem fillArrives_mem (s : State) (k i uid addr : Nat) (va : Word) (status cause : Nat) (data : List Byte) :
    (fillArrives s k i uid addr va status cause data).mem = s.mem := by simp [fillArrives]

@[simp] theorem getsAnswer_mem (s : State) (g : GetsReq) (status cause : Nat) (data : List Byte) :
    (getsAnswer s g status cause data).mem = s.mem := by simp [getsAnswer]

@[simp] theorem completePending_mem (s : State) (x : Pending) (status cause : Nat) (data : List Byte) :
    (completePending s x status cause data).mem = s.mem := by
  unfold completePending
  cases x with
  | line =>
    dsimp only
    refine lineAnswered_mem _ _ ?_
    split <;> simp
  | _ =>
    dsimp only
    repeat' split
    all_goals simp

@[simp] theorem applyResp_mem (s : State) (p : Packet) : (applyResp s p).mem = s.mem := by
  unfold applyResp; dsimp only; split <;> simp

theorem execMsg_answers {p : Packet} {s : State} (h : CanonicalMem s.mem) : Answers CanonicalMem (execMsg p s) :=
  receive_canonical (h : Canonical s) fun _ h => applyMsg_canonical h p

theorem execAck_answers {p : Packet} {s : State} (h : P s.mem) : Answers P (execAck p s) := by
  unfold execAck
  split
  · simp [h]
  · split
    · exact h
    · next ht =>
      rw [answers_next]
      repeat' split
      all_goals simp [h, checkVersion_mem ht]

@[simp] theorem portDown_mem (s : State) (p : Nat) : (portDown s p).mem = s.mem := by simp [portDown]

theorem execLaneFailure_answers {port : Nat} {good : BitVec 4} {s : State} (h : P s.mem) : Answers P (execLaneFailure port good s) := by
  unfold execLaneFailure
  dsimp only
  repeat' split
  all_goals simp [h]

theorem execPortUp_answers {port peer peerPort : Nat} {good : BitVec 4} {s : State}
    (h : P s.mem) : Answers P (execPortUp port peer peerPort good s) := by
  unfold execPortUp
  split <;> simp [h]

@[simp] theorem floodPacket_mem (s : State) (p : Packet) : (floodPacket s p).mem = s.mem := by simp [floodPacket]

@[simp] theorem sendCtrl_mem (s : State) (d tag : Nat) (body : List Byte) : (sendCtrl s d tag body).mem = s.mem := by simp [sendCtrl]

@[simp] theorem sendInstall_mem (s : State) (v : BitVec 16) (d n size : Nat) (t : List (Nat × Nat)) :
    (sendInstall s v d n size t).mem = s.mem := by
  induction n generalizing s t with
  | zero => rfl
  | succ n ih => unfold sendInstall; split <;> simp [ih]

@[simp] theorem learn_mem (s : State) (device port : Nat) (up : Bool) : (learn s device port up).mem = s.mem := by simp [learn]

@[simp] theorem sendNews_mem (s : State) (device port : Nat) (up : Bool) : (sendNews s device port up).mem = s.mem := by simp [sendNews]

@[simp] theorem sendSync_mem (s : State) (ds : List Nat) : (sendSync s ds).mem = s.mem := by simp [sendSync]

@[simp] theorem issueVersion_mem (s : State) : (issueVersion s).mem = s.mem := by simp [issueVersion]

theorem execFabricManagerTold_answers {device port : Nat} {up : Bool} {s : State}
    (h : P s.mem) : Answers P (execFabricManagerTold device port up s) := by
  unfold execFabricManagerTold
  dsimp only
  split <;> simp [h]

theorem execInstallNotice_answers {version : BitVec 16} {table : List (Nat × Nat)} {s : State}
    (h : P s.mem) : Answers P (execInstallNotice version table s) := by
  unfold execInstallNotice
  dsimp only
  repeat' split
  all_goals simp [h]

@[simp] theorem activateVersion_mem (s : State) (version : BitVec 16) : (activateVersion s version).mem = s.mem := by
  unfold activateVersion; split <;> simp

theorem execInstallAck_answers {device : Nat} {version : BitVec 16} {s : State} (h : P s.mem) : Answers P (execInstallAck device version s) := by
  unfold execInstallAck
  dsimp only
  repeat' split
  all_goals simp [h]

@[simp] theorem loseDevice_mem (s : State) (device : Nat) : (loseDevice s device).mem = s.mem := by simp [loseDevice]

@[simp] theorem installPart_mem (s : State) (b : List Byte) : (installPart s b).mem = s.mem := by simp [installPart]

@[simp] theorem takeNotice_mem (s : State) (b : List Byte) : (takeNotice s b).mem = s.mem := by simp [takeNotice]

@[simp] theorem knowVersion_mem (s : State) (v : BitVec 16) : (knowVersion s v).mem = s.mem := by simp [knowVersion]

@[simp] theorem overhear_mem (s : State) (n : Nat × Nat × Bool) : (overhear s n).mem = s.mem := by simp [overhear]

@[simp] theorem takeSync_mem (s : State) (ver : BitVec 16) (b : List Byte) : (takeSync s ver b).mem = s.mem := by simp [takeSync]

@[simp] theorem takeCtrl_mem (s : State) (p : Packet) : (takeCtrl s p).mem = s.mem := by
  unfold takeCtrl; repeat' split
  all_goals simp

@[simp] theorem packetArrives_mem (s : State) (p : Packet) : (packetArrives s p).mem = s.mem := by simp [packetArrives]

@[simp] theorem assemble_mem (s : State) (port : Nat) : (assemble s port).mem = s.mem := by simp [assemble]

@[simp] theorem badFlit_mem (s : State) (port : Nat) (lsn : BitVec 12) (empty : Bool) : (badFlit s port lsn empty).mem = s.mem := by simp [badFlit]

theorem execFlit_answers {port : Nat} {data : List Byte} {crc : BitVec 32} {side : Sidecar} {s : State}
    (h : P s.mem) : Answers P (execFlit port data crc side s) := by
  unfold execFlit
  dsimp only
  repeat' split
  all_goals simp [h]

theorem execDomainFormation_answers {self size : Nat} {links : List (Nat × Nat × Nat × Nat)} {s : State}
    (h : P s.mem) : Answers P (execDomainFormation self size links s) := by
  unfold execDomainFormation
  split <;> simp [h]

/-! ### Integer -/

theorem binary_keeps {f : Int → Int → Int} {a b c : Name} {s : State} (h : P s.mem) : (binary f a b c s).Keeps P :=
  .bind (readName_keeps h) fun _ _ h => .bind (readName_keeps h) fun _ _ h => writeName_keeps h

theorem unary_keeps {f : Int → Int} {a b : Name} {s : State} (h : P s.mem) : (unary f a b s).Keeps P :=
  .bind (readName_keeps h) fun _ _ h => writeName_keeps h

theorem unaryWidth_keeps {f : Int → Nat → Int} {a b : Name} {s : State} (h : P s.mem) : (unaryWidth f a b s).Keeps P :=
  .bind (widthOfName_keeps h) fun _ _ h => .bind (readName_keeps h) fun _ _ h => writeName_keeps h

theorem compare_keeps {f : Int → Int → Bool} {a b c : Name} {s : State} (h : P s.mem) : (compare f a b c s).Keeps P :=
  .bind (readName_keeps h) fun _ _ h => .bind (readName_keeps h) fun _ _ h => writeName_keeps h

theorem compareImm_keeps {f : Int → Int → Bool} {a b : Name} {imm : BitVec 16} {s : State} (h : P s.mem) : (compareImm f a b imm s).Keeps P :=
  .bind (readName_keeps h) fun _ _ h => writeName_keeps h

theorem divide_keeps {f : Int → Int → Int} {a b c : Name} {s : State} (h : P s.mem) : (divide f a b c s).Keeps P := by
  unfold divide
  split
  · trivial
  · refine .bind (readName_keeps h) fun _ _ h => ?_
    refine .bind (readName_keeps h) fun _ _ h => ?_
    split
    · trivial
    · exact .bind (deferWrite_keeps h) fun _ _ h => by simp [h]

theorem execMulh_answers {a b c : Name} {s : State} (h : P s.mem) : Answers P (execMulh a b c s) :=
  run_answers h (.bind (readName_keeps h) fun _ _ h => .bind (readName_keeps h) fun _ _ h => .bind (widthOfName_keeps h) fun _ _ h =>
      writeName_keeps h)

theorem execRot_answers {a b c : Name} {s : State} (h : P s.mem) : Answers P (execRot a b c s) :=
  run_answers h (.bind (widthOfName_keeps h) fun _ _ h => .bind (signedOfName_keeps h) fun _ _ h => .bind (readName_keeps h) fun _ _ h =>
      .bind (readName_keeps h) fun _ _ h => writeName_keeps h)

theorem execBfx_answers {a b c d : Name} {s : State} (h : P s.mem) : Answers P (execBfx a b c d s) :=
  run_answers h (.bind (readName_keeps h) fun _ _ h => .bind (readName_keeps h) fun _ _ h => .bind (readName_keeps h) fun _ _ h =>
      .bind (signedOfName_keeps h) fun _ _ h => writeName_keeps h)

theorem execBfi_answers {a b c d : Name} {s : State} (h : P s.mem) : Answers P (execBfi a b c d s) :=
  run_answers h (.bind (readName_keeps h) fun _ _ h => .bind (readName_keeps h) fun _ _ h => .bind (readName_keeps h) fun _ _ h =>
      .bind (readName_keeps h) fun _ _ h => .bind (widthOfName_keeps h) fun _ _ h => .bind (signedOfName_keeps h) fun _ _ h => writeName_keeps h)

theorem execSel_answers {a b c d : Name} {s : State} (h : P s.mem) : Answers P (execSel a b c d s) :=
  run_answers h (.bind (readName_keeps h) fun _ _ h => .bind (readName_keeps h) fun _ _ h => .bind (readName_keeps h) fun _ _ h => writeName_keeps h)

theorem execMovi_answers {a : Name} {imm : BitVec 64} {s : State} (h : P s.mem) : Answers P (execMovi a imm s) :=
  run_answers h (.bind (signedOfName_keeps h) fun _ _ h => writeName_keeps h)

/-! ### Vector -/

@[simp] theorem putVec_mem (s : State) (id : Nat) (row : BitVec 1024) : (putVec s id row).mem = s.mem := by simp [putVec]

@[simp] theorem raiseCur_mem (s : State) (f : BitVec 8) : (raiseCur s f).mem = s.mem := by simp [raiseCur]

@[simp] theorem putElems_mem (s : State) (id ty : Nat) (rs : List (Nat × BitVec 8)) : (putElems s id ty rs).mem = s.mem := by simp [putElems]

theorem binaryRow_keeps {f : Nat → Nat → Nat → Nat → Nat × BitVec 8} {a b c : VRef} {x : VExec} {s : State}
    (h : P s.mem) : (binaryRow f a b c x s).Keeps P :=
  by simp [binaryRow, h]

theorem bitsRow_keeps {f : BitVec 1024 → BitVec 1024 → BitVec 1024} {a b c : VRef} {x : VExec} {s : State}
    (h : P s.mem) : (bitsRow f a b c x s).Keeps P :=
  by simp [bitsRow, h]

theorem unaryRow_keeps {f : Nat → Nat → Nat → Nat × BitVec 8} {a b : VRef} {x : VExec} {s : State} (h : P s.mem) : (unaryRow f a b x s).Keeps P :=
  by simp [unaryRow, h]

theorem fmaRow_keeps {sub : Bool} {a b c d : VRef} {x : VExec} {s : State} (h : P s.mem) : (fmaRow sub a b c d x s).Keeps P := by simp [fmaRow, h]

theorem selRow_keeps {a b c d : VRef} {x : VExec} {s : State} (h : P s.mem) : (selRow a b c d x s).Keeps P := by simp [selRow, h]

theorem rowWord_keeps {x : VExec} {a : Nat} {s : State} (h : P s.mem) : (rowWord x a s).Keeps P := by
  unfold rowWord
  split
  · split <;> simp [h]
  · exact readBytes_keeps h fun _ _ _ => by simp

theorem rowWords_keeps {x : VExec} {as : List Nat} {s : State} (h : P s.mem) : (rowWords x as s).Keeps P := by
  induction as generalizing s with
  | nil => exact h
  | cons _ _ ih => exact .bind (rowWord_keeps h) fun _ _ h => .bind (ih h) fun _ _ h => h

@[simp] theorem rowErrors_mem (s : State) (as : List Nat) (ws : List (Nat × Bool)) : (rowErrors s as ws).mem = s.mem := by simp [rowErrors]

theorem loadRow_keeps {a : VRef} {sh : Nat} {as : List Nat} {x : VExec} {s : State} (h : P s.mem) : (loadRow a sh as x s).Keeps P :=
  .bind (rowWords_keeps h) fun _ _ h => by simp [h]

theorem vldRow_keeps {a : VRef} {d : BitVec 8} {x : VExec} {s : State} (h : P s.mem) : (vldRow a d x s).Keeps P := loadRow_keeps h

theorem vldbRow_keeps {a : VRef} {d : BitVec 8} {x : VExec} {s : State} (h : P s.mem) : (vldbRow a d x s).Keeps P := loadRow_keeps h

theorem storeRow_keeps {bs : List MByte} {va : Word} {x : VExec} {s : State} (h : CanonicalMem s.mem) : (storeRow bs va x s).Keeps CanonicalMem := by
  unfold storeRow
  split
  · split
    · trivial
    · exact performStore_canonical h _ _
  · exact emitWrite_keeps h

theorem vstRow_keeps {a : VRef} {d : BitVec 8} {x : VExec} {s : State} (h : CanonicalMem s.mem) : (vstRow a d x s).Keeps CanonicalMem :=
  storeRow_keeps h

theorem vstbRow_keeps {a : VRef} {d : BitVec 8} {x : VExec} {s : State} (h : CanonicalMem s.mem) : (vstbRow a d x s).Keeps CanonicalMem :=
  storeRow_keeps h

theorem vtoqRow_keeps {q : Name} {v : VRef} {x : VExec} {s : State} (h : P s.mem) : (vtoqRow q v x s).Keeps P := by simp [vtoqRow, h]

theorem vfromqRow_keeps {v : VRef} {q : Name} {x : VExec} {s : State} (h : P s.mem) : (vfromqRow v q x s).Keeps P := by simp [vfromqRow, h]

theorem outcomeRow_keeps {all : Bool} {q : Name} {v : VRef} {x : VExec} {s : State} (h : P s.mem) : (outcomeRow all q v x s).Keeps P :=
  .bind (pushNow_keeps h) fun _ _ h => by simp [h]

/-! ### Conversion -/

@[simp] theorem putSpan_mem (ty : Nat) (ids cs : List Nat) (s : State) : (putSpan ty ids cs s).mem = s.mem := by
  induction ids generalizing cs s with
  | nil => rfl
  | cons _ _ ih => simp [putSpan, ih]

theorem vcvtRow_keeps {a b : VRef} {x : VExec} {s : State} (h : P s.mem) : (vcvtRow a b x s).Keeps P := by simp [vcvtRow, h]

theorem vqntRow_keeps {a b c : VRef} {x : VExec} {s : State} (h : P s.mem) : (vqntRow a b c x s).Keeps P := by
  unfold vqntRow
  dsimp only
  split <;> simp [h]

theorem vdqntRow_keeps {a b c : VRef} {x : VExec} {s : State} (h : P s.mem) : (vdqntRow a b c x s).Keeps P := by simp [vdqntRow, h]

theorem voutlRow_keeps {a b c : VRef} {x : VExec} {s : State} (h : P s.mem) : (voutlRow a b c x s).Keeps P :=
  .bind (pushNow_keeps h) fun _ _ h => by simp [h]

/-! ### Matrix -/

@[simp] theorem scrubWords_mem (s : State) (ws : List Nat) : (scrubWords s ws).mem = s.mem := by simp [scrubWords]

@[simp] theorem modMx_mem (s : State) (k : Nat) (f : Matrix → Matrix) : (modMx s k f).mem = s.mem := by simp [modMx]

@[simp] theorem cmdFlags_mem (s : State) (k : Nat) (c : MCmd) (f : BitVec 8) : (cmdFlags s k c f).mem = s.mem := by simp [cmdFlags]

@[simp] theorem cmdError_mem (s : State) (k : Nat) (c : MCmd) (detail : Nat) : (cmdError s k c detail).mem = s.mem := by simp [cmdError]

theorem takeCmd_canonical {want : Nat → Bool} {k : Nat} {act : MCmd → State → State} {s : State} (h : Canonical s)
    (ha : ∀ c t, Canonical t → Canonical (act c t)) : Canonical (takeCmd want k act s) := by
  unfold takeCmd
  split
  · split
    · exact h
    · split
      · dsimp only
        split
        · exact h.of_mem (by simp)
        · exact ha _ _ (h.of_mem (by simp))
      · exact h
  · exact h

@[simp] theorem takeCmd_mem {want : Nat → Bool} {k : Nat} {act : MCmd → State → State} {s : State} (ha : ∀ c t, (act c t).mem = t.mem) :
    (takeCmd want k act s).mem = s.mem := by
  unfold takeCmd
  dsimp only
  repeat' split
  all_goals simp [ha]

theorem execMma_answers {core : Nat} {s : State} (h : P s.mem) : Answers P (execMma core s) := by
  unfold execMma
  rw [answers_next, takeCmd_mem]
  · exact h
  · intro c t
    dsimp only
    split <;> simp

@[simp] theorem blockStep_mem (s : State) (core : Nat) (x : MCtx) (e : MExec) : (blockStep s core x e).mem = s.mem := by simp [blockStep]

theorem execKBlockCompletion_answers {core : Nat} {s : State} (h : P s.mem) : Answers P (execKBlockCompletion core s) := by
  unfold execKBlockCompletion
  dsimp only
  split <;> simp [h]

theorem readoutWord_canonical {y : State × BitVec 8} (h : Canonical y.1) (x : MCtx) (a : AccSet) (d : Desc) (i j : Nat) :
    Canonical (readoutWord x a d i j y).1 := performStore_canonical h _ _

theorem execMread_answers {core : Nat} {s : State} (h : CanonicalMem s.mem) : Answers CanonicalMem (execMread core s) := by
  refine takeCmd_canonical (h : Canonical s) fun c t ht => ?_
  dsimp only
  split
  · exact ht
  · next x _ =>
    have row : ∀ a d words i (y : State × BitVec 8), Canonical y.1 →
        Canonical ((List.range words).foldl (fun z j => readoutWord x a d i j z) y).1 := fun a d words i y hy =>
      foldl_fst_canonical (fun z j hz => readoutWord_canonical hz ..) hy _
    refine Canonical.of_mem ?_ (cmdFlags_mem ..)
    split
    · refine Canonical.of_mem ?_ (modMx_mem ..)
      exact foldl_fst_canonical (fun y i hy => row _ _ _ i y hy) ht _
    · exact foldl_fst_canonical (fun y i hy => row _ _ _ i y hy) ht _

theorem execMfence_answers {core : Nat} {s : State} (h : CanonicalMem s.mem) : Answers CanonicalMem (execMfence core s) :=
  takeCmd_canonical (h : Canonical s) fun _ _ ht => (feChanged_canonical (feAct_canonical ht ..) _).of_mem (modMx_mem ..)

theorem maccBody_keeps {a b c : Name} {s : State} (h : P s.mem) : (maccBody a b c s).Keeps P := by
  unfold maccBody
  dsimp only
  split
  · trivial
  · refine .bind (readName_keeps h) fun _ _ h => ?_
    split
    · trivial
    · split
      · trivial
      · exact .bind (signedOfName_keeps h) fun _ _ h => .seq (writeName_keeps h) fun _ h => .seq (writeName_keeps h) fun _ h => by simp [h]

theorem execMstat_answers {a : Name} {s : State} (h : P s.mem) : Answers P (execMstat a s) := by
  unfold execMstat
  refine run_answers h ?_
  split
  · trivial
  · exact writeName_keeps h

/-! ### Registers -/

@[simp] theorem countEnergy_mem (s : State) (q : Nat) : (countEnergy s q).mem = s.mem := by simp [countEnergy]

@[simp] theorem latchEnergy_mem (s : State) (k i : Nat) : (latchEnergy s k i).mem = s.mem := by simp [latchEnergy]

@[simp] theorem regrant_mem (s : State) (q : Nat) : (regrant s q).mem = s.mem := by simp [regrant]

@[simp] theorem writeTempTest_mem (s : State) (q : Nat) (v : Word) : (writeTempTest s q v).mem = s.mem := by simp [writeTempTest]

@[simp] theorem writeOppoint_mem (s : State) (k : Nat) (v : Word) : (writeOppoint s k v).mem = s.mem := by simp [writeOppoint]

@[simp] theorem slotctlEnd_mem (s : State) (k : Nat) (ok : Bool) : (slotctlEnd s k ok).mem = s.mem := by simp [slotctlEnd]

@[simp] theorem writeSlotctl_mem (s : State) (c : Nat) (v : Word) : (writeSlotctl s c v).mem = s.mem := by simp [writeSlotctl]

@[simp] theorem writeMigreq_mem (s : State) (c : Nat) (v : Word) : (writeMigreq s c v).mem = s.mem := by simp [writeMigreq]

@[simp] theorem writeBarcfg_mem (s : State) (c : Nat) (v : Word) : (writeBarcfg s c v).mem = s.mem := by simp [writeBarcfg]

@[simp] theorem writeBarcancel_mem (s : State) (c : Nat) (v : Word) : (writeBarcancel s c v).mem = s.mem := by simp [writeBarcancel]

@[simp] theorem moveGets_mem (s : State) (a : Agent) (old new : Nat) : (moveGets s a old new).mem = s.mem := by simp [moveGets]

@[simp] theorem swapCores_mem (s : State) (c l p : Nat) : (swapCores s c l p).mem = s.mem := by simp [swapCores]

@[simp] theorem removeLog_mem (s : State) (c : Nat) (vbus : Bool) (v : Word) : (removeLog s c vbus v).mem = s.mem := by simp [removeLog]

@[simp] theorem writeInject_mem (s : State) (c : Nat) (v : Word) : (writeInject s c v).mem = s.mem := by simp [writeInject]

@[simp] theorem writeStorehold_mem (s : State) (c : Nat) (v : Word) : (writeStorehold s c v).mem = s.mem := by simp [writeStorehold]

@[simp] theorem writeStrandReg_mem (s : State) (n : Nat) (v : Word) : (writeStrandReg s n v).mem = s.mem := by simp [writeStrandReg]

@[simp] theorem writeReg_mem (s : State) (n : Nat) (v : Word) : (writeReg s n v).mem = s.mem := by simp [writeReg]

theorem execSysrd_answers {a : Name} {n : BitVec 16} {s : State} (h : P s.mem) : Answers P (execSysrd a n s) := by
  unfold execSysrd
  dsimp only
  refine run_answers h ?_
  split
  · trivial
  · split
    · trivial
    · exact .seq (writeName_keeps (by simp [h])) fun _ h => by simp [h]

theorem execSyswr_answers {a : Name} {n : BitVec 16} {s : State} (h : P s.mem) : Answers P (execSyswr a n s) := by
  unfold execSyswr
  dsimp only
  refine run_answers h ?_
  split
  · trivial
  · split
    · trivial
    · refine .bind (readName_keeps h) fun _ _ h => ?_
      split <;> simp [h]

/-! ### System -/

@[simp] theorem sendLine_mem (s : State) (c pa n : Nat) : (sendLine s c pa n).mem = s.mem := by simp [sendLine]

@[simp] theorem askLine_mem (s : State) (c pa : Nat) : (askLine s c pa).mem = s.mem := by simp [askLine]

@[simp] theorem sendLines_mem (n : Nat) (s : State) (c : Nat) : (sendLines n s c).mem = s.mem := by
  induction n generalizing s with
  | zero => rfl
  | succ n ih =>
    unfold sendLines; repeat' split
    all_goals simp [ih]

/-- The state that a fetch leaves. -/
def Fetched.after : Fetched → State
  | .line _ t | .fails _ t | .asks _ t => t

theorem fetchFor_mem (s : State) (k : Nat) (launch : Option Nat) (pc : Word) : (fetchFor s k launch pc).after.mem = s.mem := by
  unfold fetchFor
  dsimp only
  split
  · rfl
  · split
    · simp [Fetched.after]
    · next ht =>
      repeat' split
      all_goals simp [Fetched.after, translate_mem ht]

theorem fetchLine_mem (s : State) (k i : Nat) (pc : Word) : (fetchLine s k i pc).after.mem = s.mem := fetchFor_mem ..

@[simp] theorem fetchAhead_mem (s : State) (k : Nat) (launch : Option Nat) (line : Word) : (fetchAhead s k launch line).mem = s.mem := by
  have hf := fetchFor_mem s k launch line
  unfold fetchAhead
  dsimp only
  split
  all_goals
    next ht =>
    rw [ht] at hf
    simp only [Fetched.after] at hf
    simp [hf]

@[simp] theorem fetchWanted_mem (s : State) (k : Nat) : (fetchWanted s k).mem = s.mem := by
  unfold fetchWanted
  rw [← List.foldl_reverse, foldl_mem fun _ _ => by simp]
  simp

@[simp] theorem forgetLine_mem (s : State) (k i : Nat) (pc : Word) : (forgetLine s k i pc).mem = s.mem := by
  unfold forgetLine; split <;> simp

@[simp] theorem poisonedLine_mem (s : State) (k i pa : Nat) : (poisonedLine s k i pa).mem = s.mem := by simp [poisonedLine]

theorem execLineFill_answers {core slot : Nat} {s : State} (h : P s.mem) : Answers P (execLineFill core slot s) := by
  unfold execLineFill
  dsimp only
  generalize hu : fetchWanted (sendLines 8 s (clusterOfKey core)) core = u
  have hum : u.mem = s.mem := by simp [← hu]
  split
  · simpa [hum] using h
  · have hf := fetchLine_mem (forgetLine u core slot (slotOf u core slot).pc) core slot (slotOf u core slot).pc
    split
    all_goals
      next ht =>
      rw [ht] at hf
      simp only [Fetched.after, forgetLine_mem, hum] at hf
      simp [hf, hum, h]

theorem nextAfter_keeps {k i : Nat} {pc : Word} {s : State} (h : P s.mem) : (nextAfter s k i pc).Keeps P := by
  have hf : P (fetchLine s k i (lineBase pc + 2#64)).after.mem := by rw [fetchLine_mem]; exact h
  unfold nextAfter
  split
  · exact h
  · split
    · next ht => rw [ht] at hf; exact hf
    · next ht => rw [ht] at hf; exact awaitBeats_keeps h (by simpa [Fetched.after] using hf)
    · next ht => rw [ht] at hf; exact awaitBeats_keeps h hf

theorem execTrap_answers {imm : BitVec 16} {s : State} (h : P s.mem) : Answers P (execTrap imm s) := run_answers h trivial

theorem execBkpt_answers {s : State} (h : P s.mem) : Answers P (execBkpt s) := run_answers h trivial

theorem execTret_answers {s : State} (h : P s.mem) : Answers P (execTret s) := by
  unfold execTret
  dsimp only
  refine runEnd_answers h ?_
  split
  · trivial
  · split
    · exact .bind (nextAfter_keeps h) fun _ _ h => by simp [h]
    · simp [h]

theorem execIllegalEncoding_answers {s : State} (h : P s.mem) : Answers P (execIllegalEncoding s) := by
  unfold execIllegalEncoding
  refine run_answers h ?_
  split <;> simp

theorem popFields_keeps {ns : List Name} {s : State} (h : P s.mem) : (popFields ns s).Keeps P := by
  induction ns generalizing s with
  | nil => exact h
  | cons n ns ih =>
    unfold popFields
    split
    · exact .bind (popQueue_keeps h) fun _ _ h => ih h
    · exact ih h

theorem execCheckerReplay_answers {s : State} (h : P s.mem) : Answers P (execCheckerReplay s) := by
  have popped : (popFields (latchedPops s) s).Keeps P := popFields_keeps h
  unfold execCheckerReplay
  dsimp only
  split
  · split
    · next ht => rw [ht] at popped; simpa using popped
    · simp [h]
  · simp [h]

theorem execSetrm_answers {mode : BitVec 3} {s : State} (h : P s.mem) : Answers P (execSetrm mode s) := by
  unfold execSetrm
  refine run_answers h ?_
  split <;> simp [h]

theorem awaitEarlier_keeps {s : State} (h : P s.mem) : (awaitEarlier s).Keeps P := by
  unfold awaitEarlier
  split <;> simp [h]

theorem execFlagrd_answers {b : Name} {s : State} (h : P s.mem) : Answers P (execFlagrd b s) :=
  run_answers h (.seq (awaitEarlier_keeps h) fun _ h => writeName_keeps h)

theorem execFlagclr_answers {mask : BitVec 8} {s : State} (h : P s.mem) : Answers P (execFlagclr mask s) :=
  run_answers h (.seq (awaitEarlier_keeps h) fun _ h => by simp [h])

@[simp] theorem invalidate_mem (s : State) (kind own : Nat) (launch : Option Nat) (va : Nat) : (invalidate s kind own launch va).mem = s.mem := by
  simp [invalidate]

theorem execTlbinv_answers {b : Name} {kind : BitVec 3} {s : State} (h : P s.mem) : Answers P (execTlbinv b kind s) := by
  refine run_answers h ?_
  dsimp only
  split
  · trivial
  · split
    · trivial
    · refine .bind (readName_keeps h) fun _ _ h1 => ?_
      split <;> simp [h, h1]

theorem execQuiesce_answers {s : State} (h : P s.mem) : Answers P (execQuiesce s) := by
  unfold execQuiesce
  refine run_answers h ?_
  split <;> simp [h]

@[simp] theorem haltStrand_mem (s : State) (k i : Nat) : (haltStrand s k i).mem = s.mem := by
  unfold haltStrand; split <;> simp

@[simp] theorem releaseStrand_mem (s : State) (k i : Nat) : (releaseStrand s k i).mem = s.mem := by
  unfold releaseStrand; split <;> simp

theorem execHaltCore_answers {core : Nat} {s : State} (h : P s.mem) : Answers P (execHaltCore core s) := by
  unfold execHaltCore
  repeat' split
  all_goals simp [h]

theorem execReleaseCore_answers {core : Nat} {s : State} (h : P s.mem) : Answers P (execReleaseCore core s) := by
  unfold execReleaseCore
  split <;> simp [h]

theorem execResumeSlot_answers {core slot : Nat} {s : State} (h : P s.mem) : Answers P (execResumeSlot core slot s) := by
  have next : (nextAfter s core slot (slotOf s core slot).trapPc).Keeps P := nextAfter_keeps h
  unfold execResumeSlot
  dsimp only
  split
  · simp [h]
  · split
    · split
      · next ht => rw [ht] at next; simpa using next
      · next ht => rw [ht] at next; simpa using next
      · exact h
    · simp [h]

@[simp] theorem afterFree_mem (s : State) (k i : Nat) (x : Slot) (t : State) : (afterFree s k i x t).mem = t.mem := by
  unfold afterFree
  dsimp only
  repeat' split
  all_goals simp

theorem execFreeSlot_answers {core slot : Nat} {s : State} (h : P s.mem) : Answers P (execFreeSlot core slot s) := by
  unfold execFreeSlot
  dsimp only
  split <;> simp [h]

theorem execHuskSlot_answers {core slot addr : Nat} {s : State} (h : P s.mem) : Answers P (execHuskSlot core slot addr s) := by
  unfold execHuskSlot
  dsimp only
  repeat' split
  all_goals simp [h]

theorem execResetAndUnsealCore_answers {core : Nat} {s : State} (h : P s.mem) : Answers P (execResetAndUnsealCore core s) := by
  unfold execResetAndUnsealCore
  dsimp only
  split <;> simp [h]

@[simp] theorem setDuty_mem (d : Nat) (s : State) (k : Nat) : (setDuty d s k).mem = s.mem := by simp [setDuty]

@[simp] theorem setCap_mem (s : State) (q f : Nat) : (setCap s q f).mem = s.mem := by simp [setCap]

@[simp] theorem applyGrant_mem (budget total : Nat) (demand : List Nat) (s : State) (q : Nat) : (applyGrant budget total demand s q).mem = s.mem := by
  simp [applyGrant]

theorem execThermalSample_answers {quad : Nat} {sensor : Int} {s : State} (h : P s.mem) : Answers P (execThermalSample quad sensor s) := by
  unfold execThermalSample
  dsimp only
  repeat' split
  all_goals simp [h]

/-! ### Placement -/

@[simp] theorem enterLaunch_mem (s : State) (q : Nat) (ext : List Byte) : (enterLaunch s q ext).mem = s.mem := by
  unfold enterLaunch; split <;> simp

@[simp] theorem packetDone_mem (s : State) (q : Nat) : (packetDone s q).mem = s.mem := by simp [packetDone]

theorem packetFault_canonical {s : State} (h : Canonical s) (q : Nat) (m : BitVec 32 × List Byte) (cause : Nat) :
    Canonical (packetFault s q m cause) :=
  postRecord_canonical (h.of_mem (by simp)) ..

theorem signalRecord_canonical {s : State} (h : Canonical s) (q : Nat) (m : BitVec 32 × List Byte) : Canonical (signalRecord s q m) := by
  unfold signalRecord; split
  · exact postRecord_canonical h ..
  · exact h

theorem peerPacket_canonical {s : State} (h : Canonical s) (q : Nat) (m : BitVec 32 × List Byte) (kind : Nat) (payload : List Byte)
    {done : Word → State → State} (hd : ∀ w, Canonical (done w s)) : Canonical (peerPacket s q m kind payload done) := by
  unfold peerPacket
  dsimp only
  split
  · exact hd _
  · exact packetFault_canonical h ..
  · split
    · exact h
    · split
      · exact packetFault_canonical h ..
      · exact h.of_mem (by simp)

theorem actSignal_canonical {s : State} (h : Canonical s) (q : Nat) (m : BitVec 32 × List Byte) : Canonical (actSignal s q m) := by
  unfold actSignal
  dsimp only
  split
  · exact h
  · split
    · exact peerPacket_canonical h _ _ _ _ fun _ => signalRecord_canonical (h.of_mem (packetDone_mem ..)) ..
    · have h1 := h.of_mem (scrubWord_mem s (localPa s (pktField m.2 8 8)))
      split
      · exact h
      · split
        · exact packetFault_canonical h1 ..
        · exact signalRecord_canonical ((replayParked_canonical (performStore_canonical h1 _ _)).of_mem (packetDone_mem ..)) ..

theorem actWait_canonical {s : State} (h : Canonical s) (q : Nat) (m : BitVec 32 × List Byte) : Canonical (actWait s q m) := by
  unfold actWait
  dsimp only
  split
  · refine peerPacket_canonical h _ _ _ _ fun _ => ?_
    split <;> exact h.of_mem (by simp)
  · have h1 := h.of_mem (memoryRead_mem s (localPa s (pktField m.2 8 8)) 8)
    split
    · exact h
    · split
      · exact h.of_mem (heldBack_mem ..)
      · split
        · exact packetFault_canonical h1 ..
        · split
          · exact h1.of_mem (packetDone_mem ..)
          · exact h1

theorem consume_canonical {s : State} (h : Canonical s) (q : Nat) : Canonical (consume s q) :=
  takePacket_canonical (h.of_mem (by simp)) ..

theorem actPacket_canonical {s : State} (h : Canonical s) (q : Nat) (m : BitVec 32 × List Byte) : Canonical (actPacket s q m) := by
  unfold actPacket
  split
  · repeat' split
    all_goals exact h.of_mem (by simp)
  · exact actSignal_canonical h q m
  · exact actWait_canonical h q m
  · split <;> exact h.of_mem (by simp)
  · exact h.of_mem (packetDone_mem ..)

theorem packetStep_answers {want : Nat → Bool} {q : Nat} {s : State} (h : CanonicalMem s.mem) :
    Answers CanonicalMem (packetStep want q s) := by
  unfold packetStep
  split
  · rw [answers_next]
    split
    · exact goOnChecking_canonical (h : Canonical s) q
    · exact h
  · split
    · split
      · split
        · exact actPacket_canonical (h : Canonical s) ..
        · exact h
      · exact h
    · split
      · exact consume_canonical (h : Canonical s) q
      · exact h

theorem execNopPacket_answers {queue : Nat} {s : State} (h : CanonicalMem s.mem) : Answers CanonicalMem (execNopPacket queue s) :=
  packetStep_answers h

theorem execLaunch_answers {queue : Nat} {s : State} (h : CanonicalMem s.mem) : Answers CanonicalMem (execLaunch queue s) := packetStep_answers h

theorem execLaunchExt_answers {queue : Nat} {s : State} (h : CanonicalMem s.mem) : Answers CanonicalMem (execLaunchExt queue s) :=
  packetStep_answers h

theorem execSheafBegin_answers {queue : Nat} {s : State} (h : CanonicalMem s.mem) : Answers CanonicalMem (execSheafBegin queue s) :=
  packetStep_answers h

theorem execSheafCommit_answers {queue : Nat} {s : State} (h : CanonicalMem s.mem) : Answers CanonicalMem (execSheafCommit queue s) :=
  packetStep_answers h

theorem execSignal_answers {queue : Nat} {s : State} (h : CanonicalMem s.mem) : Answers CanonicalMem (execSignal queue s) := packetStep_answers h

theorem execWaitPacket_answers {queue : Nat} {s : State} (h : CanonicalMem s.mem) : Answers CanonicalMem (execWaitPacket queue s) :=
  packetStep_answers h

theorem execWaitPoll_answers {queue : Nat} {s : State} (h : CanonicalMem s.mem) : Answers CanonicalMem (execWaitPoll queue s) := by
  unfold execWaitPoll
  split
  · split
    · split
      · exact actWait_canonical (h : Canonical s) ..
      · exact h
    · exact h
  · exact h

@[simp] theorem loadMap_mem (s : State) (k : Nat) (h : Option (List Parcel)) : (loadMap s k h).mem = s.mem := by
  unfold loadMap; split <;> simp

theorem takeBarriers_mem {s t : State} {id c : Nat} {x : Launch} (h : takeBarriers s id x c = some t) : t.mem = s.mem := by
  unfold takeBarriers at h
  split at h
  · cases h; rfl
  · dsimp only at h
    split at h
    · cases h
    · cases h; simp

@[simp] theorem freshCore_mem (s : State) (k : Nat) : (freshCore s k).mem = s.mem := by simp [freshCore]

theorem execLaunchPlacement_answers {launch core : Nat} {s : State} (h : CanonicalMem s.mem) :
    Answers CanonicalMem (execLaunchPlacement launch core s) := by
  have h1 : Canonical (dropMap s core) := Canonical.of_mem h (dropMap_mem ..)
  unfold execLaunchPlacement
  dsimp only
  split
  · exact h1
  · split
    · exact h1
    · split
      · exact h1
      · next ht =>
        have h2 := h1.of_mem (takeBarriers_mem ht)
        split
        · refine Canonical.of_mem ?_ (modLaunch_mem ..)
          refine Canonical.of_mem ?_ (loadMap_mem ..)
          refine Canonical.of_mem ?_ (freshCore_mem ..)
          split
          · exact h2
          · exact (clearQuad_canonical h2 _).of_mem (modQuad_mem ..)
        · exact h2

@[simp] theorem seedNames_mem (seeds : List Word) (k : Nat) (s : State) (core slot : Nat) : (seedNames seeds k s core slot).mem = s.mem := by
  induction seeds generalizing k s with
  | nil => rfl
  | cons _ _ ih =>
    unfold seedNames; repeat' split
    all_goals simp [ih]

@[simp] theorem freshSteps_mem (s : State) (c l : Nat) : (freshSteps s c l).mem = s.mem := by simp [freshSteps]

theorem seed_mem {s t : State} {id k i : Nat} {x : Launch} (h : seed s id x k i = some t) : t.mem = s.mem := by
  unfold seed at h
  dsimp only at h
  split at h
  · cases h
  · split at h
    · cases h
    · next hm =>
      cases h
      simp [placeMap_mem hm]

@[simp] theorem addCredits_mem (s : State) (k : Nat) : (addCredits s k).mem = s.mem := by simp [addCredits]

@[simp] theorem spendCredit_mem (s : State) (k q : Nat) : (spendCredit s k q).mem = s.mem := by simp [spendCredit]

@[simp] theorem leaveUnseated_mem (s : State) (k q : Nat) : (leaveUnseated s k q).mem = s.mem := by simp [leaveUnseated]

@[simp] theorem grants_mem (n : Nat) (out : List Nat) (s : State) (k : Nat) : (grants n out s k).mem = s.mem := by
  induction n generalizing out s with
  | zero => rfl
  | succ n ih =>
    unfold grants
    split
    · split
      · rfl
      · split
        · simp [ih]
        · next ht => simp [ih, seed_mem ht]
    · rfl

@[simp] theorem retrySeeds_mem (qs : List Nat) (s : State) (k : Nat) : (retrySeeds qs s k).mem = s.mem := by
  induction qs generalizing s with
  | nil => rfl
  | cons _ _ ih =>
    unfold retrySeeds
    split
    · exact ih s
    · split
      · simp [ih]
      · split
        · simp [ih]
        · next ht => simp [ih, seed_mem ht]

theorem execSlotArbiterBoundary_answers {core : Nat} {s : State} (h : P s.mem) : Answers P (execSlotArbiterBoundary core s) := by
  unfold execSlotArbiterBoundary
  dsimp only
  repeat' split
  all_goals simp [h]

@[simp] theorem restQueue_mem (s : State) (q : Nat) : (restQueue s q).mem = s.mem := by simp [restQueue]

@[simp] theorem endFailed_mem (s : State) (l : Nat) : (endFailed s l).mem = s.mem := by
  unfold endFailed; split <;> simp

theorem execLaunchCompletion_answers {launch : Nat} {s : State} (h : CanonicalMem s.mem) : Answers CanonicalMem (execLaunchCompletion launch s) := by
  unfold execLaunchCompletion
  dsimp only
  split
  · simp [h]
  · split
    · split
      · split
        · simp [h]
        · exact postRecord_canonical (Canonical.of_mem h (by simp)) _ _
      · simp [h]
    · split
      · split
        · simp [h]
        · exact postRecord_canonical (Canonical.of_mem h (by simp)) _ _
      · simp [h]

/-! ### Mailbox -/

@[simp] theorem mboxEnd_mem (s : State) (refused : Option Nat) : (mboxEnd s refused).mem = s.mem := by simp [mboxEnd]

theorem onQueue_canonical {q : Nat} {f : State → State} {s : State} (h : Canonical s) (hf : Canonical (f s)) : Canonical (onQueue q f s) := by
  unfold onQueue; split
  · exact h.of_mem (mboxEnd_mem ..)
  · exact hf

@[simp] theorem onQueue_mem {q : Nat} {f : State → State} {s : State} (hf : (f s).mem = s.mem) : (onQueue q f s).mem = s.mem := by
  unfold onQueue; split <;> simp [hf]

@[simp] theorem fetchArea_mem (s : State) (a n : Nat) : (fetchArea s a n).mem = s.mem := by simp [fetchArea]

theorem onArea_canonical {i : Instr} {a n : Nat} {f : State → State} {s : State} (h : Canonical s) (hf : ∀ t, Canonical t → Canonical (f t)) :
    Canonical (onArea i a n f s) := by
  unfold onArea; dsimp only; split
  · exact h.of_mem (by simp)
  · exact hf _ (h.of_mem (fetchArea_mem ..))

@[simp] theorem onArea_mem {i : Instr} {a n : Nat} {f : State → State} {s : State} (hf : ∀ t, (f t).mem = t.mem) :
    (onArea i a n f s).mem = s.mem := by
  unfold onArea; dsimp only; split <;> simp [hf]

@[simp] theorem readArea_mem {i : Instr} {a n : Nat} {f : State → State} {s : State} (hf : ∀ t, (f t).mem = t.mem) :
    (readArea i a n f s).mem = s.mem := by
  unfold readArea
  split
  · split <;> simp
  · exact onArea_mem hf

theorem readArea_canonical {i : Instr} {a n : Nat} {f : State → State} {s : State} (h : Canonical s) (hf : ∀ t, Canonical t → Canonical (f t)) :
    Canonical (readArea i a n f s) := by
  unfold readArea
  split
  · split <;> exact h.of_mem (by simp)
  · exact onArea_canonical h hf

theorem saveHusks_canonical {s : State} (h : Canonical s) (records spills : Nat) (l : List (List Byte × List Byte)) :
    Canonical (saveHusks records spills l s) := by
  unfold saveHusks
  exact foldl_canonical (fun _ _ h => writePhys_canonical (writePhys_canonical h ..) ..) h _

theorem saveQueue_canonical {s : State} (h : Canonical s) (q : Nat) : Canonical (saveQueue s q) := by
  unfold saveQueue
  refine Canonical.of_mem (foldl_canonical (fun t e ht => postRecord_canonical (ht.of_mem (modLaunch_mem ..)) ..) ?_ _) (modQueue_mem ..)
  exact saveHusks_canonical (writePhys_canonical h ..) ..

@[simp] theorem startPreempt_mem (s : State) (q : Nat) : (startPreempt s q).mem = s.mem := by simp [startPreempt]

theorem execPreempt_answers {queue : Nat} {s : State} (h : CanonicalMem s.mem) : Answers CanonicalMem (execPreempt queue s) := by
  refine onQueue_canonical (h : Canonical s) ?_
  split
  · exact Canonical.of_mem h (startPreempt_mem ..)
  · split
    · exact saveQueue_canonical (h : Canonical s) _
    · exact h

theorem execPreemptDeadline_answers {queue : Nat} {s : State} (h : P s.mem) : Answers P (execPreemptDeadline queue s) := by
  unfold execPreemptDeadline
  dsimp only
  split <;> simp [h]

@[simp] theorem startResume_mem (s : State) (q : Nat) : (startResume s q).mem = s.mem := by
  unfold startResume
  dsimp only
  split
  · simp
  · split
    · simp
    · refine readArea_mem fun t => ?_
      split
      · simp
      · split
        · rw [mboxEnd_mem, modQueue_mem]; exact foldl_mem (fun _ _ => by simp) _ _
        · simp

@[simp] theorem nextRestart_mem (s : State) (q : Nat) : (nextRestart s q).mem = s.mem := by simp [nextRestart]

theorem lacksBytes_mem {s lost u : State} {q a n : Nat} (h : s.mem = u.mem) (hl : lost.mem = u.mem) : (lacksBytes s q a n lost).mem = u.mem := by
  unfold lacksBytes; split <;> simp [h, hl]

@[simp] theorem restartHusk_mem (s : State) (q a : Nat) : (restartHusk s q a).mem = s.mem := by
  unfold restartHusk
  split
  · exact lacksBytes_mem rfl (by simp)
  · dsimp only
    generalize ht : (if (queueOf s q).codeBuf.isEmpty then _ else _ : State) = t
    have hm : t.mem = s.mem := by rw [← ht]; split <;> simp
    have hr : ((readWords a (BitVec.ofNat 64 a) 8 t).readThen fun ws u => huskFrom ws u).Keeps (· = s.mem) :=
      .readThen (readWords_keeps hm) fun _ _ h => huskFrom_keeps h
    split
    case h_1 hx => rw [hx] at hr; simp only [keeps_ok] at hr; split <;> simpa using hr
    case h_2 => simp
    case h_3 hx => rw [hx] at hr; simp only [keeps_trapIn] at hr; split <;> simpa using hr
    case h_4 => simp
    case h_5 =>
      split
      · exact lacksBytes_mem (by simp) (by simp)
      · simp
    case h_6 => simp
    case h_7 => rfl

theorem execResumeq_answers {queue : Nat} {s : State} (h : P s.mem) : Answers P (execResumeq queue s) := by
  unfold execResumeq
  rw [answers_next, onQueue_mem]
  · exact h
  · repeat' split
    all_goals simp

theorem resetLaunch_canonical {s : State} (h : Canonical s) (q : Nat) (e : Nat × Launch) : Canonical (resetLaunch q s e) :=
  postRecord_canonical (h.of_mem (by simp)) ..

@[simp] theorem endReset_mem (s : State) (q : Nat) : (endReset s q).mem = s.mem := by simp [endReset]

theorem resetQueue_canonical {s : State} (h : Canonical s) (q : Nat) : Canonical (resetQueue s q) := by
  unfold resetQueue
  dsimp only
  refine Canonical.of_mem (s := List.foldl _ _ _) ?_ ((endReset_mem ..).trans (modQueue_mem ..))
  exact foldl_canonical (fun _ _ h => postRecord_canonical h ..) (foldl_canonical (fun _ e h => resetLaunch_canonical h q e) h _) _

theorem execSeal_answers {s : State} (h : CanonicalMem s.mem) : Answers CanonicalMem (execSeal s) := by
  refine readArea_canonical (h : Canonical s) fun t ht => ?_
  dsimp only
  split
  · exact ht.of_mem (mboxEnd_mem ..)
  · exact (writePhys_canonical ht ..).of_mem (mboxEnd_mem ..)

theorem execFwstage_answers {s : State} (h : P s.mem) : Answers P (execFwstage s) := by
  unfold execFwstage
  dsimp only
  rw [answers_next, readArea_mem]
  · exact h
  · intro t
    repeat' split
    all_goals simp

theorem execFwactivate_answers {s : State} (h : CanonicalMem s.mem) : Answers CanonicalMem (execFwactivate s) := by
  unfold execFwactivate
  split
  · simp [h]
  · split
    · simp [h]
    · split
      · simp [h]
      · split
        · exact postRecord_canonical (Canonical.of_mem h (by simp)) _ _
        · simp [h]

theorem execAttest_answers {s : State} (h : CanonicalMem s.mem) : Answers CanonicalMem (execAttest s) := by
  unfold execAttest
  dsimp only
  split
  · simp [h]
  · refine onArea_canonical (h : Canonical s) fun t ht => ?_
    split
    · exact ht.of_mem (mboxEnd_mem ..)
    · exact (writePhys_canonical ht ..).of_mem (mboxEnd_mem ..)

theorem execSetmigt_answers {s : State} (h : P s.mem) : Answers P (execSetmigt s) := by
  unfold execSetmigt
  dsimp only
  split <;> simp [h]

theorem execSecregion_answers {s : State} (h : CanonicalMem s.mem) : Answers CanonicalMem (execSecregion s) := by
  unfold execSecregion
  dsimp only
  split
  · simp [h]
  · split
    · simp [h]
    · split
      · simp [h]
      · exact (clearMoved_canonical (Canonical.of_mem h (modDev_mem ..))).of_mem (mboxEnd_mem ..)

/-! ### HostPort -/

@[simp] theorem commitSlot_mem (s : State) (q : Nat) (v : Word) : (commitSlot s q v).mem = s.mem := by simp [commitSlot]

@[simp] theorem writeQctl_mem (s : State) (q : Nat) (v : Word) : (writeQctl s q v).mem = s.mem := by simp [writeQctl]

theorem writeQueueReg_canonical {s : State} (h : Canonical s) (q off : Nat) (v : Word) : Canonical (writeQueueReg s q off v) := by
  unfold writeQueueReg
  dsimp only
  split
  · split
    · exact h
    · exact h.of_mem (modQueue_mem ..)
  · split
    · split
      · exact h
      · exact h.of_mem (modQueue_mem ..)
    · split
      · exact h.of_mem (writeQctl_mem ..)
      · split
        · exact h.of_mem (commitSlot_mem ..)
        · split
          · split
            · exact h
            · exact h.of_mem (modQueue_mem ..)
          · split
            · exact (flushRecords_canonical _ (h.of_mem (modQueue_mem ..)) q).of_mem (endReset_mem ..)
            · exact h

@[simp] theorem writeMcmd_mem (s : State) (v : Word) : (writeMcmd s v).mem = s.mem := by
  unfold writeMcmd; dsimp only; repeat' split
  all_goals simp

theorem barWrite_canonical {s : State} (h : Canonical s) (off : Nat) (v : Word) : Canonical (barWrite s off v) := by
  unfold barWrite
  iterate 6
    split
    · exact h.of_mem (by simp)
  split
  · exact writeQueueReg_canonical h ..
  · exact h

theorem execRegisterWrite_answers {off : Nat} {v : Word} {s : State} (h : CanonicalMem s.mem) :
    Answers CanonicalMem (execRegisterWrite off v s) := barWrite_canonical (h : Canonical s) off v

theorem execResvRead_answers {queue : Nat} {s : State} (h : P s.mem) : Answers P (execResvRead queue s) := by
  unfold execResvRead
  split <;> simp [h]

theorem execHostCxlMemAccess_answers {write : Bool} {off : Nat} {data : List Byte} {s : State}
    (h : P s.mem) : Answers P (execHostCxlMemAccess write off data s) := by
  unfold execHostCxlMemAccess
  repeat' split
  all_goals simp [h]

theorem execDeviceReset_answers {s : State} (h : CanonicalMem s.mem) : Answers CanonicalMem (execDeviceReset s) := Memory.wf_filter h _

theorem execRecovery_answers {s : State} (h : CanonicalMem s.mem) : Answers CanonicalMem (execRecovery s) := by
  unfold execRecovery
  exact (foldl_canonical (fun _ _ h => postRecord_canonical h ..) (h : Canonical s) _).of_mem (modDev_mem ..)

/-! ### Sequencer -/

theorem vecEffect_keeps {x : VExec} {i : Instr} {s : State} (h : CanonicalMem s.mem) : (vecEffect x i s).Keeps CanonicalMem := by
  unfold vecEffect
  split
  · exact binaryRow_keeps h
  · exact binaryRow_keeps h
  · exact binaryRow_keeps h
  · exact binaryRow_keeps h
  · exact binaryRow_keeps h
  · exact bitsRow_keeps h
  · exact bitsRow_keeps h
  · exact bitsRow_keeps h
  · exact binaryRow_keeps h
  · exact binaryRow_keeps h
  · exact binaryRow_keeps h
  · exact binaryRow_keeps h
  · exact binaryRow_keeps h
  · exact fmaRow_keeps h
  · exact fmaRow_keeps h
  · exact selRow_keeps h
  · simp [h]
  · exact unaryRow_keeps h
  · exact unaryRow_keeps h
  · exact unaryRow_keeps h
  · exact unaryRow_keeps h
  · exact unaryRow_keeps h
  · exact unaryRow_keeps h
  · exact unaryRow_keeps h
  · exact vcvtRow_keeps h
  · exact vqntRow_keeps h
  · exact vdqntRow_keeps h
  · exact voutlRow_keeps h
  · exact vldRow_keeps h
  · exact vstRow_keeps h
  · exact vldbRow_keeps h
  · exact vstbRow_keeps h
  · exact vtoqRow_keeps h
  · exact vfromqRow_keeps h
  · exact outcomeRow_keeps h
  · exact outcomeRow_keeps h
  · exact h

@[simp] theorem modSeq_mem (f : Sequencer → Sequencer) (s : State) : (modSeq f s).mem = s.mem := by simp [modSeq]

theorem vecWindow_keeps {b c : Name} {s : State} (h : P s.mem) : (vecWindow b c s).Keeps P := by
  unfold vecWindow
  refine .bind (readName_keeps h) fun _ _ h => ?_
  refine .bind (readName_keeps h) fun _ _ h => ?_
  split <;> simp [h]

theorem recordVec_keeps {i : Instr} {m : Word × Int} {s : State} (h : P s.mem) : (recordVec i m s).Keeps P := by
  unfold recordVec
  split <;> simp [h]

theorem issueVec_keeps {i : Instr} {operands : State → Ans (Word × Int)} {s : State} (h : CanonicalMem s.mem)
    (ho : ∀ t, CanonicalMem t.mem → (operands t).Keeps CanonicalMem) : (issueVec i operands s).Keeps CanonicalMem := by
  unfold issueVec
  dsimp only
  split
  · trivial
  · split
    · trivial
    · refine .seq ?_ fun _ h => ?_
      · split
        · exact raisePoint_keeps h
        · exact h
      split
      · trivial
      · refine .bind (ho _ h) fun _ _ h => ?_
        split
        · exact recordVec_keeps h
        · exact vecEffect_keeps h

/-- A vector instruction with no scalar operands. -/
theorem runVec_answers {i : Instr} {s : State} (h : CanonicalMem s.mem) : Answers CanonicalMem (run (issueVec i noOperands) s) :=
  run_answers h (issueVec_keeps h fun _ h => h)

/-- One with a window and an offset. -/
theorem runVecWindow_answers {i : Instr} {b c : Name} {s : State} (h : CanonicalMem s.mem) :
    Answers CanonicalMem (run (issueVec i (vecWindow b c)) s) :=
  run_answers h (issueVec_keeps h fun _ h => vecWindow_keeps h)

theorem asOwner_keeps {f : State → Ans Unit} {s : State} (hf : (f s).Keeps P) : (asOwner f s).Keeps P := by
  unfold asOwner; split
  · trivial
  · split
    · exact hf
    · trivial

theorem execRpbegin_answers {s : State} (h : P s.mem) : Answers P (execRpbegin s) := by
  unfold execRpbegin
  refine run_answers h ?_
  repeat' split
  all_goals simp [h]

theorem execRpend_answers {s : State} (h : P s.mem) : Answers P (execRpend s) := by
  unfold execRpend
  refine run_answers h ?_
  refine asOwner_keeps ?_
  repeat' split
  all_goals simp [h]

theorem startRun_keeps {r : RpRun} {s : State} (h : P s.mem) : (startRun r s).Keeps P := by
  unfold startRun
  split
  · trivial
  · refine .seq (awaitLoads_keeps h) fun _ h => ?_
    refine .seq (awaitDrained_keeps h) fun _ h => ?_
    split <;> simp [h]

theorem beforeRun_keeps {f : State → Ans Unit} {s : State} (hf : (f s).Keeps P) : (beforeRun f s).Keeps P := by
  unfold beforeRun; split
  · trivial
  · split
    · trivial
    · exact hf

theorem execRprun_answers {b c : Name} {disp : BitVec 16} {s : State} (h : P s.mem) : Answers P (execRprun b c disp s) := by
  unfold execRprun
  dsimp only
  refine run_answers h ?_
  refine asOwner_keeps ?_
  refine beforeRun_keeps ?_
  refine .bind (readWindow_keeps h) fun _ _ h => ?_
  refine .bind (readName_keeps h) fun _ _ h => ?_
  refine .readThen (readWin_keeps h) fun _ _ h => ?_
  split
  · trivial
  · exact startRun_keeps h

theorem execRpruni_answers {n : BitVec 16} {s : State} (h : P s.mem) : Answers P (execRpruni n s) := by
  unfold execRpruni
  refine run_answers h ?_
  refine asOwner_keeps ?_
  refine beforeRun_keeps ?_
  split
  · trivial
  · exact startRun_keeps h

theorem execRpwait_answers {s : State} (h : P s.mem) : Answers P (execRpwait s) := by
  unfold execRpwait
  refine run_answers h ?_
  refine asOwner_keeps ?_
  split <;> simp [h]

@[simp] theorem atStrand_mem (s : State) (k i : Nat) : (atStrand s k i).mem = s.mem := by simp [atStrand]

@[simp] theorem setRun_mem (s : State) (k : Nat) (r : Option RpRun) : (setRun s k r).mem = s.mem := by simp [setRun]

theorem runEntry_canonical {s : State} (h : Canonical s) (k : Nat) : Canonical (runEntry s k) := by
  unfold runEntry
  dsimp only
  split
  · split
    · exact h
    · split
      · exact h.of_mem (setRun_mem ..)
      · split
        · exact h.of_mem (setRun_mem ..)
        · next i r _ _ _ _ _ e _ =>
          have effect : (vecEffect (runExec r e) e.instr (atStrand s k i)).Keeps CanonicalMem :=
            vecEffect_keeps (h.of_mem (atStrand_mem ..))
          split
          · exact h
          · split
            · next ht => rw [ht] at effect; exact Canonical.of_mem effect (setRun_mem ..)
            · exact h
  · exact h

theorem execRpRunEntry_answers {core : Nat} {s : State} (h : CanonicalMem s.mem) : Answers CanonicalMem (execRpRunEntry core s) :=
  runEntry_canonical (h : Canonical s) core

/-! ### Issue -/

@[simp] theorem prefetch_mem (s : State) (k i : Nat) (pc : Word) : (prefetch s k i pc).mem = s.mem := by simp [prefetch]

@[simp] theorem latch_mem (s : State) (k i : Nat) (ins : Instr) : (latch s k i ins).mem = s.mem := by simp [latch]

@[simp] theorem issueTurn_mem (s : State) (k : Nat) : (issueTurn s k).2.mem = s.mem := by
  unfold issueTurn; dsimp only; repeat' split
  all_goals simp

/-! ### Waits -/

@[simp] theorem huskWaiting_mem (s : State) (k i : Nat) : (huskWaiting s k i).mem = s.mem := by
  unfold huskWaiting; dsimp only; split <;> simp

@[simp] theorem endWait_mem (s : State) (k i : Nat) (w : Wait) : (endWait s k i w).mem = s.mem := by
  unfold endWait; dsimp only; repeat' split
  all_goals simp

theorem execWaitEnd_answers {core slot : Nat} {s : State} (h : P s.mem) : Answers P (execWaitEnd core slot s) := by
  unfold execWaitEnd
  repeat' split
  all_goals simp [h]

/-! ### WriteBack -/

@[simp] theorem lateFit_mem (s : State) (k i : Nat) (v : Word) : (lateFit s k i v).mem = s.mem := by
  unfold lateFit; split <;> simp

@[simp] theorem fillEntry_mem (s : State) (k q id : Nat) (v : Word) (mark bad : Bool) : (fillEntry s k q id v mark bad).mem = s.mem := by
  simp [fillEntry]

@[simp] theorem landName_mem (s : State) (k i : Nat) (n : Name) (v : Int) (poison : Bool) : (landName s k i n v poison).mem = s.mem := by
  unfold landName; repeat' split
  all_goals simp

@[simp] theorem landWb_mem (s : State) (k : Nat) (w : WriteBack) : (landWb s k w).mem = s.mem := by
  unfold landWb; repeat' split
  all_goals simp

theorem execWriteBackArrival_answers {core idx : Nat} {s : State} (h : P s.mem) : Answers P (execWriteBackArrival core idx s) := by
  unfold execWriteBackArrival
  dsimp only
  repeat' split
  all_goals simp [h]

theorem execPauseEnd_answers {core : Nat} {s : State} (h : P s.mem) : Answers P (execPauseEnd core s) := by
  unfold execPauseEnd
  dsimp only
  repeat' split
  all_goals simp [h]

theorem execLateFitTrap_answers {s : State} (h : P s.mem) : Answers P (execLateFitTrap s) := by
  unfold execLateFitTrap
  split <;> simp [h]

/-! ### Pending -/

@[simp] theorem takeAgenda_mem (s : State) (n : Nat) : (takeAgenda s n).2.mem = s.mem := by
  unfold takeAgenda; split <;> simp

theorem haste_mem {s : State} {r : Option Instr × State} (h : haste s = some r) : r.2.mem = s.mem := by
  unfold haste at h
  dsimp only at h
  split at h
  · cases h
  · split at h
    · cases h
    · split at h
      · cases h; simp
      · split at h
        · split at h <;> cases h <;> simp
        · cases h; simp

@[simp] theorem replayTurn_mem (s : State) (k : Nat) : (replayTurn s k).2.mem = s.mem := by
  unfold replayTurn
  split
  · next ht => rw [mem_of_snd ht, issueTurn_mem]
  · exact issueTurn_mem ..

theorem takeTurn_canonical {s : State} (h : Canonical s) (t : Turn) : Canonical (takeTurn t s).2 := by
  cases t with
  | issue k => exact h.of_mem (issueTurn_mem ..)
  | replay k => exact h.of_mem (replayTurn_mem ..)
  | agenda n => exact h.of_mem (takeAgenda_mem ..)
  | act i => unfold takeTurn; dsimp only; split <;> exact h
  | host a bs p => exact replayParked_canonical (performStore_canonical h ..)
  | flip wa bit => exact h.of_mem (flipBit_mem ..)
  | sector a media => unfold takeTurn; dsimp only; split <;> exact h

theorem owed_mem {s : State} {r : Option Instr × State} (h : owed s = some r) : r.2.mem = s.mem := by
  unfold owed at h
  split at h
  · cases h; rfl
  · obtain ⟨k, -, rfl⟩ := Option.map_eq_some_iff.1 h
    exact issueTurn_mem ..

theorem listedIssue_canonical {s : State} (h : Canonical s) (k : Nat) (t : Turn) (r : List Turn) : Canonical (listedIssue s k t r).2 := by
  unfold listedIssue
  split
  · exact takeTurn_canonical (s := { s with turns := r }) h t
  · split
    · next ho => exact h.of_mem (owed_mem ho)
    · dsimp only
      split
      · exact h
      · exact takeTurn_canonical (s := { tick s with turns := r }) h t

@[simp] theorem issueNext_mem (s : State) : (issueNext s).2.mem = s.mem := by
  unfold issueNext
  split
  · next ho => exact owed_mem ho
  · dsimp only
    split
    · rfl
    · split
      · exact issueTurn_mem ..
      · rfl

@[simp] theorem defaultTurn_mem (s : State) : (defaultTurn s).2.mem = s.mem := by
  unfold defaultTurn; dsimp only; repeat' split
  all_goals simp

theorem choose_canonical {s : State} (h : Canonical s) : Canonical (choose s).2 := by
  unfold choose
  split
  · exact h
  · split
    · next hh => exact h.of_mem (haste_mem hh)
    · split
      · exact listedIssue_canonical h ..
      · exact listedIssue_canonical h ..
      · next r _ _ _ => exact takeTurn_canonical (s := { s with turns := r }) h _
      · exact h.of_mem (defaultTurn_mem ..)

/-! ### The step -/

/-- Every instruction and every step of the device answers a next state, with memory in its canonical form. -/
theorem exec_answers {s : State} (h : CanonicalMem s.mem) : ∀ i, Answers CanonicalMem (exec i s)
  | .nop => execNop_answers h
  | .yield => execYield_answers h
  | .exit => execExit_answers h
  | .step => run_answers h (stepBody_keeps h)
  | .errfence => execErrfence_answers h
  | .hret => execHret_answers h
  | .wfe => execWfe_answers h
  | .tret => execTret_answers h
  | .bkpt => execBkpt_answers h
  | .migpt => execMigpt_answers h
  | .j _ => runJump_answers h (branchIf_keeps h)
  | .jl _ _ => execJl_answers h
  | .jr _ => execJr_answers h
  | .jlr _ _ => execJlr_answers h
  | .beq _ _ _ => runJump_answers h (branchOn_keeps h)
  | .bne _ _ _ => runJump_answers h (branchOn_keeps h)
  | .blt _ _ _ => runJump_answers h (branchOn_keeps h)
  | .ble _ _ _ => runJump_answers h (branchOn_keeps h)
  | .bgt _ _ _ => runJump_answers h (branchOn_keeps h)
  | .bge _ _ _ => runJump_answers h (branchOn_keeps h)
  | .bqt _ => runJump_answers h (branchOutcome_keeps h)
  | .bqf _ => runJump_answers h (branchOutcome_keeps h)
  | .bz _ _ => execBz_answers h
  | .bnz _ _ => execBnz_answers h
  | .loop _ _ => execLoop_answers h
  | .align _ _ => run_answers h (alignBody_keeps h)
  | .add _ _ _ => run_answers h (binary_keeps h)
  | .sub _ _ _ => run_answers h (binary_keeps h)
  | .and _ _ _ => run_answers h (binary_keeps h)
  | .or _ _ _ => run_answers h (binary_keeps h)
  | .xor _ _ _ => run_answers h (binary_keeps h)
  | .shl _ _ _ => run_answers h (binary_keeps h)
  | .shr _ _ _ => run_answers h (binary_keeps h)
  | .mul _ _ _ => run_answers h (binary_keeps h)
  | .mov _ _ => run_answers h (unary_keeps h)
  | .addi _ _ _ => run_answers h (unary_keeps h)
  | .rsubi _ _ _ => run_answers h (unary_keeps h)
  | .andi _ _ _ => run_answers h (unary_keeps h)
  | .ori _ _ _ => run_answers h (unary_keeps h)
  | .xori _ _ _ => run_answers h (unary_keeps h)
  | .shli _ _ _ => run_answers h (unary_keeps h)
  | .shri _ _ _ => run_answers h (unary_keeps h)
  | .muli _ _ _ => run_answers h (unary_keeps h)
  | .mini _ _ _ => run_answers h (unary_keeps h)
  | .maxi _ _ _ => run_answers h (unary_keeps h)
  | .ceqi _ _ _ => run_answers h (compareImm_keeps h)
  | .cnei _ _ _ => run_answers h (compareImm_keeps h)
  | .clti _ _ _ => run_answers h (compareImm_keeps h)
  | .clei _ _ _ => run_answers h (compareImm_keeps h)
  | .cgti _ _ _ => run_answers h (compareImm_keeps h)
  | .cgei _ _ _ => run_answers h (compareImm_keeps h)
  | .mulh _ _ _ => execMulh_answers h
  | .div _ _ _ => run_answers h (divide_keeps h)
  | .rem _ _ _ => run_answers h (divide_keeps h)
  | .andn _ _ _ => run_answers h (binary_keeps h)
  | .rot _ _ _ => execRot_answers h
  | .min _ _ _ => run_answers h (binary_keeps h)
  | .max _ _ _ => run_answers h (binary_keeps h)
  | .abs _ _ => run_answers h (unary_keeps h)
  | .neg _ _ => run_answers h (unary_keeps h)
  | .clz _ _ => run_answers h (unaryWidth_keeps h)
  | .ctz _ _ => run_answers h (unaryWidth_keeps h)
  | .popc _ _ => run_answers h (unaryWidth_keeps h)
  | .bfx _ _ _ _ => execBfx_answers h
  | .bfi _ _ _ _ => execBfi_answers h
  | .sel _ _ _ _ => execSel_answers h
  | .lea _ _ _ _ => run_answers h (binary_keeps h)
  | .ceq _ _ _ => run_answers h (compare_keeps h)
  | .cne _ _ _ => run_answers h (compare_keeps h)
  | .clt _ _ _ => run_answers h (compare_keeps h)
  | .cle _ _ _ => run_answers h (compare_keeps h)
  | .cgt _ _ _ => run_answers h (compare_keeps h)
  | .cge _ _ _ => run_answers h (compare_keeps h)
  | .movi _ _ => execMovi_answers h
  | .mapld _ _ _ => run_answers h (mapldBody_keeps h)
  | .maprel => execMaprel_answers h
  | .resize _ _ => execResize_answers h
  | .resizev _ _ => execResizev_answers h
  | .setmode _ _ _ => execSetmode_answers h
  | .widthof _ _ => run_answers h (query_keeps h)
  | .modeof _ _ => run_answers h (query_keeps h)
  | .seatof _ _ => run_answers h (query_keeps h)
  | .fork _ _ _ => run_answers h (forkBody_keeps h)
  | .huskSave _ _ _ => run_answers h (huskSave_keeps h)
  | .huskRun _ _ _ => endHuskRun_answers h (huskRun_keeps h)
  | .huskSaveg _ _ _ => run_answers h (huskSave_keeps h)
  | .huskRung _ _ _ => endHuskRun_answers h (huskRun_keeps h)
  | .evsend _ => execEvsend_answers h
  | .depset _ _ _ => run_answers h (depsetBody_keeps h)
  | .skewset _ => execSkewset_answers h
  | .ringset _ _ _ => execRingset_answers h
  | .pace => execPace_answers h
  | .unpace => execUnpace_answers h
  | .puts _ _ _ => execPuts_answers h
  | .gets _ _ _ _ _ => run_answers h (getsBody_keeps h)
  | .ldq _ _ _ _ _ => run_answers h (ldqBody_keeps h)
  | .stq _ _ _ _ _ => execStq_answers h
  | .ldb _ _ _ _ _ => execLdb_answers h
  | .stb _ _ _ _ _ => execStb_answers h
  | .ldg _ _ _ _ _ => execLdg_answers h
  | .stg _ _ _ _ _ => execStg_answers h
  | .ldfe _ _ _ _ => run_answers h (feRead_keeps h)
  | .ldff _ _ _ _ => run_answers h (feRead_keeps h)
  | .stfe _ _ _ _ => run_answers h (feWrite_keeps h)
  | .stff _ _ _ _ => run_answers h (feWrite_keeps h)
  | .fefull _ _ _ _ => run_answers h (feWrite_keeps h)
  | .feempty _ _ _ _ => run_answers h (feRead_keeps h)
  | .festate _ _ _ _ => run_answers h (feRead_keeps h)
  | .win _ _ _ _ _ => execWin_answers h
  | .fence _ _ => execFence_answers h
  | .ldacq _ _ _ _ _ => execLdacq_answers h
  | .strel _ _ _ _ _ => execStrel_answers h
  | .amo _ _ _ _ _ _ _ => execAmo_answers h
  | .cas _ _ _ _ _ _ _ => execCas_answers h
  | .red _ _ _ _ _ _ => execRed_answers h
  | .bar _ _ => run_answers h (barBody_keeps h)
  | .send _ _ _ _ _ => run_answers h (sendBody_keeps h)
  | .copy _ _ _ _ => run_answers h (copyBody_keeps h)
  | .xwait _ => execXwait_answers h
  | .rpbegin => execRpbegin_answers h
  | .rpend => execRpend_answers h
  | .rprun _ _ _ => execRprun_answers h
  | .rpruni _ => execRpruni_answers h
  | .rpwait => execRpwait_answers h
  | .vadd _ _ _ => runVec_answers h
  | .vsub _ _ _ => runVec_answers h
  | .vmul _ _ _ => runVec_answers h
  | .vmin _ _ _ => runVec_answers h
  | .vmax _ _ _ => runVec_answers h
  | .vand _ _ _ => runVec_answers h
  | .vor _ _ _ => runVec_answers h
  | .vxor _ _ _ => runVec_answers h
  | .vshl _ _ _ => runVec_answers h
  | .vshr _ _ _ => runVec_answers h
  | .vceq _ _ _ => runVec_answers h
  | .vclt _ _ _ => runVec_answers h
  | .vcle _ _ _ => runVec_answers h
  | .vfma _ _ _ _ => runVec_answers h
  | .vfms _ _ _ _ => runVec_answers h
  | .vsel _ _ _ _ => runVec_answers h
  | .vmov _ _ => runVec_answers h
  | .vabs _ _ => runVec_answers h
  | .vneg _ _ => runVec_answers h
  | .vexp2 _ _ => runVec_answers h
  | .vlog2 _ _ => runVec_answers h
  | .vrcp _ _ => runVec_answers h
  | .vrsq _ _ => runVec_answers h
  | .vfloor _ _ => runVec_answers h
  | .vcvt _ _ _ => runVec_answers h
  | .vqnt _ _ _ _ => runVec_answers h
  | .vdqnt _ _ _ => runVec_answers h
  | .voutl _ _ _ => runVec_answers h
  | .vld _ _ _ _ => runVecWindow_answers h
  | .vst _ _ _ _ => runVecWindow_answers h
  | .vldb _ _ _ _ => runVecWindow_answers h
  | .vstb _ _ _ _ => runVecWindow_answers h
  | .vtoq _ _ => runVec_answers h
  | .vfromq _ _ => runVec_answers h
  | .vanyq _ _ => runVec_answers h
  | .vallq _ _ => runVec_answers h
  | .macc _ _ _ => run_answers h (maccBody_keeps h)
  | .mstat _ => execMstat_answers h
  | .sysrd _ _ => execSysrd_answers h
  | .syswr _ _ => execSyswr_answers h
  | .trap _ => execTrap_answers h
  | .tlbinv _ _ => execTlbinv_answers h
  | .quiesce => execQuiesce_answers h
  | .setrm _ => execSetrm_answers h
  | .flagrd _ => execFlagrd_answers h
  | .flagclr _ => execFlagclr_answers h
  | .trapMessage _ => execTrapMessage_answers h
  | .lateFitTrap => execLateFitTrap_answers h
  | .writeBackArrival _ _ => execWriteBackArrival_answers h
  | .waitEnd _ _ => execWaitEnd_answers h
  | .pauseEnd _ => execPauseEnd_answers h
  | .checkerReplay => execCheckerReplay_answers h
  | .lineFill _ _ => execLineFill_answers h
  | .alignDeadline _ _ => execAlignDeadline_answers h
  | .slotArbiterBoundary _ => execSlotArbiterBoundary_answers h
  | .launchPlacement _ _ => execLaunchPlacement_answers h
  | .launchCompletion _ => execLaunchCompletion_answers h
  | .handlerStart _ _ => execHandlerStart_answers h
  | .messageArrival _ => execMessageArrival_answers h
  | .messageRetry _ => by simp [exec, execMessageRetry, h]
  | .eventArrival _ => execEventArrival_answers h
  | .copyRequest _ _ => execCopyRequest_answers h
  | .resumePacket _ _ _ _ _ _ => execResumePacket_answers h
  | .completionArrival _ _ _ _ => execCompletionArrival_answers h
  | .announceArrival _ _ _ _ _ => execAnnounceArrival_answers h
  | .countRequest _ _ => execCountRequest_answers h
  | .stepFinish _ => execStepFinish_answers h
  | .stepBegin _ => execStepBegin_answers h
  | .getsArrival _ => by simp [exec, execGetsArrival, h]
  | .getsRetry _ => execGetsRetry_answers h
  | .feopRetry _ _ => execFeopRetry_answers h
  | .storePerformed _ _ => execStorePerformed_answers h
  | .atomicPerform _ _ => performIf_canonical h _ _ _
  | .faultQueueRetry _ _ => performIf_canonical h _ _ _
  | .vbusRetryAttempt _ _ => execVbusRetryAttempt_answers h
  | .laneSwap _ _ _ => execLaneSwap_answers h
  | .rpRunEntry _ => execRpRunEntry_answers h
  | .mctx _ => by simp [exec, execMctx, h]
  | .mzero _ => by simp [exec, execMzero, h]
  | .mtile _ => by simp [exec, execMtile, h]
  | .mma _ => execMma_answers h
  | .mread _ => execMread_answers h
  | .mfence _ => execMfence_answers h
  | .resumeSlot _ _ => execResumeSlot_answers h
  | .freeSlot _ _ => execFreeSlot_answers h
  | .huskSlot _ _ _ => execHuskSlot_answers h
  | .haltCore _ => execHaltCore_answers h
  | .releaseCore _ => execReleaseCore_answers h
  | .resetAndUnsealCore _ => execResetAndUnsealCore_answers h
  | .migreq _ _ => by simp [exec, execMigreq, h]
  | .coremapSwap _ _ _ => by simp [exec, execCoremapSwap, h]
  | .barcfg _ _ => by simp [exec, execBarcfg, h]
  | .barcancel _ _ => by simp [exec, execBarcancel, h]
  | .flagunionClear _ _ => by simp [exec, execFlagunionClear, h]
  | .logEntryRemove _ _ _ => by simp [exec, execLogEntryRemove, h]
  | .inject _ _ => by simp [exec, execInject, h]
  | .storehold _ _ => by simp [exec, execStorehold, h]
  | .oppointRequest _ _ => by simp [exec, execOppointRequest, h]
  | .energyLoRead _ _ => by simp [exec, execEnergyLoRead, h]
  | .registerWrite _ _ => execRegisterWrite_answers h
  | .resvRead _ => execResvRead_answers h
  | .commit _ _ => by simp [exec, execCommit, h]
  | .nopPacket _ => execNopPacket_answers h
  | .launch _ => execLaunch_answers h
  | .launchExt _ => execLaunchExt_answers h
  | .sheafBegin _ => execSheafBegin_answers h
  | .sheafCommit _ => execSheafCommit_answers h
  | .signal _ => execSignal_answers h
  | .waitPacket _ => execWaitPacket_answers h
  | .waitPoll _ => execWaitPoll_answers h
  | .setweight _ => by simp [exec, execSetweight, h]
  | .setsec _ => by simp [exec, execSetsec, h]
  | .preempt _ => execPreempt_answers h
  | .preemptDeadline _ => execPreemptDeadline_answers h
  | .resumeq _ => execResumeq_answers h
  | .resetq _ => onQueue_canonical h (resetQueue_canonical h _)
  | .drain => by simp [exec, execDrain, h]
  | .seal => execSeal_answers h
  | .fwstage => execFwstage_answers h
  | .fwactivate => execFwactivate_answers h
  | .attest => execAttest_answers h
  | .setmigt => execSetmigt_answers h
  | .secregion => execSecregion_answers h
  | .migrationRequest _ _ _ => by simp [exec, execMigrationRequest, h]
  | .budgetPeriod _ _ => by simp [exec, execBudgetPeriod, h]
  | .voltageTrim _ _ => by simp [exec, execVoltageTrim, h]
  | .thermalSample _ _ => execThermalSample_answers h
  | .enumRefresh => by simp [exec, execEnumRefresh, h]
  | .hostCxlMemAccess _ _ _ => execHostCxlMemAccess_answers h
  | .deviceReset => execDeviceReset_answers h
  | .flit _ _ _ _ => execFlit_answers h
  | .linkDead _ => by simp [exec, execLinkDead, h]
  | .laneFailure _ _ => execLaneFailure_answers h
  | .portUp _ _ _ _ => execPortUp_answers h
  | .read _ => by simp [exec, execRead, h]
  | .write _ => by simp [exec, execWrite, h]
  | .atomic _ => by simp [exec, execAtomic, h]
  | .msg _ => execMsg_answers h
  | .steprd _ => by simp [exec, execSteprd, h]
  | .resp _ => by simp [exec, execResp, h]
  | .ack _ => execAck_answers h
  | .standaloneAck _ _ => by simp [exec, execStandaloneAck, h]
  | .replayTimeout _ _ => by simp [exec, execReplayTimeout, h]
  | .installNotice _ _ => execInstallNotice_answers h
  | .activateNotice _ => by simp [exec, execActivateNotice, h]
  | .unreachableNotice _ => by simp [exec, execUnreachableNotice, h]
  | .illegalEncoding => execIllegalEncoding_answers h
  | .kBlockCompletion _ => execKBlockCompletion_answers h
  | .fabricManagerTold _ _ _ => execFabricManagerTold_answers h
  | .installAck _ _ => execInstallAck_answers h
  | .domainFormation _ _ _ => execDomainFormation_answers h
  | .recovery => execRecovery_answers h

/-- A step answers a next state, and its memory is canonical: the turn keeps it so, and so does what the turn gives to run. -/
theorem step_answers {s : State} (h : Canonical s) : Answers CanonicalMem (step s) := by
  have hc := choose_canonical h
  unfold step
  split
  · next ht => rw [ht] at hc; exact hc
  · next ht => rw [ht] at hc; exact exec_answers hc _

end

end Sys2Proof.Machine

namespace Sys2Proof.Claims

open Sys2Proof.Machine

/-- Settles O60: no turn and no instruction faults or is refused, and every operation that writes memory writes it in canonical form. -/
theorem stepSafe : Obligations.StepSafe := by
  unfold Obligations.StepSafe
  exact fun s h => (answers_iff _).1 (step_answers h)

end Sys2Proof.Claims

/-! ## Late values (R52, R53, R101, R177, R367) -/

/-! ### Fitted values are read back -/

namespace Sys2Proof.Machine

theorem fits_iff {x : Int} {w : Nat} {g : Bool} : fits x w g = true ↔ lowest w g ≤ x ∧ x ≤ highest w g := by simp [fits]

/-- The value that a width of at least one bit wraps to is one that it can hold. -/
theorem fits_wrapTo (x : Int) {w : Nat} (hw : 1 ≤ w) (g : Bool) : fits (wrapTo x w g) w g = true := by
  obtain ⟨n, rfl⟩ : ∃ n, w = n + 1 := ⟨w - 1, by omega⟩
  rw [fits_iff]
  cases g with
  | true =>
    have hle := BitVec.le_toInt (BitVec.ofInt (n + 1) x)
    have hlt := BitVec.toInt_lt (x := BitVec.ofInt (n + 1) x)
    simp only [lowest, highest, wrapTo, if_true]
    omega
  | false =>
    have hlt : ((BitVec.ofInt (n + 1) x).toNat : Int) < 2 ^ (n + 1) := by exact_mod_cast (BitVec.ofInt (n + 1) x).isLt
    simp only [lowest, highest, wrapTo, Bool.false_eq_true, if_false]
    omega

/-- The value that fitting keeps is one that the name can hold. -/
theorem fits_of_fitTo {v x : Int} {w : Nat} {g b : Bool} {m : FitMode} (hw : 1 ≤ w) (h : fitTo v w g m = some (x, b)) : fits x w g = true := by
  unfold fitTo at h
  split at h
  · next hv => cases h; exact hv
  · cases m with
    | wrap => cases h; exact fits_wrapTo v hw g
    | trap => cases h
    | sat =>
      have hp : (0 : Int) < 2 ^ (w - 1) := Int.pow_pos (by decide)
      have hq : (0 : Int) < 2 ^ w := Int.pow_pos (by decide)
      have ends : lowest w g ≤ highest w g := by
        unfold lowest highest
        split <;> omega
      cases h
      rw [fits_iff]
      split <;> omega

/-- A value that a name can hold is read back from the bits that hold it. -/
theorem NameEntry.value_store {e : NameEntry} {x : Int} (h1 : 1 ≤ e.width) (h64 : e.width ≤ 64) (h : fits x e.width e.signed = true) :
    (e.store x).value = x := by
  have bits : ((BitVec.ofInt e.width x).setWidth 64).setWidth e.width = BitVec.ofInt e.width x := by
    apply BitVec.eq_of_toNat_eq
    have := (BitVec.ofInt e.width x).isLt
    have : 2 ^ e.width ≤ 2 ^ 64 := Nat.pow_le_pow_right (by decide) h64
    simp only [BitVec.toNat_setWidth]
    rw [Nat.mod_eq_of_lt (a := (BitVec.ofInt e.width x).toNat) (by omega), Nat.mod_eq_of_lt (by omega)]
  obtain ⟨hlo, hhi⟩ := fits_iff.1 h
  obtain ⟨n, hn⟩ : ∃ n, e.width = n + 1 := ⟨e.width - 1, by omega⟩
  unfold NameEntry.value NameEntry.store
  dsimp only
  rw [bits]
  have hp : ((2 ^ e.width : Nat) : Int) = 2 * 2 ^ n := by rw [hn]; push_cast; exact Int.pow_succ' 2 n
  cases hs : e.signed with
  | true =>
    simp only [hs, lowest, highest, if_true, hn, Nat.add_sub_cancel] at hlo hhi
    rw [if_pos rfl, BitVec.toInt_ofInt, Int.bmod_eq_of_le (by omega) (by omega)]
  | false =>
    simp only [hs, lowest, highest, Bool.false_eq_true, if_false] at hlo hhi
    rw [if_neg Bool.false_ne_true, BitVec.toNat_ofInt, Int.toNat_of_nonneg
      (Int.emod_nonneg _ (Int.ofNat_ne_zero.2 (Nat.ne_of_gt (Nat.two_pow_pos _))))]
    exact Int.emod_eq_of_lt hlo (by push_cast; omega)

end Sys2Proof.Machine

/-! ### What raising flags and giving queue entries back leave of a strand -/

namespace Sys2Proof.Claims

open Sys2Proof.Machine

theorem StrandSide.of_foldl_settleQueue (l : List Nat) (s : State) (k : Nat) :
    StrandSide s (l.foldl (fun t q => settleQueue t k q) s) := by
  induction l generalizing s with
  | nil => exact .refl _
  | cons q l ih => exact (StrandSide.of_settleQueue s k q).trans (ih _)

theorem StrandSide.of_putBack (s : State) (k i : Nat) : StrandSide s (putBack s k i) := by
  unfold putBack
  dsimp only
  split
  · exact .refl _
  · exact (show StrandSide s (modSlot (modCore s k _) k i _) from rfl).trans (.of_foldl_settleQueue ..)

end Sys2Proof.Claims

namespace Sys2Proof.Machine

@[simp] theorem coreOf_setSlot_same (s : State) (k i : Nat) (x : Slot) :
    coreOf (setSlot s k i x) k = { coreOf s k with slots := tput (coreOf s k).slots i x } := by simp [setSlot]

@[simp] theorem slotOf_setCore_slots (s : State) (k i : Nat) (c : Core) (h : c.slots = (coreOf s k).slots) :
    slotOf (setCore s k c) k i = slotOf s k i := by simp [slotOf, h]

@[simp] theorem slotOf_setDq (s : State) (k q i : Nat) (d : DataQueue) : slotOf (setDq s k q d) k i = slotOf s k i := by
  simp [slotOf, setDq]

/-- Flags raised change the strand's flags. -/
theorem slotOf_raiseFlags (s : State) (k i : Nat) (f : BitVec 8) :
    slotOf (raiseFlags s k i f) k i = { slotOf s k i with flags := (slotOf s k i).flags ||| f } := by
  unfold raiseFlags
  split
  · next h => subst h; simp
  · split <;> simp

@[simp] theorem coreOf_raiseFlags_wbs (s : State) (k i : Nat) (f : BitVec 8) : (coreOf (raiseFlags s k i f) k).wbs = (coreOf s k).wbs := by
  unfold raiseFlags
  split
  · rfl
  · split <;> simp [modSlot]

/-- Only what queues give a strand, or have given it, differs: its rows, the entries that it has popped, and their errors. -/
def Slot.SameButQueued (x y : Slot) : Prop := y = { x with vecs := y.vecs, pendErr := y.pendErr, kept := y.kept, taken := y.taken }

theorem Slot.SameButQueued.refl (x : Slot) : x.SameButQueued x := rfl

theorem Slot.SameButQueued.trans {x y z : Slot} (h : x.SameButQueued y) (g : y.SameButQueued z) : x.SameButQueued z := by
  unfold Slot.SameButQueued at *; rw [g, h]

theorem slotOf_finishVfrom (s : State) (k q i : Nat) : (slotOf s k i).SameButQueued (slotOf (finishVfrom s k q) k i) := by
  unfold finishVfrom
  dsimp only
  split
  · next v r _ =>
    split
    · split
      · split
        · by_cases hi : i = v.slot
          · subst hi; rw [slotOf_setSlot_same, slotOf_setDq]; rfl
          · rw [slotOf_setSlot_ne _ _ hi, slotOf_setDq]; rfl
        · rw [slotOf_setDq]; rfl
      · rw [slotOf_setDq]; rfl
    · rfl
  · rfl

theorem slotOf_settleOnce (s : State) (k q i : Nat) : (slotOf s k i).SameButQueued (slotOf (settleOnce k q s) k i) := by
  have := slotOf_finishVfrom { setDq s k q (settle (queueCap q) s.serial 64 (dqOf s k q)) with serial := s.serial + 64 } k q i
  rwa [show slotOf { setDq s k q (settle (queueCap q) s.serial 64 (dqOf s k q)) with serial := s.serial + 64 } k i = slotOf s k i
    from slotOf_setDq ..] at this

theorem slotOf_settleTimes (n k q i : Nat) (s : State) : (slotOf s k i).SameButQueued (slotOf (settleTimes n k q s) k i) := by
  induction n generalizing s with
  | zero => exact .refl _
  | succ n ih => exact (slotOf_settleOnce s k q i).trans (ih _)

theorem slotOf_settleQueue (s : State) (k q i : Nat) : (slotOf s k i).SameButQueued (slotOf (settleQueue s k q) k i) := by
  unfold settleQueue
  dsimp only
  split
  · exact .refl _
  · exact slotOf_settleTimes ..

@[simp] theorem putBackAll_slots (es : List (Nat × QEntry)) (c : Core) : (putBackAll es c).slots = c.slots := by
  induction es with
  | nil => rfl
  | cons e es ih => simp [putBackAll, ih]

theorem slotOf_foldl_settleQueue (l : List Nat) (s : State) (k i : Nat) :
    (slotOf s k i).SameButQueued (slotOf (l.foldl (fun t q => settleQueue t k q) s) k i) := by
  induction l generalizing s with
  | nil => exact .refl _
  | cons q l ih => exact (slotOf_settleQueue s k q i).trans (ih _)

theorem slotOf_putBack (s : State) (k i : Nat) : (slotOf s k i).SameButQueued (slotOf (putBack s k i) k i) := by
  unfold putBack
  dsimp only
  split
  · exact .refl _
  · refine Slot.SameButQueued.trans ?_ (slotOf_foldl_settleQueue ..)
    rw [slotOf_modSlot_same, show slotOf (modCore s k _) k i = slotOf s k i from slotOf_setCore_slots _ _ _ _ (putBackAll_slots ..)]
    rfl

/-- Taking an exception that does not stop the strand: it goes on at its vector, its trap registers written, its names as they were (R283). -/
theorem takeTrapAt_enters {s : State} {k i cause : Nat} {pc val : Word} (hc : cause ≠ 0x0E) (hv : (slotOf s k i).tvec ≠ 0#64)
    (ha : (slotOf s k i).active = false) :
    let t := takeTrapAt s k i pc cause val
    let y := slotOf t k i
    t.cur = s.cur ∧ y.pc = (slotOf s k i).tvec ∧ y.cause = BitVec.ofNat 8 cause ∧ y.trapVal = val ∧ y.trapPc = pc ∧ y.active = true ∧
      y.lateFit = (slotOf s k i).lateFit ∧ y.names = (slotOf s k i).names := by
  have hs := slotOf_putBack s k i
  unfold Slot.SameButQueued at hs
  have goes : trapStops k (recordTrap (slotOf (putBack s k i) k i) pc cause val) cause true = false := by
    rw [hs]; simp [trapStops, recordTrap, Slot.settled, hc, hv, ha]
  have taken : takeTrapAt s k i pc cause val = setSlot (putBack s k i) k i
      (atRest (putBack s k i) k (enterVector (recordTrap (slotOf (putBack s k i) k i) pc cause val) pc)) := by
    simp [takeTrapAt, hc, goes]
  dsimp only
  rw [taken, slotOf_setSlot_same, hs]
  refine ⟨(Claims.StrandSide.of_putBack s k i).cur, ?_⟩
  unfold atRest
  split <;> exact ⟨rfl, rfl, rfl, rfl, rfl, rfl, rfl⟩

end Sys2Proof.Machine

/-! ### Landing -/

namespace Sys2Proof.Machine

open Sys2Proof.Claims

/-- A core with the write-back at a position taken off its list. -/
def withoutWb (c : Core) (n : Nat) : Core := { c with wbs := dropAt c.wbs n }

/-- An answered write-back of a core that is not in a pause lands. -/
theorem writeBackArrival_lands {k n : Nat} {s : State} {w : WriteBack} {v : Int} (hw : (coreOf s k).wbs[n]? = some w) (hv : w.val = some v)
    (hp : (coreOf s k).pauseTo = none) : Completes (.writeBackArrival k n) s (landWb (setCore s k (withoutWb (coreOf s k) n)) k w) := by
  show execWriteBackArrival k n s = _
  simp [execWriteBackArrival, hw, hv, paused, hp, withoutWb]

/-- A write-back without an error, of a strand that is still there, lands in its declared name. -/
theorem landWb_declared {k : Nat} {s : State} {w : WriteBack} {v : Int} (hv : w.val = some v) (hentry : w.entry = none) (herr : w.err = none)
    (huid : (slotOf s k w.slot).uid = w.uid) (hn : w.name.toNat < 240) : landWb s k w = landName s k w.slot w.name v w.poison := by
  have : isFixed w.name = false := by simp [isFixed]; omega
  simp [landWb, hv, hentry, herr, huid, this]

/-- A value that fits lands: the name holds it, and what else the strand has declared is as it was. -/
theorem landName_fits {s : State} {k i : Nat} {n : Name} {e : NameEntry} {v x : Int} {sat p : Bool} (he : nameOf s k i n = some e)
    (hf : fitTo v e.width e.signed e.mode = some (x, sat)) :
    let t := landName s k i n v p
    nameOf t k i n = some { e.store x with poison := p } ∧ (coreOf t k).wbs = (coreOf s k).wbs ∧
      (∀ m, m ≠ n.toNat → tfind (slotOf t k i).names m = tfind (slotOf s k i).names m) ∧ StrandSide s t := by
  have landed : landName s k i n v p = setName (raiseFlags s k i (if sat then flagSAT else 0#8)) k i n { e.store x with poison := p } := by
    simp [landName, he, hf]
  dsimp only
  rw [landed]
  refine ⟨by simp [nameOf, setName], by simp [setName, modSlot], fun m hm => ?_, (StrandSide.of_raiseFlags ..).trans (.of_setName ..)⟩
  simp [setName, slotOf_raiseFlags, tfind_tput_ne _ _ hm]

/-- A value that its name cannot hold is noted, the first of them kept, and the names stay as they were. -/
theorem landName_misfit {s : State} {k i : Nat} {n : Name} {e : NameEntry} {v : Int} {p : Bool} (he : nameOf s k i n = some e)
    (hf : fitTo v e.width e.signed e.mode = none) (hr : (slotOf s k i).status = .ready) :
    landName s k i n v p = modSlot s k i fun x => { x with lateFit := some (x.lateFit.getD (wordOf v)) } := by
  simp [landName, he, hf, lateFit, hr]

/-- In a pause an answered write-back is held, or waits behind the sixteen held (R53). -/
theorem writeBackArrival_paused {k n : Nat} {s : State} {w : WriteBack} {v : Int} (hw : (coreOf s k).wbs[n]? = some w) (hv : w.val = some v)
    (hp : (coreOf s k).pauseTo.isSome) :
    Completes (.writeBackArrival k n) s (setCore s k
      (if (coreOf s k).held.length < 16 then { coreOf s k with wbs := dropAt (coreOf s k).wbs n, held := (coreOf s k).held ++ [w] }
       else { coreOf s k with wbs := dropAt (coreOf s k).wbs n, late := (coreOf s k).late ++ [w] })) := by
  show execWriteBackArrival k n s = _
  simp only [execWriteBackArrival, hw, hv, paused, hp, Option.isNone_some, Bool.false_eq_true, if_false, if_true]
  split <;> rfl

/-- A pause over: what was held lands, then what came later, and a pause asked for since begins (R52, R53). -/
theorem pauseEnd_lands {k p : Nat} {s : State} (hp : (coreOf s k).pauseTo = some p) (hc : p < cycOf s k) :
    Completes (.pauseEnd k) s (((coreOf s k).held ++ (coreOf s k).late).foldl (fun u w => landWb u k w) (setCore s k
      { coreOf s k with pauseTo := (coreOf s k).pauses.head?.map (p + ·), pauses := (coreOf s k).pauses.drop 1, held := [], late := [] })) := by
  show execPauseEnd k s = _
  simp [execPauseEnd, hp, hc]

/-- A noted misfit traps its strand where the instruction would have issued (R367). -/
theorem lateFitTrap_traps {s : State} {v : Word} (hl : (curSlot s).lateFit = some v) :
    Completes .lateFitTrap s (takeTrap (modCur s fun x => { x with lateFit := none }) 0x04 v) := by
  show execLateFitTrap s = _
  simp [execLateFitTrap, hl]

/-- A wait over: the strand is READY at its instruction, or STOPPED there on a core halted for debug (R5, R101). -/
theorem waitEnd_wakes {k i : Nat} {s : State} {w : Wait} (hs : (slotOf s k i).status = .parked w) (hw : w ≠ .loadCheck)
    (hh : huskPoint s k i = false) (ho : waitOver s k i w = true) :
    Completes (.waitEnd k i) s (setSlot s k i { slotOf s k i with status := if (coreOf s k).halted then .stopped .halted else .ready }) := by
  have woken : endWait s k i w = wake s k i := by
    cases w with
    | loadCheck => exact absurd rfl hw
    | _ => rfl
  show execWaitEnd k i s = _
  simp only [execWaitEnd, hh, hs, ho, woken, Bool.false_eq_true, if_false, if_true]
  cases hc : (coreOf s k).halted <;> simp [wake, modSlot, atRest, hc]

end Sys2Proof.Machine

namespace Sys2Proof.Claims

open Sys2Proof.Machine

/-- Settles O17: a write-back lands by fitting its value to its name, a pause holds it and lets it land after, and a misfit noted traps by the
strand's vector. -/
theorem lateValuesLand : Obligations.LateValuesLand := by
  unfold Obligations.LateValuesLand
  refine ⟨fun k n s w v hw hv => ⟨fun e hp hentry herr huid hn he => ⟨fun x sat hf => ?_, fun hf hr => ?_⟩, fun hp hh => ?_, fun hp hh => ?_⟩,
    fun k p s hp hc => ⟨_, pauseEnd_lands hp hc, rfl⟩, fun s v hl htv ha => ?_, fun k i s w hs hw hh ho => waitEnd_wakes hs hw hh ho⟩
  · have slots : slotOf (setCore s k (withoutWb (coreOf s k) n)) k w.slot = slotOf s k w.slot := slotOf_setCore_slots _ _ _ _ rfl
    have he' : nameOf (setCore s k (withoutWb (coreOf s k) n)) k w.slot w.name = some e := by rw [nameOf, slots]; exact he
    have lands := writeBackArrival_lands hw hv hp
    rw [landWb_declared hv hentry herr (by rw [slots]; exact huid) hn] at lands
    obtain ⟨hname, hwbs, hothers, hside⟩ := landName_fits (p := w.poison) he' hf
    refine ⟨_, _, lands, hname, rfl, fun h1 h64 => ?_, ?_, fun m hm => ?_, ?_⟩
    · exact NameEntry.value_store h1 h64 (fits_of_fitTo h1 hf)
    · rw [hwbs]; simp [withoutWb]
    · rw [hothers m hm, slots]
    · exact (StrandSide.trans (show StrandSide s (setCore s k (withoutWb (coreOf s k) n)) from rfl) hside).device
  · have slots : slotOf (setCore s k (withoutWb (coreOf s k) n)) k w.slot = slotOf s k w.slot := slotOf_setCore_slots _ _ _ _ rfl
    have he' : nameOf (setCore s k (withoutWb (coreOf s k) n)) k w.slot w.name = some e := by rw [nameOf, slots]; exact he
    have lands := writeBackArrival_lands hw hv hp
    rw [landWb_declared hv hentry herr (by rw [slots]; exact huid) hn, landName_misfit he' hf (by rw [slots]; exact hr)] at lands
    exact ⟨_, lands, by simp [slots], by simp [slots, wordOf]⟩
  · have := writeBackArrival_paused hw hv hp
    rwa [if_pos hh] at this
  · have := writeBackArrival_paused hw hv hp
    rwa [if_neg (by omega)] at this
  · have hcur : slotOf (modCur s fun x => { x with lateFit := none }) s.cur.core s.cur.slot = { curSlot s with lateFit := none } :=
      curSlot_modCur ..
    obtain ⟨tcur, enters⟩ := takeTrapAt_enters (s := modCur s fun x => { x with lateFit := none }) (k := s.cur.core) (i := s.cur.slot) (cause := 0x04)
      (pc := s.cur.pc) (val := v) (by decide) (by rw [hcur]; exact htv) (by rw [hcur]; exact ha)
    rw [hcur] at enters
    refine ⟨_, lateFitTrap_traps hl, ?_⟩
    rw [curSlot, takeTrap, modCur_cur, tcur]
    exact enters

end Sys2Proof.Claims

/-! ### The rotation (R102) -/

namespace Sys2Proof.Machine

open Sys2Proof.Claims

/-- A slot that is eligible holds a READY strand, and its interval is over but on a streamer. -/
theorem ready_of_eligible {s : State} {k i t : Nat} (h : eligible s k i t = true) :
    (slotOf s k i).status = .ready ∧ (isStreamer k = false → intervalOver (slotOf s k i) t = true) := by
  simp only [eligible, Bool.and_eq_true, Bool.or_eq_true, beq_iff_eq] at h
  obtain ⟨⟨hr, hi⟩, -⟩ := h
  exact ⟨hr, fun hs => hi.resolve_left (by simp [hs])⟩

/-- The pick is the slot at the first place of the cyclic order, counted from the slot after the last, at which an eligible one stands. -/
theorem pickSlot_eq_some_iff {s : State} {k t i : Nat} :
    pickSlot s k t = some i ↔ ∃ p < 16, ((coreOf s k).last + 1 + p) % 16 = i ∧ eligible s k i t = true ∧
      ∀ q < p, eligible s k (((coreOf s k).last + 1 + q) % 16) t = false := by
  simp only [pickSlot, List.find?_map, Option.map_eq_some_iff, List.find?_range_eq_some, List.mem_range, Function.comp_apply,
    Bool.not_eq_true']
  constructor
  · rintro ⟨p, ⟨he, hp, hq⟩, rfl⟩; exact ⟨p, hp, rfl, he, hq⟩
  · rintro ⟨p, hp, rfl, he, hq⟩; exact ⟨p, ⟨he, hp, hq⟩, rfl⟩

theorem pickSlot_eq_none_iff {s : State} {k t : Nat} :
    pickSlot s k t = none ↔ ∀ p < 16, eligible s k (((coreOf s k).last + 1 + p) % 16) t = false := by
  simp [pickSlot]

/-- Where a slot stands in the cyclic order after another, and which slot stands at a place of it. -/
theorem slotAt_place (last : Nat) {j : Nat} (hj : j < 16) : (last + 1 + (j + 15 - last % 16) % 16) % 16 = j := by omega

theorem place_slotAt (last : Nat) {p : Nat} (hp : p < 16) : ((last + 1 + p) % 16 + 15 - last % 16) % 16 = p := by omega

end Sys2Proof.Machine

namespace Sys2Proof.Claims

open Sys2Proof.Machine

/-- Settles O58: the places of the cyclic order are searched in turn, and every slot stands at one of them. -/
theorem rotationPicks : Obligations.RotationPicks := by
  unfold Obligations.RotationPicks
  intro s k t last
  have slotAt : ∀ j < 16, ((coreOf s k).last + 1 + (j + 15 - last % 16) % 16) % 16 = j := fun j hj => slotAt_place last hj
  refine ⟨fun i hpick => ?_, fun hnone i hi => ?_⟩
  · obtain ⟨p, hp, rfl, he, before⟩ := pickSlot_eq_some_iff.1 hpick
    obtain ⟨hready, hover⟩ := ready_of_eligible he
    refine ⟨Nat.mod_lt _ (by decide), he, hready, hover, fun j hj hej => ?_⟩
    rw [place_slotAt _ hp]
    refine Nat.le_of_not_lt fun hlt => ?_
    have := before _ hlt
    rw [slotAt j hj, hej] at this
    cases this
  · simpa [slotAt i hi] using pickSlot_eq_none_iff.1 hnone ((i + 15 - last % 16) % 16) (Nat.mod_lt _ (by decide))

end Sys2Proof.Claims

/-! ### The state after reset

Its tables list nothing, so every core, slot, queue and flow stands at the value that its declaration gives. -/

namespace Sys2Proof.Machine

@[simp] theorem tget_nil {α : Type} (d : α) (k : Nat) : tget [] d k = d := rfl

@[simp] theorem memByte_reset (a : Nat) : memByte State.reset.mem a = 0#8 := rfl

@[simp] theorem coreOf_reset (k : Nat) : coreOf State.reset k = {} := tget_nil ..

@[simp] theorem slotOf_reset (k i : Nat) : slotOf State.reset k i = {} := by rw [slotOf, coreOf_reset, tget_nil]

@[simp] theorem queueOf_reset (q : Nat) : queueOf State.reset q = {} := tget_nil ..

@[simp] theorem flowOf_reset (peer cls : Nat) : flowOf State.reset peer cls = {} := tget_nil ..

@[simp] theorem clusterOf_reset (c : Nat) : clusterOf State.reset c = {} := tget_nil ..

@[simp] theorem logicalOf_reset (c l : Nat) : logicalOf State.reset c l = {} := by rw [logicalOf, clusterOf_reset, tget_nil]

/-- The core map of reset is the identity. -/
@[simp] theorem physOf_reset (c l : Nat) : physOf State.reset c l = l := by rw [physOf, clusterOf_reset, tget_nil]

end Sys2Proof.Machine

namespace Sys2Proof.Claims

open Sys2Proof.Machine

theorem canonical_reset : Canonical State.reset := rfl

/-- Settles O59: no table of reset lists a core, a slot, a queue, a flow or a logical core, so each has its declared value. -/
theorem resetValues : Obligations.ResetValues := by
  unfold Obligations.ResetValues
  intro s
  have memory : ∀ a, s.full.contains a = false ∧ s.poison.contains a = false := fun _ => ⟨rfl, rfl⟩
  refine ⟨canonical_reset, memByte_reset, memory, fun k i => ?cores, fun q => ?queues, rfl, rfl, fun d c => ?flows, rfl, rfl, rfl,
    fun c l => ?logicals⟩
  case cores => rw [slotOf_reset, coreOf_reset]; exact ⟨rfl, rfl, rfl, rfl, rfl⟩
  case queues => rw [queueOf_reset]; exact ⟨rfl, rfl, rfl, rfl, rfl, rfl, rfl⟩
  case flows => rw [flowOf_reset]; exact ⟨rfl, rfl, rfl⟩
  case logicals => rw [logicalOf_reset]; exact ⟨rfl, rfl, rfl, physOf_reset c l⟩

end Sys2Proof.Claims

/-! ## The map class (R48 to R65) -/

/-! ### Going on at the next head (R26) -/

namespace Sys2Proof.Machine

open Sys2Proof.Claims

theorem nextPc_eq_nextOf (pc : Word) (h : Nat) : nextPc pc h = nextOf pc h := by
  unfold nextPc nextOf
  dsimp only
  split
  · exact BitVec.eq_of_toNat_eq (by simp)
  · rfl

/-- A body's end is the strand gone on at next. -/
theorem goTo_curNext {s t : State} (h : t.cur = s.cur) : goTo t (curNext s) = goes s t := by
  unfold goTo goes curNext
  rw [nextPc_eq_nextOf, h]
  rfl

theorem run_ok {body : State → Ans Unit} {s t : State} (h : body s = .ok () t) (hc : t.cur = s.cur) : run body s = .next (goes s t) := by
  rw [run, h, ← goTo_curNext hc]; rfl

theorem run_trap {body : State → Ans Unit} {s : State} {c : Nat} {v : Word} (h : body s = .trap c v) : run body s = .next (takeTrap s c v) := by
  rw [run, h]; rfl

@[simp] theorem goes_cur (s t : State) : (goes s t).cur = t.cur := rfl

theorem goes_mem (s t : State) : (goes s t).mem = t.mem := rfl

@[simp] theorem curSlot_goes (s t : State) : curSlot (goes s t) = settled (curSlot t) (nextOf s.cur.pc s.cur.h) s.cur.pc := slotOf_setSlot_same ..

theorem goes_side (s t : State) : StrandSide t (goes s t) := .of_setSlot ..

theorem goes_modCur (s t : State) (f : Slot → Slot) :
    goes s (modCur t f) = withStrand t (settled (f (curSlot t)) (nextOf s.cur.pc s.cur.h) s.cur.pc) := by
  rw [goes, curSlot_modCur]
  exact setSlot_setSlot ..

theorem slotOf_goes_ne (s t : State) {i : Nat} (h : i ≠ t.cur.slot) : slotOf (goes s t) t.cur.core i = slotOf t t.cur.core i :=
  slotOf_setSlot_ne _ _ h

/-- Going on changes no declaration of the core. -/
theorem names_goes (s t : State) (i : Nat) : (slotOf (goes s t) t.cur.core i).names = (slotOf t t.cur.core i).names := by
  by_cases h : i = t.cur.slot
  · subst h; rw [goes, withStrand, slotOf_setSlot_same]; rfl
  · rw [slotOf_goes_ne s t h]

theorem coreOf_goes (s t : State) : ∃ l, coreOf (goes s t) t.cur.core = { coreOf t t.cur.core with slots := l } := ⟨_, coreOf_setSlot_same ..⟩

/-- A core changed beside its slots: every slot is as it was. -/
theorem slotOf_modCore {f : Core → Core} (s : State) (k j i : Nat) (hf : (f (coreOf s k)).slots = (coreOf s k).slots) :
    slotOf (modCore s k f) j i = slotOf s j i := by
  by_cases h : j = k
  · subst h; simp [slotOf, hf]
  · simp [slotOf, coreOf_modCore_ne _ _ h]

@[simp] theorem slotOf_namesFreed (s : State) (k j i : Nat) : slotOf (namesFreed s k) j i = slotOf s j i := by
  unfold namesFreed
  split
  · rfl
  · exact slotOf_modCore s k j i rfl

@[simp] theorem slotOf_endOwnership (s : State) (k o j i : Nat) : slotOf (endOwnership s k o) j i = slotOf s j i := by
  unfold endOwnership
  split
  · exact slotOf_modCore s k j i rfl
  · rfl

theorem namesFreed_side (s : State) (k : Nat) : StrandSide s (namesFreed s k) := by
  unfold namesFreed
  split
  · exact .refl s
  · exact .of_modCore ..

theorem endOwnership_side (s : State) (k i : Nat) : StrandSide s (endOwnership s k i) := by
  unfold endOwnership
  split
  · exact .of_modCore ..
  · exact .refl s

@[simp] theorem curSlot_namesFreed (s : State) (k : Nat) : curSlot (namesFreed s k) = curSlot s := by
  rw [curSlot, (namesFreed_side s k).cur, slotOf_namesFreed]; rfl

theorem modCore_modCore (s : State) (k : Nat) (f g : Core → Core) : modCore (modCore s k f) k g = modCore s k fun c => g (f c) := by simp [modCore]

theorem modSlot_eq_modCore (s : State) (k i : Nat) (f : Slot → Slot) :
    modSlot s k i f = modCore s k fun c => { c with slots := tput c.slots i (f (tget c.slots {} i)) } := rfl

/-- That names have been released is noted beside the slots. -/
theorem namesFreed_modSlot (s : State) (k i : Nat) (f : Slot → Slot) : namesFreed (modSlot s k i f) k = modSlot (namesFreed s k) k i f := by
  have same : (coreOf (modSlot s k i f) k).unseated = (coreOf s k).unseated := by rw [modSlot, coreOf_setSlot_same]
  unfold namesFreed
  rw [same]
  split
  · rfl
  · rw [modSlot_eq_modCore, modSlot_eq_modCore, modCore_modCore, modCore_modCore]

/-! ### What reads of the arrays change beside memory (R173, R174, R176) -/

/-- Only the marks of words, the clusters' logs and channels, and the mark of a held step differ. -/
def ReadSide (s t : State) : Prop :=
  t = { s with flips := t.flips, poison := t.poison, mediaBad := t.mediaBad, clusters := t.clusters, stall := t.stall }

theorem ReadSide.refl (s : State) : ReadSide s s := rfl

theorem ReadSide.trans {s t u : State} (h : ReadSide s t) (g : ReadSide t u) : ReadSide s u := by
  unfold ReadSide at *; rw [g, h]

theorem ReadSide.cur {s t : State} (h : ReadSide s t) : t.cur = s.cur := by rw [h]

theorem ReadSide.mem {s t : State} (h : ReadSide s t) : t.mem = s.mem := by rw [h]

theorem ReadSide.foldl {α : Type} {f : State → α → State} (hf : ∀ s a, ReadSide s (f s a)) (s : State) (l : List α) : ReadSide s (l.foldl f s) := by
  induction l generalizing s with
  | nil => exact .refl s
  | cons a l ih => exact (hf s a).trans (ih _)

theorem scrubSecded_side (s : State) (a : Nat) : ReadSide s (scrubSecded s a) := by
  unfold scrubSecded
  dsimp only
  split <;> rfl

theorem scrubBurst_side (s : State) (a : Nat) : ReadSide s (scrubBurst s a) := by
  unfold scrubBurst
  dsimp only
  split
  · rfl
  · split
    · rfl
    · split <;> rfl

theorem scrubWord_side (s : State) (a : Nat) : ReadSide s (scrubWord s a) := by
  unfold scrubWord
  split
  · exact .foldl (fun t j => scrubBurst_side t _) s _
  · split
    · exact scrubBurst_side ..
    · exact scrubSecded_side ..

theorem sectorRead_side (s : State) (a : Nat) : ReadSide s (sectorRead s a).2 := by
  unfold sectorRead
  split
  · split
    · rfl
    · split <;> rfl
  · rfl

theorem memoryRead_side (s : State) (a n : Nat) : ReadSide s (memoryRead s a n).2 := by
  have brought : ReadSide s (transfers s a n).2 := by rw [channelSide_transfers s a n]; rfl
  exact (brought.trans (.foldl scrubWord_side ..)).trans (sectorRead_side ..)

/-- What precedes a body, when the whole completes. -/
theorem bind_ok {α β : Type} {x : Ans α} {f : α → State → Ans β} {r : β} {t : State} (h : x.bind f = .ok r t) :
    ∃ a u, x = .ok a u ∧ f a u = .ok r t := by
  cases x with
  | ok a u => exact ⟨a, u, rfl, h⟩
  | trap | trapIn | trapRead | raise | wait | waitIn | hold | holdIn => cases h

theorem readBytes_side {a n : Nat} {va : Word} {s t : State} {v : Nat × Bool} (h : readBytes a n s memoryRead va = .ok v t) : ReadSide s t := by
  unfold readBytes at h
  split at h
  · split at h <;> cases h
    exact .refl _
  · split at h
    · cases h
    · unfold awaitBeats at h
      dsimp only at h
      split at h <;> cases h
      exact memoryRead_side ..

theorem readClean_side {a n : Nat} {va : Word} {s t : State} {v : Nat} (h : readClean a n va s = .ok v t) : ReadSide s t := by
  obtain ⟨w, u, hread, h⟩ := bind_ok h
  split at h <;> cases h
  exact readBytes_side hread

theorem readParcels_side {w : Word} {off : Int} {n : Nat} {s t : State} {ps : List Parcel} (h : readParcels w off n s = .ok ps t) : ReadSide s t := by
  induction n generalizing off s ps with
  | zero => cases h; exact .refl _
  | succ n ih =>
    obtain ⟨p, u, hread, h⟩ := bind_ok h
    obtain ⟨r, v, hrest, h⟩ := bind_ok h
    cases h
    exact (readClean_side hread).trans (ih hrest)

theorem readWindow_side {n : Name} {cmd : Bool} {s t : State} {w : Word} (h : readWindow n cmd s = .ok w t) : StrandSide s t := by
  obtain ⟨x, u, hread, h⟩ := bind_ok h
  dsimp only at h
  split at h <;> cases h
  exact readName_ok hread

/-! ### The value of a declared name in another width (R57) -/

theorem NameEntry.value_eq_wrapTo (e : NameEntry) : e.value = wrapTo (e.bits.toNat : Int) e.width e.signed := by
  simp [NameEntry.value, wrapTo]

/-- A declared name holds its value. -/
theorem NameEntry.fits_value {e : NameEntry} (h : 1 ≤ e.width) : fits e.value e.width e.signed = true := by
  rw [e.value_eq_wrapTo]; exact fits_wrapTo _ h _

/-- What a width holds a wider one holds. -/
theorem fits_mono {x : Int} {w w' : Nat} {g : Bool} (hw : w ≤ w') (h : fits x w g = true) : fits x w' g = true := by
  have full : (2 : Int) ^ w ≤ 2 ^ w' := by exact_mod_cast Nat.pow_le_pow_right (by decide) hw
  have half : (2 : Int) ^ (w - 1) ≤ 2 ^ (w' - 1) := by exact_mod_cast Nat.pow_le_pow_right (by decide) (by omega)
  rw [fits_iff] at h ⊢
  unfold lowest highest at *
  cases g <;> simp only [Bool.false_eq_true, if_false, if_true] at h ⊢ <;> omega

/-- The declaration of a name in another width, holding the same value. -/
def NameEntry.widened (e : NameEntry) (w : Nat) : NameEntry := { e with width := w, bits := (BitVec.ofInt w e.value).setWidth 64 }

/-- A widened name keeps its value. -/
theorem NameEntry.value_widened {e : NameEntry} {w : Nat} (h1 : 1 ≤ e.width) (hw : e.width ≤ w) (h64 : w ≤ 64) : (e.widened w).value = e.value :=
  NameEntry.value_store (e := { e with width := w }) (Nat.le_trans h1 hw) h64 (fits_mono hw (fits_value h1))

/-! ### First fit (R48) -/

/-- The least of a list, taken member by member. -/
theorem foldl_lowest_eq_min? {f : Option Nat → Nat → Option Nat} (h0 : ∀ b, f none b = some b) (h1 : ∀ c b, f (some c) b = some (min c b))
    (l : List Nat) : l.foldl f none = l.min? := by
  have later : ∀ (l : List Nat) (c : Nat), l.foldl f (some c) = some (l.foldl min c) := by
    intro l
    induction l with
    | nil => exact fun _ => rfl
    | cons b l ih => intro c; rw [List.foldl_cons, h1, ih]; rfl
  cases l with
  | nil => rfl
  | cons b l => rw [List.foldl_cons, h0, later, List.min?_cons']

/-- The places that fitRow tries: bit 0 and the ends of the row's runs. -/
def runStarts (occ : List Occ) (row : Nat) : List Nat := 0 :: (occ.filter fun o => o.1 == row).map fun o => o.2.1 + o.2.2

theorem fitRow_eq_min? (occ : List Occ) (row w : Nat) : fitRow occ row w = ((runStarts occ row).filter fun b => freeRun occ row b w).min? := by
  refine foldl_lowest_eq_min? (fun _ => rfl) (fun c b => ?_) _
  dsimp only
  congr 1
  split <;> omega

theorem freeRun_iff {occ : List Occ} {row bit w : Nat} :
    freeRun occ row bit w = true ↔ bit + w ≤ 128 ∧ ∀ o ∈ occ, o.1 = row → o.2.1 + o.2.2 ≤ bit ∨ bit + w ≤ o.2.1 := by
  simp only [freeRun, Bool.and_eq_true, decide_eq_true_eq, List.all_eq_true, Bool.or_eq_true, bne_iff_ne, ne_eq, or_assoc,
    Decidable.imp_iff_not_or]

/-- The lowest free place of a row is bit 0 or the end of an occupied run: one bit lower a run stands in the way. -/
theorem least_mem_runStarts {occ : List Occ} {row p w : Nat} (h : freeRun occ row p w = true) (least : ∀ q < p, freeRun occ row q w = false) :
    p ∈ runStarts occ row := by
  cases p with
  | zero => exact List.mem_cons_self ..
  | succ q =>
    obtain ⟨hend, hfree⟩ := freeRun_iff.1 h
    have taken : ¬ freeRun occ row q w = true := by simp [least q (Nat.lt_succ_self q)]
    simp only [freeRun_iff, not_and, Classical.not_forall] at taken
    obtain ⟨o, ho, hrow, hclash⟩ := taken (by omega)
    have := hfree o ho hrow
    exact List.mem_cons_of_mem _ (List.mem_map.2 ⟨o, List.mem_filter.2 ⟨ho, by simpa using hrow⟩, by omega⟩)

theorem fitRow_of_least {occ : List Occ} {row p w : Nat} (h : freeRun occ row p w = true) (least : ∀ q < p, freeRun occ row q w = false) :
    fitRow occ row w = some p := by
  rw [fitRow_eq_min?, List.min?_eq_some_iff]
  refine ⟨List.mem_filter.2 ⟨least_mem_runStarts h least, h⟩, fun q hq => Nat.le_of_not_lt fun hlt => ?_⟩
  have free := (List.mem_filter.1 hq).2
  simp [least q hlt] at free

theorem fitRow_of_none {occ : List Occ} {row w : Nat} (h : ∀ q, freeRun occ row q w = false) : fitRow occ row w = none := by
  rw [fitRow_eq_min?, List.min?_eq_none_iff, List.filter_eq_nil_iff]
  simp [h]

/-- First-fit finds the lowest free place of its rows. -/
theorem firstFit_of_least {occ : List Occ} {w r p n row : Nat} (hr : row ≤ r) (hn : r < row + n) (h : freeRun occ r p w = true)
    (least : ∀ r' p', row ≤ r' → (r' < r ∨ (r' = r ∧ p' < p)) → freeRun occ r' p' w = false) : firstFit occ w row n = some (r, p) := by
  induction n generalizing row with
  | zero => omega
  | succ n ih =>
    by_cases hrow : row = r
    · subst hrow
      simp [firstFit, fitRow_of_least h fun q hq => least row q (Nat.le_refl _) (.inr ⟨rfl, hq⟩)]
    · rw [firstFit, fitRow_of_none fun q => least row q (Nat.le_refl _) (.inl (by omega))]
      exact ih (by omega) (by omega) fun r' p' hr' => least r' p' (by omega)

theorem firstFit_of_none {occ : List Occ} {w n row : Nat} (h : ∀ r p, row ≤ r → r < row + n → freeRun occ r p w = false) :
    firstFit occ w row n = none := by
  induction n generalizing row with
  | zero => rfl
  | succ n ih =>
    rw [firstFit, fitRow_of_none fun q => h row q (Nat.le_refl _) (by omega)]
    exact ih fun r p hr hn => h r p (by omega) (by omega)

/-! ### Seating keeps declarations (R48, R51) -/

/-- A declaration with its value, its seat apart. -/
def NameEntry.unseated (e : NameEntry) : NameEntry := { e with row := 0, bit := 0 }

/-- The same names are declared, with the same values: only seats differ. -/
def SameDecls (t u : Tab NameEntry) : Prop := ∀ n, (tfind u n).map NameEntry.unseated = (tfind t n).map NameEntry.unseated

theorem SameDecls.refl (t : Tab NameEntry) : SameDecls t t := fun _ => rfl

/-- A name declared in one is declared in the other, but for its seat. -/
theorem SameDecls.find {t u : Tab NameEntry} (h : SameDecls t u) {n : Nat} {e : NameEntry} (he : tfind t n = some e) :
    ∃ f, tfind u n = some f ∧ f = { e with row := f.row, bit := f.bit } := by
  have hn := h n
  rw [he] at hn
  obtain ⟨f, hf, hfe⟩ := Option.map_eq_some_iff.1 hn
  refine ⟨f, hf, ?_⟩
  cases f; cases e
  simpa [NameEntry.unseated] using hfe

theorem seatNames_decls {occ : List Occ} {dom : Nat × Nat} {t u : Tab NameEntry} (h : seatNames occ dom t = .inr u) : SameDecls t u := by
  induction t generalizing occ u with
  | nil => cases h; exact .refl _
  | cons x r ih =>
    obtain ⟨j, e⟩ := x
    unfold seatNames at h
    split at h
    · cases h
    · split at h
      · cases h
      · next v hv =>
        cases h
        intro n
        by_cases hj : j = n
        · simp [tfind, hj, NameEntry.unseated]
        · simpa [tfind, hj] using ih hv n

/-- A layout gives every slot of its list its own names again. -/
theorem layout_decls {dom : Nat × Nat} {occ : List Occ} {slots new : List (Nat × Tab NameEntry)} (h : layout dom occ slots = some new) :
    (∀ x ∈ new, ∃ t, (x.1, t) ∈ slots ∧ SameDecls t x.2) ∧ ∀ x ∈ slots, x.1 ∈ new.map (·.1) := by
  induction slots generalizing occ new with
  | nil => cases h; simp
  | cons y r ih =>
    obtain ⟨i, t⟩ := y
    unfold layout at h
    split at h
    · cases h
    · next u hu =>
      split at h
      · cases h
      · next v hv =>
        cases h
        obtain ⟨laid, kept⟩ := ih hv
        constructor
        · rintro x (_ | ⟨_, hx⟩)
          · exact ⟨t, List.mem_cons_self .., seatNames_decls hu⟩
          · obtain ⟨t', ht', same⟩ := laid x hx
            exact ⟨t', List.mem_cons_of_mem _ ht', same⟩
        · rintro x (_ | ⟨_, hx⟩)
          · exact List.mem_cons_self ..
          · exact List.mem_cons_of_mem _ (kept x hx)

/-- The names that a compaction lays out for a slot: one slot's are replaced. -/
def namesFor (c : Core) (slot : Nat) (names : Tab NameEntry) (i : Nat) : Tab NameEntry := if i == slot then names else (tget c.slots {} i).names

theorem namesFor_same (c : Core) (slot : Nat) (names : Tab NameEntry) : namesFor c slot names slot = names := by simp [namesFor]

theorem namesFor_ne (c : Core) {slot i : Nat} (names : Tab NameEntry) (h : i ≠ slot) : namesFor c slot names i = (tget c.slots {} i).names := by
  simp [namesFor, h]

/-- A compaction gives every slot that it lays out its own names again, and lays out the slot whose names are replaced if it has any. -/
theorem compact_decls {c : Core} {slot m : Nat} {names : Tab NameEntry} {new : List (Nat × Tab NameEntry)}
    (h : compact c slot names = some (new, m)) :
    (∀ x ∈ new, SameDecls (namesFor c slot names x.1) x.2) ∧ (names ≠ [] → slot ∈ new.map (·.1)) := by
  unfold compact at h
  dsimp only at h
  split at h
  · cases h
  · next v hv =>
    cases h
    obtain ⟨laid, kept⟩ := layout_decls hv
    constructor
    · intro x hx
      obtain ⟨t, ht, same⟩ := laid x hx
      obtain ⟨i, -, hi⟩ := List.mem_map.1 (List.mem_filter.1 ht).1
      cases hi
      exact same
    · intro hne
      refine kept (slot, names) (List.mem_filter.2 ⟨List.mem_map.2 ⟨slot, ?_, by simp⟩, by simpa using hne⟩)
      refine List.mem_filter.2 ⟨List.mem_range.2 (by omega), ?_⟩
      simp [sameDomain]

/-- Tables put in place, slot by slot: a slot that had the names wanted for it, or is given them, has them. -/
theorem applyLayout_decls {k : Nat} {T : Nat → Tab NameEntry} {new : List (Nat × Tab NameEntry)} (hnew : ∀ x ∈ new, SameDecls (T x.1) x.2) (s : State)
    {i : Nat} (hi : SameDecls (T i) (slotOf s k i).names ∨ i ∈ new.map (·.1)) : SameDecls (T i) (slotOf (applyLayout s k new) k i).names := by
  induction new generalizing s with
  | nil => exact hi.resolve_right (by simp)
  | cons x r ih =>
    refine ih (fun y hy => hnew y (List.mem_cons_of_mem _ hy)) _ ?_
    by_cases hx : i = x.1
    · subst hx
      left
      rw [slotOf_modSlot_same]
      exact hnew x (List.mem_cons_self ..)
    · refine hi.imp (fun h => ?_) fun h => (List.mem_cons.1 h).resolve_left hx
      rwa [show slotOf (modSlot s k x.1 _) k i = slotOf s k i from slotOf_setSlot_ne _ _ hx]

theorem applyLayout_side (s : State) (k : Nat) (new : List (Nat × Tab NameEntry)) : StrandSide s (applyLayout s k new) := by
  unfold applyLayout
  induction new generalizing s with
  | nil => exact .refl s
  | cons x r ih => exact (StrandSide.of_modSlot ..).trans (ih _)

theorem coreOf_applyLayout (s : State) (k : Nat) (new : List (Nat × Tab NameEntry)) :
    ∃ l, coreOf (applyLayout s k new) k = { coreOf s k with slots := l } := by
  unfold applyLayout
  induction new generalizing s with
  | nil => exact ⟨_, rfl⟩
  | cons x r ih =>
    obtain ⟨l, hl⟩ := ih (modSlot s k x.1 fun y => { y with names := x.2 })
    exact ⟨l, by rw [List.foldl_cons, hl, modSlot, coreOf_setSlot_same]⟩

/-! ### Pauses (R52) -/

theorem pause_side (s : State) (k p : Nat) : StrandSide s (pause s k p) := .of_modCore ..

@[simp] theorem slotOf_pause (s : State) (k p j i : Nat) : slotOf (pause s k p) j i = slotOf s j i :=
  slotOf_modCore s k j i (by split <;> rfl)

theorem cycOf_side {s t : State} (h : StrandSide s t) (k : Nat) : cycOf t k = cycOf s k := by rw [h]; rfl

/-- The core of a key pauses for p cycles from this one on, or, in a pause, will after it. -/
def PauseAsked (s t : State) (k p : Nat) : Prop :=
  ((coreOf s k).pauseTo = none → (coreOf t k).pauseTo = some (cycOf s k + p)) ∧
    ((coreOf s k).pauseTo ≠ none → (coreOf t k).pauseTo = (coreOf s k).pauseTo ∧ (coreOf t k).pauses = (coreOf s k).pauses ++ [p])

theorem pauseAsked_pause {s u : State} {k p : Nat} {l : Tab Slot} (hside : StrandSide s u) (hcore : coreOf u k = { coreOf s k with slots := l }) :
    PauseAsked s (pause u k p) k p := by
  unfold PauseAsked pause
  rw [coreOf_modCore_same, hcore, cycOf_side hside]
  cases (coreOf s k).pauseTo <;> simp

theorem PauseAsked.goes {s t : State} {k p : Nat} (h : PauseAsked s t k p) (hk : k = t.cur.core) : PauseAsked s (goes s t) k p := by
  subst hk
  obtain ⟨l, hl⟩ := coreOf_goes s t
  unfold PauseAsked
  rw [hl]
  exact h

/-! ### A map replaced or released (R45, R48, R60, R61) -/

/-- A declared scalar as it stands in a new map: zero (R45). -/
def Decl.fresh (d : Decl) : NameEntry := { row := 0, bit := 0, width := d.width, signed := d.signed, mode := d.mode }

theorem tfind_zipIdx_fresh (ds : List Decl) (k n : Nat) :
    tfind ((ds.zipIdx k).map fun x => (x.2, Decl.fresh x.1)) (k + n) = (ds[n]?).map Decl.fresh := by
  induction ds generalizing k n with
  | nil => rfl
  | cons d ds ih =>
    cases n with
    | zero => simp [tfind]
    | succ n =>
      have := ih (k + 1) n
      rw [show k + 1 + n = k + (n + 1) by omega] at this
      simpa [tfind] using this

theorem tfind_freshNames (ds : List Decl) (n : Nat) : tfind (freshNames ds) n = (ds[n]?).map Decl.fresh := by
  have := tfind_zipIdx_fresh ds 0 n
  rwa [Nat.zero_add] at this

theorem placeNames_side {s t : State} {k slot : Nat} {names : Tab NameEntry} (h : placeNames s k slot names = .inr t) : StrandSide s t := by
  unfold placeNames at h
  dsimp only at h
  split at h
  · cases h; exact .of_modSlot ..
  · split at h <;> cases h
    exact (applyLayout_side ..).trans (pause_side ..)

/-- Placed, first-fit or by compaction, a slot has the names that it was to have. -/
theorem placeNames_decls {s t : State} {k slot : Nat} {names : Tab NameEntry} (h : placeNames s k slot names = .inr t) :
    SameDecls names (slotOf t k slot).names := by
  unfold placeNames at h
  dsimp only at h
  split at h
  · next u hu =>
    cases h
    rw [slotOf_modSlot_same]
    exact seatNames_decls hu
  · next n hn =>
    split at h
    · cases h
    · next new m hc =>
      cases h
      obtain ⟨laid, kept⟩ := compact_decls hc
      have hne : names ≠ [] := by rintro rfl; cases hn
      have given := applyLayout_decls (k := k) laid s (.inr (kept hne))
      rwa [namesFor_same, ← slotOf_pause _ k (8 + 2 * m)] at given

theorem placeMap_side {s t : State} {k slot : Nat} {img : Image} (h : placeMap s k slot img = .inr t) : StrandSide s t := by
  unfold placeMap at h
  split at h
  · cases h
  · next hn =>
    split at h
    · cases h; exact (placeNames_side hn).trans (.of_modSlot ..)
    · split at h <;> cases h
      exact (placeNames_side hn).trans (.of_modSlot ..)

/-- A map placed: the slot declares the image's scalars. -/
theorem placeMap_decls {s t : State} {k slot : Nat} {img : Image} (h : placeMap s k slot img = .inr t) :
    SameDecls (freshNames img.scalars) (slotOf t k slot).names := by
  unfold placeMap at h
  split at h
  · cases h
  · next hn =>
    split at h
    · cases h; rw [slotOf_modSlot_same]; exact placeNames_decls hn
    · split at h <;> cases h
      rw [slotOf_modSlot_same]; exact placeNames_decls hn

/-- What a declaration of a map says and what it holds do not depend on its seat. -/
theorem SameDecls.map_eq {α : Type} {t u : Tab NameEntry} (h : SameDecls t u) {g : NameEntry → α} (hg : ∀ e, g e.unseated = g e) (n : Nat) :
    (tfind u n).map g = (tfind t n).map g := by
  have seatless : ∀ v : Tab NameEntry, ((tfind v n).map NameEntry.unseated).map g = (tfind v n).map g := fun v => by
    rw [Option.map_map]; exact congrArg (fun f => (tfind v n).map f) (funext hg)
  rw [← seatless u, h n, seatless t]

theorem awaitNames_quiet {s : State} (h : namesQuiet s s.cur.core s.cur.slot = true) : awaitNames s = .ok () s := if_pos h

/-- What goes with another map of the strand of the issue latch: its ownership of the sequencer ends, and seeds are tried again (R49, R254). -/
def remapped (s : State) : State := namesFreed (endOwnership s s.cur.core s.cur.slot) s.cur.core

theorem remapped_side (s : State) : StrandSide s (remapped s) := (endOwnership_side ..).trans (namesFreed_side ..)

@[simp] theorem slotOf_remapped (s : State) (k i : Nat) : slotOf (remapped s) k i = slotOf s k i := by
  rw [remapped, slotOf_namesFreed, slotOf_endOwnership]

theorem remapped_clusters (s : State) : (remapped s).clusters = s.clusters := by
  unfold remapped namesFreed endOwnership
  split <;> split <;> rfl

/-- MAPLD's body once the image is read and valid, the names quiet and their places found (R60). -/
theorem mapldBody_ok {b c : Name} {disp : BitVec 16} {s s1 s2 s3 s4 s5 : State} {w : Word} {x : Int} {hd ps : List Parcel} {img : Image}
    (hw : readWindow b false s = .ok w s1) (hx : readName c s1 = .ok x s2) (hhd : readParcels w (x + disp.toInt) 2 s2 = .ok hd s3)
    (hps : readParcels w (x + disp.toInt) (imageLength (hd.getD 0 0#16).toNat (hd.getD 1 0#16).toNat) s3 = .ok ps s4)
    (himg : parseImage false (decide (14 ≤ s4.cur.slot)) ps = .inr img) (hq : namesQuiet s4 s4.cur.core s4.cur.slot = true)
    (hp : placeMap s4 s4.cur.core s4.cur.slot img = .inr s5) :
    mapldBody b c disp s = .ok () (remapped s5) := by
  have hc : s5.cur = s4.cur := (placeMap_side hp).cur
  simp only [mapldBody, hw, Ans.bind, hx, hhd, hps, Ans.readThen, himg, awaitNames_quiet hq, hp, remapped, hc]

theorem releaseMap_of_hasNames {s : State} (h : hasNames (curSlot s) = true) : releaseMap s = remapped (modCur s releaseNames) := if_pos h

theorem releaseMap_of_bare {s : State} (h : ¬ hasNames (curSlot s) = true) : releaseMap s = s := if_neg h

/-- Names and vector ids released change the declarations of their strand alone (R61). -/
@[simp] theorem curSlot_releaseMap (s : State) : curSlot (releaseMap s) = releaseNames (curSlot s) := by
  by_cases h : hasNames (curSlot s) = true
  · rw [releaseMap_of_hasNames h, curSlot, slotOf_remapped, (remapped_side _).cur]
    exact curSlot_modCur s releaseNames
  · obtain ⟨hn, hv⟩ : (curSlot s).names = [] ∧ (curSlot s).vecs = [] := by simpa [hasNames] using h
    rw [releaseMap_of_bare h, releaseNames, ← hn, ← hv]

theorem slotOf_releaseMap_ne (s : State) {i : Nat} (h : i ≠ s.cur.slot) : slotOf (releaseMap s) s.cur.core i = slotOf s s.cur.core i := by
  by_cases hn : hasNames (curSlot s) = true
  · rw [releaseMap_of_hasNames hn, slotOf_remapped]
    exact slotOf_setSlot_ne _ _ h
  · rw [releaseMap_of_bare hn]

theorem releaseMap_clusters (s : State) : (releaseMap s).clusters = s.clusters := by
  by_cases h : hasNames (curSlot s) = true
  · rw [releaseMap_of_hasNames h, remapped_clusters]; rfl
  · rw [releaseMap_of_bare h]

theorem releaseMap_side (s : State) : StrandSide s (releaseMap s) := by
  by_cases h : hasNames (curSlot s) = true
  · rw [releaseMap_of_hasNames h]; exact (StrandSide.of_modSlot ..).trans (remapped_side _)
  · rw [releaseMap_of_bare h]; exact .refl s

theorem maprel_completes {s : State} (h : namesQuiet s s.cur.core s.cur.slot = true) : Completes .maprel s (goes s (releaseMap s)) := by
  show execMaprel s = _
  exact run_ok (by simp only [awaitNames_quiet h, Ans.bind]) (releaseMap_side s).cur

end Sys2Proof.Machine

namespace Sys2Proof.Claims

open Sys2Proof.Machine

/-- Settles O18: reading the image leaves memory and latch as they were, placing it keeps what it declares, first-fit or by compaction, and a
release empties both tables. -/
theorem mapReplaced : Obligations.MapReplaced := by
  unfold Obligations.MapReplaced
  refine ⟨fun b c disp s s1 s2 s3 s4 s5 w x hd ps img hw hx hhd hps himg hq hp => ?_, fun s hq => ?_⟩
  · have operands : StrandSide s s2 := (readWindow_side hw).trans (readName_ok hx)
    have image : ReadSide s2 s4 := (readParcels_side hhd).trans (readParcels_side hps)
    have hcur : s4.cur = s.cur := image.cur.trans operands.cur
    rw [← hcur] at himg hq hp
    have placed := placeMap_side hp
    have side : StrandSide s4 (remapped s5) := placed.trans (remapped_side s5)
    have slot : curSlot (remapped s5) = slotOf s5 s4.cur.core s4.cur.slot := by rw [curSlot, side.cur, slotOf_remapped]
    refine ⟨_, run_ok (mapldBody_ok hw hx hhd hps himg hq hp) (side.cur.trans hcur), ?_, fun a => ?_, fun n => ?_⟩
    · rw [curSlot_goes]; rfl
    · rw [goes_mem, side.mem, image.mem, operands.mem]
    · rw [curSlot_goes, slot]
      exact ((placeMap_decls hp).map_eq (fun _ => rfl) n).trans (by rw [tfind_freshNames, Option.map_map]; rfl)
  · have hcur := (releaseMap_side s).cur
    refine ⟨_, maprel_completes hq, ?_, ?_, releaseMap_clusters s, fun j hj => ?_⟩
    · rw [curSlot_goes, curSlot_releaseMap]; rfl
    · exact ((releaseMap_side s).trans (goes_side ..)).device
    · rw [← slotOf_releaseMap_ne s hj, ← hcur]
      exact slotOf_goes_ne s _ (by rw [hcur]; exact hj)

end Sys2Proof.Claims

/-! ### One name reshaped (R57, R62, R64) -/

namespace Sys2Proof.Machine

open Sys2Proof.Claims

theorem isFixed_of_declared {n : Name} (h : n.toNat < 240) : isFixed n = false := by simp [isFixed]; omega

theorem isFixed_of_fixed {n : Name} (h : 240 ≤ n.toNat) : isFixed n = true := by simp [isFixed, h]

theorem mapName_declared {n : Name} {s : State} {e : NameEntry} (hn : n.toNat < 240) (he : nameOf s s.cur.core s.cur.slot n = some e) :
    mapName n s = .ok e s := by simp [mapName, isFixed_of_declared hn, he]

theorem awaitName_quiet {n : Name} {s : State} (h : outstanding s s.cur.core s.cur.slot n = false) : awaitName n s = .ok () s := by
  simp [awaitName, h]

/-! What a name's entry set leaves of the names and of the core. -/

theorem nameOf_setName (s : State) (k i : Nat) (n : Name) (e : NameEntry) : nameOf (setName s k i n e) k i n = some e := by
  simp [nameOf, setName]

theorem coreOf_setName (s : State) (k i : Nat) (n : Name) (e : NameEntry) : ∃ l, coreOf (setName s k i n e) k = { coreOf s k with slots := l } :=
  ⟨_, coreOf_setSlot_same ..⟩

theorem sameNames_setName (s : State) (n : Name) (e : NameEntry) :
    SameNames (curSlot s) (slotOf (setName s s.cur.core s.cur.slot n e) s.cur.core s.cur.slot) [n] := by
  intro m hm
  rw [setName, slotOf_modSlot_same]
  exact tfind_tput_ne _ _ fun h => hm (by simp [BitVec.eq_of_toNat_eq h])

/-- One name of the strand has become another, and the strand goes on at next: what the statements say of it. -/
structure Reshaped (s t : State) (n : Name) (f : NameEntry) : Prop where
  name : nameOf t s.cur.core s.cur.slot n = some f
  pc : (curSlot t).pc = nextOf s.cur.pc s.cur.h
  others : SameNames (curSlot s) (curSlot t) [n]
  device : SameDevice s t

/-- A body that sets one name of its strand, and does not touch the strand's other names, reshapes that name. -/
theorem reshaped_goes {s u : State} {n : Name} {e : NameEntry} (side : StrandSide s u)
    (hu : (slotOf u s.cur.core s.cur.slot).names = (slotOf (setName s s.cur.core s.cur.slot n e) s.cur.core s.cur.slot).names) :
    Reshaped s (goes s u) n e := by
  have hcur := side.cur
  have names : (slotOf (goes s u) s.cur.core s.cur.slot).names = (slotOf (setName s s.cur.core s.cur.slot n e) s.cur.core s.cur.slot).names := by
    rw [← hu, ← hcur]; exact names_goes s u _
  refine ⟨?_, by rw [curSlot_goes]; rfl, fun m hm => ?_, (side.trans (goes_side s u)).device⟩
  · rw [nameOf, names]; exact nameOf_setName ..
  · rw [curSlot, goes_cur, hcur, names]
    exact sameNames_setName s n e m hm

section
variable {s : State} {b : Name} {e : NameEntry} {w : BitVec 7}

/-- RESIZE of a declared name without a write-back outstanding narrows it, widens it or leaves it (R62). -/
theorem exec_resize (hb : b.toNat < 240) (he : nameOf s s.cur.core s.cur.slot b = some e) (hq : outstanding s s.cur.core s.cur.slot b = false) :
    exec (.resize b w) s = run (fun s => if w.toNat < e.width then narrow b e w.toNat s else if e.width < w.toNat then widen b e w.toNat s
      else .ok () s) s := by
  show execResize b w s = _
  unfold execResize run
  simp only [mapName_declared hb he, awaitName_quiet hq, Ans.bind]

/-! The four ends of a widening (R51): in place, by a move, by a compaction, or none. -/

theorem widen_stays {w' : Nat} (hfree : freeRun (occExcept s s.cur.core s.cur.slot b) e.row e.bit w' = true) :
    widen b e w' s = .ok () (setName s s.cur.core s.cur.slot b (e.widened w')) := if_pos hfree

theorem widen_moves {w' r p : Nat} (hfull : freeRun (occExcept s s.cur.core s.cur.slot b) e.row e.bit w' = false)
    (hfit : firstFit (occExcept s s.cur.core s.cur.slot b) w' (domainOf s.cur.slot).1 (domainOf s.cur.slot).2 = some (r, p)) :
    widen b e w' s = .ok () (pause (setName s s.cur.core s.cur.slot b { e.widened w' with row := r, bit := p }) s.cur.core 6) := by
  simp [widen, hfull, hfit, NameEntry.widened]

theorem widen_without_place {w' : Nat} (hfull : freeRun (occExcept s s.cur.core s.cur.slot b) e.row e.bit w' = false)
    (hfit : firstFit (occExcept s s.cur.core s.cur.slot b) w' (domainOf s.cur.slot).1 (domainOf s.cur.slot).2 = none) :
    (∀ new m, compact (coreOf s s.cur.core) s.cur.slot (tput (curSlot s).names b.toNat (e.widened w')) = some (new, m) →
      widen b e w' s = .ok () (pause (applyLayout s s.cur.core new) s.cur.core (8 + 2 * m))) ∧
    (compact (coreOf s s.cur.core) s.cur.slot (tput (curSlot s).names b.toNat (e.widened w')) = none →
      widen b e w' s = .trap 0x06 (BitVec.ofNat 64 w')) := by
  unfold NameEntry.widened curSlot
  constructor
  · intro new m hc; simp [widen, hfull, hfit, hc]
  · intro hc; simp [widen, hfull, hfit, hc]

/-- A compaction for a widened name: it and every other name of the core keep what they declare and hold, seats apart. -/
theorem applyLayout_widened {w' m : Nat} {new : List (Nat × Tab NameEntry)}
    (hc : compact (coreOf s s.cur.core) s.cur.slot (tput (curSlot s).names b.toNat (e.widened w')) = some (new, m)) (i : Nat) :
    SameDecls (namesFor (coreOf s s.cur.core) s.cur.slot (tput (curSlot s).names b.toNat (e.widened w')) i)
      (slotOf (applyLayout s s.cur.core new) s.cur.core i).names := by
  obtain ⟨laid, kept⟩ := compact_decls hc
  refine applyLayout_decls laid s ?_
  by_cases hi : i = s.cur.slot
  · subst hi
    refine .inr (kept fun h => ?_)
    have found := tfind_tput_same (curSlot s).names b.toNat (e.widened w')
    rw [h] at found
    cases found
  · rw [namesFor_ne _ _ hi]
    exact .inl (.refl _)

variable (hb : b.toNat < 240) (he : nameOf s s.cur.core s.cur.slot b = some e) (hq : outstanding s s.cur.core s.cur.slot b = false)
include hb he hq

theorem resize_narrows {x : Int} {sat : Bool} (hw1 : 1 ≤ w.toNat) (hw64 : w.toNat ≤ 64) (hlt : w.toNat < e.width)
    (hf : fitTo e.value w.toNat e.signed e.mode = some (x, sat)) :
    ∃ t f, Completes (.resize b w) s t ∧ Reshaped s t b f ∧ f.value = x ∧ f = { e with width := w.toNat, bits := f.bits, poison := false } := by
  have side := StrandSide.of_putName s s.cur.core s.cur.slot b { e with width := w.toNat } x sat
  refine ⟨goes s _, NameEntry.store { e with width := w.toNat } x, ?_, reshaped_goes side ?_, ?_, rfl⟩
  · rw [Completes, exec_resize hb he hq]
    exact run_ok (by simp [hlt, narrow, hf]) side.cur
  · rw [putName, slotOf_raiseFlags]
  · exact NameEntry.value_store hw1 hw64 (fits_of_fitTo hw1 hf)

theorem resize_misfits (hlt : w.toNat < e.width) (hf : fitTo e.value w.toNat e.signed e.mode = none) :
    exec (.resize b w) s = .next (takeTrap s 0x05 (BitVec.ofInt 64 e.value)) := by
  rw [exec_resize hb he hq]
  exact run_trap (by simp [hlt, narrow, hf, wordOf])

/-- RESIZE to a greater width is the widening of the name. -/
theorem exec_resize_wider (hlt : e.width < w.toNat) : exec (.resize b w) s = run (widen b e w.toNat) s := by
  rw [exec_resize hb he hq]
  simp only [run, if_neg (Nat.lt_asymm hlt), if_pos hlt]

theorem resize_stays (hlt : e.width < w.toNat) (hfree : freeRun (occExcept s s.cur.core s.cur.slot b) e.row e.bit w.toNat = true) :
    ∃ t, Completes (.resize b w) s t ∧ Reshaped s t b (e.widened w.toNat) := by
  refine ⟨_, ?_, reshaped_goes (StrandSide.of_setName ..) rfl⟩
  rw [Completes, exec_resize_wider hb he hq hlt]
  exact run_ok (widen_stays hfree) rfl

theorem resize_moves {r p : Nat} (hlt : e.width < w.toNat) (hfull : freeRun (occExcept s s.cur.core s.cur.slot b) e.row e.bit w.toNat = false)
    (hfit : firstFit (occExcept s s.cur.core s.cur.slot b) w.toNat (domainOf s.cur.slot).1 (domainOf s.cur.slot).2 = some (r, p)) :
    ∃ t, Completes (.resize b w) s t ∧ Reshaped s t b { e.widened w.toNat with row := r, bit := p } ∧ PauseAsked s t s.cur.core 6 := by
  obtain ⟨l, hl⟩ := coreOf_setName s s.cur.core s.cur.slot b { e.widened w.toNat with row := r, bit := p }
  have set := StrandSide.of_setName s s.cur.core s.cur.slot b { e.widened w.toNat with row := r, bit := p }
  have side := set.trans (pause_side _ s.cur.core 6)
  refine ⟨goes s _, ?_, reshaped_goes side (by rw [slotOf_pause]), (pauseAsked_pause set hl).goes (congrArg Cur.core side.cur).symm⟩
  rw [Completes, exec_resize_wider hb he hq hlt]
  exact run_ok (widen_moves hfull hfit) side.cur

theorem resize_compacts {m : Nat} {new : List (Nat × Tab NameEntry)} (hlt : e.width < w.toNat)
    (hfull : freeRun (occExcept s s.cur.core s.cur.slot b) e.row e.bit w.toNat = false)
    (hfit : firstFit (occExcept s s.cur.core s.cur.slot b) w.toNat (domainOf s.cur.slot).1 (domainOf s.cur.slot).2 = none)
    (hc : compact (coreOf s s.cur.core) s.cur.slot (tput (curSlot s).names b.toNat (e.widened w.toNat)) = some (new, m)) :
    ∃ t f, Completes (.resize b w) s t ∧ nameOf t s.cur.core s.cur.slot b = some f ∧ f = { e.widened w.toNat with row := f.row, bit := f.bit } ∧
      (curSlot t).pc = nextOf s.cur.pc s.cur.h ∧ PauseAsked s t s.cur.core (8 + 2 * m) ∧
      (∀ i n, (i ≠ s.cur.slot ∨ n ≠ b.toNat) → (tfind (slotOf t s.cur.core i).names n).map NameEntry.unseated =
        (tfind (slotOf s s.cur.core i).names n).map NameEntry.unseated) ∧ SameDevice s t := by
  obtain ⟨l, hl⟩ := coreOf_applyLayout s s.cur.core new
  have set := applyLayout_side s s.cur.core new
  have side := set.trans (pause_side _ s.cur.core (8 + 2 * m))
  have kept := applyLayout_widened hc
  have names : ∀ i, (slotOf (goes s (pause (applyLayout s s.cur.core new) s.cur.core (8 + 2 * m))) s.cur.core i).names =
      (slotOf (applyLayout s s.cur.core new) s.cur.core i).names := fun i => by
    rw [← slotOf_pause (applyLayout s s.cur.core new) s.cur.core (8 + 2 * m)]
    have := names_goes s (pause (applyLayout s s.cur.core new) s.cur.core (8 + 2 * m)) i
    rwa [side.cur] at this
  have own := kept s.cur.slot
  rw [namesFor_same] at own
  obtain ⟨f, hf, hshape⟩ := own.find (tfind_tput_same ..)
  refine ⟨goes s _, f, ?_, by rw [nameOf, names]; exact hf, hshape, by rw [curSlot_goes]; rfl,
    (pauseAsked_pause set hl).goes (congrArg Cur.core side.cur).symm, fun i n hin => ?_, (side.trans (goes_side ..)).device⟩
  · rw [Completes, exec_resize_wider hb he hq hlt]
    exact run_ok ((widen_without_place hfull hfit).1 new m hc) side.cur
  · rw [names]
    by_cases hi : i = s.cur.slot
    · subst hi
      rw [own n, tfind_tput_ne _ _ (hin.resolve_left (fun h => h rfl))]
      rfl
    · rw [kept i n, namesFor_ne _ _ hi]
      rfl

theorem resize_without_place (hlt : e.width < w.toNat)
    (hfull : freeRun (occExcept s s.cur.core s.cur.slot b) e.row e.bit w.toNat = false)
    (hfit : firstFit (occExcept s s.cur.core s.cur.slot b) w.toNat (domainOf s.cur.slot).1 (domainOf s.cur.slot).2 = none)
    (hc : compact (coreOf s s.cur.core) s.cur.slot (tput (curSlot s).names b.toNat (e.widened w.toNat)) = none) :
    exec (.resize b w) s = .next (takeTrap s 0x06 (BitVec.ofNat 64 w.toNat)) := by
  rw [exec_resize_wider hb he hq hlt]
  exact run_trap ((widen_without_place hfull hfit).2 hc)

theorem resize_same (h : w.toNat = e.width) : Completes (.resize b w) s (goes s s) := by
  rw [Completes, exec_resize hb he hq]
  exact run_ok (by simp [h]) rfl

theorem setmode_reshapes (g : BitVec 1) (m : BitVec 2) :
    ∃ t, Completes (.setmode b g m) s t ∧ Reshaped s t b { e with signed := g == 1#1, mode := modeOfCode m.toNat } := by
  refine ⟨_, ?_, reshaped_goes (StrandSide.of_setName ..) rfl⟩
  show execSetmode b g m s = _
  exact run_ok (by simp only [mapName_declared hb he, awaitName_quiet hq, Ans.bind]) rfl

end

/-! ### Arrays of vector ids reshaped (R50, R63) -/

theorem seatVecs_nil (free : List Nat) : seatVecs free [] = .inr [] := by cases free <;> rfl

/-- Vector ids seated are the ids asked for. -/
theorem seatVecs_ids {free : List Nat} {ids : List (Nat × Nat × Nat)} {t : Tab VecEntry} (h : seatVecs free ids = .inr t) :
    t.map (·.1) = ids.map (·.1) := by
  induction ids generalizing free t with
  | nil => rw [seatVecs_nil] at h; cases h; rfl
  | cons x r ih =>
    cases free with
    | nil => cases h
    | cons row fr =>
      unfold seatVecs at h
      split at h
      · cases h
      · next hu => cases h; simp [ih hu]

/-- Where there are rows enough every vector id is seated. -/
theorem seatVecs_of_le {free : List Nat} {ids : List (Nat × Nat × Nat)} (h : ids.length ≤ free.length) : ∃ t, seatVecs free ids = .inr t := by
  induction ids generalizing free with
  | nil => exact ⟨[], seatVecs_nil _⟩
  | cons x r ih =>
    cases free with
    | nil => simp at h
    | cons row fr =>
      obtain ⟨t, ht⟩ := ih (Nat.le_of_succ_le_succ h)
      exact ⟨_, by rw [seatVecs, ht]⟩

/-- Where rows do not suffice the first vector id past them is left without one. -/
theorem seatVecs_of_lt {free : List Nat} {ids : List (Nat × Nat × Nat)} (h : free.length < ids.length) :
    seatVecs free ids = .inl (ids[free.length]'h).1 := by
  induction ids generalizing free with
  | nil => simp at h
  | cons x r ih =>
    cases free with
    | nil => rfl
    | cons row fr => rw [seatVecs, ih (Nat.lt_of_succ_lt_succ h)]; rfl

/-- Entries set one after another: a table lists what it listed and what it was given. -/
theorem isSome_tfind_foldl_tput {α : Type} {t u : Tab α} {n : Nat} (h : n ∈ t.map (·.1) ∨ (tfind u n).isSome = true) :
    (tfind (t.foldl (fun v x => tput v x.1 x.2) u) n).isSome = true := by
  induction t generalizing u with
  | nil => exact h.resolve_left (by simp)
  | cons x r ih =>
    refine ih ?_
    by_cases hx : n = x.1
    · subst hx; simp
    · refine h.imp (fun h => (List.mem_cons.1 h).resolve_left hx) fun h => ?_
      rwa [tfind_tput_ne _ _ hx]

/-- The ids that an array of old rows from its first id gains when it is to have n rows (R63). -/
def gainedIds (first old n : Nat) : List Nat := (List.range (n - old)).map fun j => first + old + j

/-- An id that an array cannot gain: there is none past 63, and no id is declared twice (R63). -/
def clashes (v : Tab VecEntry) (j : Nat) : Bool := decide (63 < j) || (tfind v j).isSome

theorem clashes_iff {v : Tab VecEntry} {j : Nat} : clashes v j = true ↔ 63 < j ∨ (tfind v j).isSome = true := by simp [clashes]

theorem find?_gainedIds_eq_some {v : Tab VecEntry} {first old n j : Nat} (hj : old ≤ j) (hn : j < n) (hc : clashes v (first + j) = true)
    (least : ∀ i, old ≤ i → i < j → ¬ clashes v (first + i) = true) : (gainedIds first old n).find? (clashes v) = some (first + j) := by
  rw [gainedIds, List.find?_map, Option.map_eq_some_iff]
  refine ⟨j - old, List.find?_range_eq_some.2 ⟨?_, List.mem_range.2 (by omega), fun i hi => ?_⟩, by omega⟩
  · rwa [Function.comp_apply, show first + old + (j - old) = first + j by omega]
  · have := least (old + i) (by omega) (by omega)
    simpa [Nat.add_assoc] using this

theorem find?_gainedIds_eq_none {v : Tab VecEntry} {first old n : Nat} (h : ∀ j, old ≤ j → j < n → ¬ clashes v (first + j) = true) :
    (gainedIds first old n).find? (clashes v) = none := by
  rw [List.find?_eq_none]
  intro x hx
  obtain ⟨i, hi, rfl⟩ := List.mem_map.1 hx
  have := List.mem_range.1 hi
  rw [Nat.add_assoc]
  exact h _ (by omega) (by omega)

/-- Rows of an array that the strand of the issue latch has placed. -/
def arrayRows (s : State) (first : Nat) : Nat := (arrayIds (curSlot s).vecs first).length

/-- The vector ids that the strand's array gains when it is to have n rows, each with its type and array. -/
def gainedVecs (s : State) (first n ty : Nat) : List (Nat × Nat × Nat) := (gainedIds first (arrayRows s first) n).map fun i => (i, ty, first)

/-- The rows of the quad's vector store that the strand's array can gain (R50). -/
def gainableRows (s : State) : List Nat := rowsFree (rowsTaken s (quadOfKey s.cur.core) s.cur.core s.cur.slot false)

/-- A strand with vector ids seated for it. -/
def Slot.gain (t : Tab VecEntry) (x : Slot) : Slot := { x with vecs := t.foldl (fun v e => tput v e.1 e.2) x.vecs }

/-- A strand whose array keeps only its first n rows. -/
def Slot.keepRows (first n : Nat) (x : Slot) : Slot := { x with vecs := x.vecs.filter fun e => e.2.first != first || decide (e.1 < first + n) }

section
variable {s : State} {first n ty : Nat}

/-- An array that is to have no more rows than it has lets the ids past them go, and seeds are tried again if there are any (R49, R63). -/
theorem resizeArray_shrinks (h : n ≤ arrayRows s first) :
    resizeArray first n ty s = .ok () (modCur (if n < arrayRows s first then namesFreed s s.cur.core else s) (Slot.keepRows first n)) := by
  unfold arrayRows curSlot at h ⊢
  simp only [resizeArray, if_pos h]
  split
  · rw [namesFreed_modSlot, modCur, (namesFreed_side ..).cur]
    rfl
  · rfl

/-- An array that is to have more rows than it has: the ids to gain are tested, then seated at free rows (R63). -/
theorem resizeArray_grows (h : arrayRows s first < n) :
    (∀ j, (gainedIds first (arrayRows s first) n).find? (clashes (curSlot s).vecs) = some j →
      resizeArray first n ty s = .trap 0x02 (BitVec.ofNat 64 (min j 64))) ∧
    ((gainedIds first (arrayRows s first) n).find? (clashes (curSlot s).vecs) = none →
      (∀ j, seatVecs (gainableRows s) (gainedVecs s first n ty) = .inl j → resizeArray first n ty s = .trap 0x06 (BitVec.ofNat 64 j)) ∧
      (∀ t, seatVecs (gainableRows s) (gainedVecs s first n ty) = .inr t → resizeArray first n ty s = .ok () (modCur s (Slot.gain t)))) := by
  have grows : ¬ n ≤ (arrayIds (slotOf s s.cur.core s.cur.slot).vecs first).length := Nat.not_le.2 h
  unfold gainedVecs arrayRows curSlot gainedIds gainableRows clashes
  refine ⟨fun j hj => ?_, fun hnone => ⟨fun j hj => ?_, fun t ht => ?_⟩⟩
  · simp only [resizeArray, if_neg grows, hj]
    congr 2
    split <;> omega
  · simp only [resizeArray, if_neg grows, hnone, hj]
  · simp only [resizeArray, if_neg grows, hnone, ht]
    rfl

/-- A growth that completes has seated every id that it was to gain, and done nothing else (R63). -/
theorem resizeArray_grown {u : State} (h : arrayRows s first < n) (hu : resizeArray first n ty s = .ok () u) :
    ∃ t, seatVecs (gainableRows s) (gainedVecs s first n ty) = .inr t ∧ u = modCur s (Slot.gain t) := by
  obtain ⟨clash, free⟩ := resizeArray_grows (ty := ty) h
  cases hfind : (gainedIds first (arrayRows s first) n).find? (clashes (curSlot s).vecs) with
  | some i => rw [clash i hfind] at hu; cases hu
  | none =>
    obtain ⟨stuck, placed⟩ := free hfind
    cases hseat : seatVecs (gainableRows s) (gainedVecs s first n ty) with
    | inl i => rw [stuck i hseat] at hu; cases hu
    | inr t => rw [placed t hseat] at hu; cases hu; exact ⟨t, rfl, rfl⟩

theorem resizeArray_gains {u : State} (h : arrayRows s first < n) (hu : resizeArray first n ty s = .ok () u) {j : Nat} (hj : arrayRows s first ≤ j)
    (hn : j < n) : (tfind (curSlot u).vecs (first + j)).isSome = true := by
  obtain ⟨t, hseat, rfl⟩ := resizeArray_grown h hu
  rw [curSlot_modCur]
  refine isSome_tfind_foldl_tput (.inl ?_)
  rw [seatVecs_ids hseat, gainedVecs, List.map_map]
  exact List.mem_map.2 ⟨first + j, List.mem_map.2 ⟨j - arrayRows s first, List.mem_range.2 (by omega), by omega⟩, rfl⟩

theorem resizeArray_side {u : State} (hu : resizeArray first n ty s = .ok () u) : StrandSide s u := by
  by_cases h : n ≤ arrayRows s first
  · rw [resizeArray_shrinks h] at hu
    cases hu
    split
    · exact (namesFreed_side ..).trans (.of_modSlot ..)
    · exact .of_modSlot ..
  · obtain ⟨t, -, rfl⟩ := resizeArray_grown (Nat.lt_of_not_le h) hu
    exact .of_modSlot ..

@[simp] theorem length_gainedVecs : (gainedVecs s first n ty).length = n - arrayRows s first := by simp [gainedVecs, gainedIds]

/-- A growth without a clash completes where the free rows suffice (R50, R63). -/
theorem resizeArray_fits (hn : n ≤ arrayRows s first + (gainableRows s).length) (h : arrayRows s first < n)
    (hc : ∀ j, arrayRows s first ≤ j → j < n → ¬ clashes (curSlot s).vecs (first + j) = true) :
    ∃ t, resizeArray first n ty s = .ok () (modCur s (Slot.gain t)) := by
  obtain ⟨t, ht⟩ := seatVecs_of_le (free := gainableRows s) (ids := gainedVecs s first n ty) (by rw [length_gainedVecs]; omega)
  exact ⟨t, ((resizeArray_grows h).2 (find?_gainedIds_eq_none hc)).2 t ht⟩

/-- Where they do not suffice, it traps with the first id left without one (R63). -/
theorem resizeArray_without_rows (hn : arrayRows s first + (gainableRows s).length < n)
    (hc : ∀ j, arrayRows s first ≤ j → j < n → ¬ clashes (curSlot s).vecs (first + j) = true) :
    resizeArray first n ty s = .trap 0x06 (BitVec.ofNat 64 (first + arrayRows s first + (gainableRows s).length)) := by
  refine ((resizeArray_grows (by omega)).2 (find?_gainedIds_eq_none hc)).1 _ ?_
  rw [seatVecs_of_lt (by rw [length_gainedVecs]; omega)]
  simp [gainedVecs, gainedIds]

/-- RESIZEV of an array, its strand's names quiet, is its effect on the allocator (R63). -/
theorem exec_resizev {v : BitVec 6} {c : BitVec 7} {e : VecEntry} (he : tfind (curSlot s).vecs v.toNat = some e) (hf : e.first = v.toNat)
    (hq : namesQuiet s s.cur.core s.cur.slot = true) : exec (.resizev v c) s = run (resizeArray v.toNat c.toNat e.ty) s := by
  show execResizev v c s = _
  simp only [execResizev, run, he, hf, bne_self_eq_false, Bool.false_eq_true, if_false, awaitNames_quiet hq, Ans.bind]

end

/-! ### Queries of a declaration (R65) -/

theorem query_declared {f : NameEntry → Nat} {g : Nat → Nat} {b c : Name} {s : State} {e : NameEntry} (hc : c.toNat < 240)
    (he : nameOf s s.cur.core s.cur.slot c = some e) : query f g b c s = writeName b (f e : Int) s := by
  simp [query, isFixed_of_declared hc, he]

theorem query_fixed {f : NameEntry → Nat} {g : Nat → Nat} {b c : Name} {s : State} (hc : 240 ≤ c.toNat) :
    query f g b c s = writeName b (g c.toNat : Int) s := by
  simp [query, isFixed_of_fixed hc]

/-- WIDTHOF asks for the width that widthOfName gives. -/
theorem query_width {b c : Name} {s : State} {w : Nat} (h : widthOfName c s = .ok w s) :
    query (·.width) fixedWidth b c s = writeName b (w : Int) s := by
  by_cases hc : c.toNat < 240
  · cases he : nameOf s s.cur.core s.cur.slot c with
    | none => simp [widthOfName, isFixed_of_declared hc, he] at h
    | some e =>
      rw [query_declared hc he]
      simp only [widthOfName, isFixed_of_declared hc, he, Bool.false_eq_true, if_false] at h
      cases h; rfl
  · rw [query_fixed (Nat.le_of_not_lt hc)]
    simp only [widthOfName, isFixed_of_fixed (Nat.le_of_not_lt hc), if_true] at h
    cases h; rfl

theorem run_query {f : NameEntry → Nat} {g : Nat → Nat} {b c : Name} {s u : State} {x : Int} (hq : query f g b c s = writeName b x s)
    (hu : writeName b x s = .ok () u) : run (query f g b c) s = .next (goes s u) :=
  run_ok (hq.trans hu) (writeName_ok hu).cur

/-! ### The codes of SETMODE (R40, R64) -/

theorem modeOfCode_eq (m : BitVec 2) : modeOfCode m.toNat = if m = 0#2 then .wrap else if m = 1#2 then .sat else .trap := by
  revert m; decide

end Sys2Proof.Machine

namespace Sys2Proof.Claims

open Sys2Proof.Machine

/-- Settles O19: each clause is a branch of narrowing, widening, placement or query. Where first-fit lands is the least free place, and a compaction
changes nothing of a name but its seat. -/
theorem namesReshapedAndQueried : Obligations.NamesReshapedAndQueried := by
  unfold Obligations.NamesReshapedAndQueried
  refine ⟨fun b s e hb he hq =>
      ⟨fun w hw1 hw64 h1 h64 => ⟨fun x sat hlt hf => ?narrower, resize_misfits hb he hq, fun hlt hfree => ?inPlace, ?elsewhere, resize_same hb he hq⟩,
        fun g m hm => ?setmode⟩,
    fun v n s e hv hf hq => ⟨fun hn => ?shrink, fun u hn hu => ?grow, ?refused⟩,
    fun b c s u => ⟨fun w hw hu => ?widthof, fun e hc he => ?declared, fun hc => ?fixed⟩⟩
  case narrower =>
    obtain ⟨t, f, ht, ⟨name, pc, others, device⟩, hval, hshape⟩ := resize_narrows hb he hq hw1 hw64 hlt hf
    exact ⟨t, f, ht, name, hval, hshape, pc, others, device⟩
  case inPlace =>
    obtain ⟨t, ht, name, pc, others, device⟩ := resize_stays hb he hq hlt hfree
    exact ⟨t, _, ht, name, NameEntry.value_widened h1 (Nat.le_of_lt hlt) hw64, rfl, pc, others, device⟩
  case elsewhere =>
    intro occ dom pauses hlt hfull
    refine ⟨fun r p hr hn hfree least => ?_, fun full => ⟨fun new m hc => ?_, fun hc => ?_⟩⟩
    · obtain ⟨t, ht, ⟨name, pc, others, device⟩, paused⟩ := resize_moves hb he hq hlt hfull (firstFit_of_least hr hn hfree least)
      exact ⟨t, _, ht, name, NameEntry.value_widened h1 (Nat.le_of_lt hlt) hw64, rfl, pc, paused, others, device⟩
    · obtain ⟨t, f, ht, name, hshape, pc, paused, others, device⟩ := resize_compacts hb he hq hlt hfull (firstFit_of_none full) hc
      refine ⟨t, f, ht, name, ?_, ?_, pc, paused, others, device⟩
      · rw [hshape]; exact NameEntry.value_widened h1 (Nat.le_of_lt hlt) hw64
      · rw [hshape]; rfl
    · exact resize_without_place hb he hq hlt hfull (firstFit_of_none full) hc
  case setmode =>
    obtain ⟨t, ht, name, pc, others, device⟩ := setmode_reshapes hb he hq g m
    rw [modeOfCode_eq] at name
    exact ⟨t, ht, name, pc, others, device⟩
  case shrink =>
    have kept : curSlot (if n.toNat < arrayRows s v.toNat then namesFreed s s.cur.core else s) = curSlot s := by
      split
      · exact curSlot_namesFreed ..
      · rfl
    have shrinks := resizeArray_shrinks (ty := e.ty) hn
    rw [Completes, exec_resizev hv hf hq, run_ok shrinks (resizeArray_side shrinks).cur, goes_modCur, kept]
    rfl
  case grow =>
    refine ⟨?_, fun j hj hle => resizeArray_gains hn hu hle hj⟩
    rw [Completes, exec_resizev hv hf hq]
    exact run_ok hu (resizeArray_side hu).cur
  case refused =>
    intro old free clash
    have noClash : ∀ j, ¬ clash j → ¬ clashes (curSlot s).vecs (v.toNat + j) = true := fun j hj h => hj (clashes_iff.1 h)
    refine ⟨fun j hj hn hc least => ?_, fun hn hc => ?_, fun hlt hn hc => ?_⟩
    · rw [exec_resizev hv hf hq]
      exact run_trap ((resizeArray_grows (Nat.lt_of_le_of_lt hj hn)).1 _
        (find?_gainedIds_eq_some hj hn (clashes_iff.2 hc) fun i hi hij => noClash i (least i hi hij)))
    · rw [exec_resizev hv hf hq]
      exact run_trap (resizeArray_without_rows hn fun j hj hjn => noClash j (hc j hj hjn))
    · obtain ⟨t, ht⟩ := resizeArray_fits (ty := e.ty) hn hlt fun j hj hjn => noClash j (hc j hj hjn)
      refine ⟨_, (exec_resizev hv hf hq).trans (run_ok ht (resizeArray_side ht).cur), ?_⟩
      rw [curSlot_goes, nextPc_eq_nextOf]
      rfl
  case widthof => exact run_query (query_width hw) hu
  case declared =>
    refine ⟨fun hu => run_query ?_ hu, fun hu => run_query ?_ hu⟩
    · rw [query_declared hc he]
      cases e.mode <;> cases e.signed <;> rfl
    · rw [query_declared hc he, Nat.mul_comm]
  case fixed => exact ⟨fun hu => run_query (query_fixed hc) hu, fun hu => run_query (query_fixed hc) hu⟩

end Sys2Proof.Claims

/-! ## Accesses leave memory as it was when they issue (R188)

The bytes change when an entry of a write queue is performed, not when the instruction sends it. The lemma about each of these instructions
holds of every property of memory, so also of being equal to the memory before. -/

namespace Sys2Proof.Machine

/-- A step whose answer keeps being equal to the memory before it changes no memory. -/
theorem mem_eq_of_answers {o : Host.Outcome State Fault Refusal} {s t : State} (ha : Answers (· = s.mem) o) (h : o = .next t) : t.mem = s.mem := by
  subst h
  exact ha

end Sys2Proof.Machine

namespace Sys2Proof.Claims

open Sys2Proof.Machine

/-- Settles O27, by the instruction: a load reads or sends a packet, what is stored only joins a queue, WIN writes a name, and a trap, a
wait or a hold writes no byte either. -/
theorem accessFrame : Obligations.AccessFrame := by
  unfold Obligations.AccessFrame
  intro s t a b c d size o sc d14 d10 d11 bits op
  suffices same : ∀ i ∈ _, Answers (· = s.mem) (exec i s) from fun i hi ht x => by rw [mem_eq_of_answers (same i hi) ht]
  simp only [List.forall_mem_cons]
  refine ⟨?ldq, ?ldb, ?ldg, ?ldacq, ?stq, ?stb, ?stg, ?strel, ?stfe, ?stff, ?fefull, ?amo, ?cas, ?red, ?win, List.forall_mem_nil _⟩
  case ldq => exact run_answers rfl (ldqBody_keeps rfl)
  case ldb => exact execLdb_answers rfl
  case ldg => exact execLdg_answers rfl
  case ldacq => exact execLdacq_answers rfl
  case stq => exact execStq_answers rfl
  case stb => exact execStb_answers rfl
  case stg => exact execStg_answers rfl
  case strel => exact execStrel_answers rfl
  case stfe | stff | fefull => exact run_answers rfl (feWrite_keeps rfl)
  case amo => exact execAmo_answers rfl
  case cas => exact execCas_answers rfl
  case red => exact execRed_answers rfl
  case win => exact execWin_answers rfl

end Sys2Proof.Claims

/-! ## Copies and their transfers (R217 to R227) -/

/-! ### How a body ends that does not complete -/

namespace Sys2Proof.Machine

open Sys2Proof.Claims

theorem run_trapIn {body : State → Ans Unit} {s t : State} {c : Nat} {v : Word} (h : body s = .trapIn c v t) : run body s = .next (takeTrap t c v) := by
  rw [run, h]; rfl

theorem run_trapRead {body : State → Ans Unit} {s t : State} {c : Nat} {v : Word} (h : body s = .trapRead c v t) :
    run body s = .next (takeTrap (keepReads s t) c v) := by
  rw [run, h]; rfl

theorem run_holdIn {body : State → Ans Unit} {s t : State} (h : body s = .holdIn t) :
    run body s = .next (modCur t fun x => { x with kept := x.taken ++ x.kept, taken := [] }) := by
  rw [run, h]; rfl

theorem Ans.readThen_trap {α β : Type} {f : α → State → Ans β} {a : α} {t : State} {c : Nat} {v : Word} (h : f a t = .trap c v) :
    (Ans.ok a t).readThen f = .trapRead c v t := by
  simp only [Ans.readThen, Ans.bind, h]

theorem Ans.readThen_of_no_trap {α β : Type} {f : α → State → Ans β} {a : α} {t : State} (h : ∀ c v, f a t ≠ .trap c v) :
    (Ans.ok a t).readThen f = f a t := by
  unfold Ans.readThen Ans.bind
  dsimp only
  split
  · next hf => exact absurd hf (h _ _)
  · rfl

theorem raisePoint_quiet {s : State} (h : (curSlot s).pendErr = none) : raisePoint s = .ok () s := by
  rw [raisePoint, h]

/-! ### What reading an operand leaves of the strand -/

theorem curSlot_settleQueue (s : State) (q : Nat) : (curSlot s).SameButQueued (curSlot (settleQueue s s.cur.core q)) := by
  unfold curSlot
  rw [(StrandSide.of_settleQueue s s.cur.core q).cur]
  exact slotOf_settleQueue ..

theorem curSlot_setDq (s : State) (q : Nat) (d : DataQueue) : curSlot (setDq s s.cur.core q d) = curSlot s := slotOf_setDq ..

theorem popHead_curSlot {q : Nat} {s t : State} {w : Word} (h : popHead q s = .ok w t) : (curSlot s).SameButQueued (curSlot t) := by
  unfold popHead at h
  dsimp only at h
  split at h
  · next es _ _ =>
    cases h
    have kept := curSlot_settleQueue (setDq s s.cur.core q { dqOf s s.cur.core q with entries := es }) q
    rw [curSlot_setDq] at kept
    rw [curSlot_modCur]
    exact kept.trans rfl
  · cases h

theorem popQueue_curSlot {q : Nat} {s t : State} {w : Word} (h : popQueue q s = .ok w t) : (curSlot s).SameButQueued (curSlot t) := by
  unfold popQueue at h
  dsimp only at h
  split at h
  · cases h; rw [curSlot_modCur]; rfl
  · exact popHead_curSlot h

theorem readName_curSlot {n : Name} {s t : State} {x : Int} (h : readName n s = .ok x t) : (curSlot s).SameButQueued (curSlot t) := by
  unfold readName at h
  split at h
  · obtain ⟨w, u, hp, h⟩ := bind_ok h
    cases h
    exact popQueue_curSlot hp
  · split at h
    · cases h; exact .refl _
    · split at h <;> cases h
      exact .refl _

theorem readWindow_curSlot {n : Name} {cmd : Bool} {s t : State} {w : Word} (h : readWindow n cmd s = .ok w t) :
    (curSlot s).SameButQueued (curSlot t) := by
  obtain ⟨x, u, hread, h⟩ := bind_ok h
  dsimp only at h
  split at h <;> cases h
  exact readName_curSlot hread

theorem ReadSide.curSlot {s t : State} (h : ReadSide s t) : curSlot t = curSlot s := by rw [h]; rfl

/-! ### Translation leaves the issue latch (R168 to R172) -/

theorem treeReads_side (s : State) (launch : Option Nat) (va : Nat) : ReadSide s (treeReads s launch va).2 := by
  unfold treeReads walkReads
  generalize false = b
  generalize walkWords .. = ws
  induction ws generalizing s b with
  | nil => exact .refl s
  | cons w ws ih => exact (memoryRead_side s w 8).trans (ih ..)

theorem findPage_cur {s t : State} {k va : Nat} {launch : Option Nat} {p : Page} (h : findPage s k launch va = some (p, t)) : t.cur = s.cur := by
  unfold findPage at h
  split at h
  · cases h; rfl
  · dsimp only at h
    split at h
    · cases h; rfl
    · split at h
      · cases h
      · split at h <;> cases h
        exact (treeReads_side ..).cur

theorem searched_cur (s : State) (k : Nat) (launch : Option Nat) (va : Nat) : (searched s k launch va).cur = s.cur := by
  unfold searched
  split
  · next h => exact findPage_cur h
  · exact (treeReads_side ..).cur

theorem translate_cur {s t : State} {k va pa : Nat} {launch : Option Nat} {n : Need} (h : translate s k launch va n = .inr (pa, t)) :
    t.cur = s.cur := by
  unfold translate at h
  split at h
  · cases h
  · next hp =>
    split at h <;> cases h
    exact findPage_cur hp

theorem unlessHeld_cur {s t : State} (h : t.cur = s.cur) : (unlessHeld s t).cur = s.cur := by
  unfold unlessHeld
  split
  · rfl
  · exact h

theorem routeCopy_cur (src : Word) (x : BitVec 32) (s : State) : (routeCopy src x s).2.cur = s.cur := by
  unfold routeCopy
  dsimp only
  split
  · exact unlessHeld_cur (searched_cur ..)
  · next ht =>
    have kept := unlessHeld_cur (translate_cur ht)
    repeat' split
    all_goals exact kept

theorem dropMap_cur (s : State) (k : Nat) : (dropMap s k).cur = s.cur := by
  unfold dropMap
  split <;> rfl

theorem dropMaps_cur (s : State) : (dropMaps s).cur = s.cur := by
  unfold dropMaps
  generalize s.cores.filter _ = l
  induction l generalizing s with
  | nil => rfl
  | cons e l ih => exact (ih _).trans (dropMap_cur s e.1)

/-! ### The layout record of a COPY (R217, R218) -/

theorem length_elems64 (n v : Nat) : (elems64 n v).length = n := by simp [elems64]

theorem recordOf_first {w : Word} {off : Int} {s t : State} {v : Nat} (hs : (curSlot s).snap = []) (hr : readWin w off 64 s = .ok v t) :
    recordOf w off s = .ok (elems64 8 v) t := by
  rw [recordOf, hs]
  dsimp only
  rw [hr]
  rfl

theorem recordOf_again {w : Word} {off : Int} {s : State} {ws : List Nat} (hs : (curSlot s).snap = ws.map (BitVec.ofNat 64)) (hl : ws.length = 8)
    (hw : ∀ w ∈ ws, w < 2 ^ 64) : recordOf w off s = .ok ws s := by
  have words : (ws.map (BitVec.ofNat 64)).map (·.toNat) = ws := by
    rw [List.map_map]
    exact (List.map_congr_left fun w h => Nat.mod_eq_of_lt (hw w h)).trans (List.map_id ws)
  unfold recordOf
  split
  · next hnil => rw [hs, List.map_eq_nil_iff] at hnil; subst hnil; cases hl
  · rw [hs, words]

theorem recordOf_side {w : Word} {off : Int} {s t : State} {ws : List Nat} (h : recordOf w off s = .ok ws t) : ReadSide s t := by
  unfold recordOf at h
  split at h
  · obtain ⟨v, u, hread, h⟩ := bind_ok h
    cases h
    exact readClean_side hread
  · cases h; exact .refl s

/-! ### A message leaves in the outbound buffer (R215) -/

/-- The entry that a message of the strand of the issue latch takes in its core's outbound buffer. -/
def outEntry (s : State) (target : Agent) (launch : Option Nat) (words : List Word) : OutEntry :=
  { msg := { core := s.cur.core, serial := s.serial, target := target, sender := selfAgent s s.cur.core s.cur.slot, launch := launch, words := words },
    slot := s.cur.slot, uid := (curSlot s).uid }

/-- The state with an entry at the end of the outbound buffer of the issuing strand's core. -/
def withOut (s : State) (e : OutEntry) : State :=
  modCore { s with serial := s.serial + 1 } s.cur.core fun c => { c with outbuf := c.outbuf ++ [e] }

theorem putOut_ok {target : Agent} {launch : Option Nat} {words : List Word} {s : State} (h : outRoom s s.cur.core s.cur.slot = true) :
    putOut target launch words s = .ok () (withOut s (outEntry s target launch words)) := if_pos h

theorem outbuf_goes_withOut (s t : State) (e : OutEntry) :
    (coreOf (goes s (withOut t e)) t.cur.core).outbuf = (coreOf t t.cur.core).outbuf ++ [e] := by
  obtain ⟨l, hl⟩ := coreOf_goes s (withOut t e)
  rw [show (withOut t e).cur = t.cur from rfl] at hl
  rw [hl, withOut, coreOf_modCore_same]
  rfl

/-! ### A transfer enters the table (R218, R223) -/

/-- The state with a copy's transfer entered under its id in the table of a logical core, the maps that have left force gone. -/
def withTransfer (cl l : Nat) (x : BitVec 32) (ws : List Nat) (streamer : Agent) (s : State) : State :=
  modLogical (dropMaps s) cl l fun y =>
    { y with xfers := tput y.xfers x.toNat { slot := s.cur.slot, uid := (curSlot s).uid, launch := (curSlot s).launch, hurry := hurryOf ws streamer s },
             nextXid := x + 1#32 }

theorem withTransfer_cur (cl l : Nat) (x : BitVec 32) (ws : List Nat) (streamer : Agent) (s : State) :
    (withTransfer cl l x ws streamer s).cur = s.cur := dropMaps_cur s

theorem copyFrom_without_room {a : Name} {ws : List Nat} {s : State}
    (h : copyRoom (logicalOf s (clusterOfKey s.cur.core) (unitId s s.cur.core)) = false) :
    copyFrom a ws s = .holdIn (modCur s fun y => { y with snap := ws.map (BitVec.ofNat 64) }) := by
  simp [copyFrom, h]

/-- The transfer id that a copy of the issuing strand takes (R218). -/
def copyXid (s : State) : BitVec 32 :=
  let y := logicalOf s (clusterOfKey s.cur.core) (unitId s s.cur.core)
  freeXid y.xfers 34 y.nextXid

/-- The words of a copy's request (R218, R220): its record, then the completion's target with the transfer id above it. -/
def requestWords (ws : List Nat) (issuer : Agent) (x : BitVec 32) : List Word :=
  (ws ++ [completionTarget issuer + x.toNat * 2 ^ 32]).map (BitVec.ofNat 64)

theorem length_requestWords (ws : List Nat) (issuer : Agent) (x : BitVec 32) : (requestWords ws issuer x).length = ws.length + 1 := by
  simp [requestWords]

theorem take_requestWords {ws : List Nat} {n : Nat} (h : ws.length = n) (issuer : Agent) (x : BitVec 32) :
    (requestWords ws issuer x).take n = ws.map (BitVec.ofNat 64) := by
  rw [requestWords, List.map_append]
  exact List.take_left' (by rw [List.length_map, h])

/-- With room, and its id written, a copy enters its transfer, and its request leaves for the streamer. -/
theorem copyFrom_with_room {a : Name} {ws : List Nat} {s t u : State} {g : Agent}
    (h : copyRoom (logicalOf s (clusterOfKey s.cur.core) (unitId s s.cur.core)) = true) (hw : writeName a ((copyXid s).toNat : Int) s = .ok () t)
    (hr : routeCopy (BitVec.ofNat 64 (ws.getD 0 0)) (copyXid s) t = (g, u)) :
    let v := withTransfer (clusterOfKey s.cur.core) (unitId s s.cur.core) (copyXid s) ws g u
    outRoom v v.cur.core v.cur.slot = true → copyFrom a ws s =
      .ok () (withOut v (outEntry v g (curSlot u).launch (requestWords ws (selfAgent u s.cur.core u.cur.slot) (copyXid s)))) := by
  intro v hroom
  rw [← putOut_ok hroom]
  unfold copyFrom
  dsimp only
  rw [if_neg (by rw [h]; decide), show freeXid .. = copyXid s from rfl, hw]
  simp only [Ans.seq, Ans.bind, hr]
  rfl

section

variable {a b c : Name} {disp : BitVec 16} {s s1 s2 s3 : State} {d : Word} {o : Int} {ws : List Nat}
  (hb : readWindow b false s = .ok d s1) (hc : readName c s1 = .ok o s2) (hr : recordOf d (o + disp.toInt) s2 = .ok ws s3)

include hb hc hr

theorem copyRead_cur : s3.cur = s.cur := (recordOf_side hr).cur.trans ((readName_ok hc).cur.trans (readWindow_side hb).cur)

theorem copyRead_pc : (curSlot s3).pc = (curSlot s).pc := by
  have reads : (curSlot s).SameButQueued (curSlot s2) := (readWindow_curSlot hb).trans (readName_curSlot hc)
  rw [(recordOf_side hr).curSlot, reads]

variable (hp : (curSlot s).pendErr = none)

include hp

theorem copyBody_bad {n : Nat} (hn : badLayout ws = some n) : copyBody a b c disp s = .trapRead 0x02 (BitVec.ofNat 64 n) s3 := by
  simp only [copyBody, raisePoint_quiet hp, Ans.seq, Ans.bind, hb, hc, hr]
  exact Ans.readThen_trap (by simp only [hn])

theorem copyBody_legal (hn : badLayout ws = none) (ht : ∀ k v, copyFrom a ws s3 ≠ .trap k v) : copyBody a b c disp s = copyFrom a ws s3 := by
  simp only [copyBody, raisePoint_quiet hp, Ans.seq, Ans.bind, hb, hc, hr]
  rw [Ans.readThen_of_no_trap (by simpa only [hn] using ht)]
  simp only [hn]

theorem copy_bad {n : Nat} (hn : badLayout ws = some n) :
    exec (.copy a b c disp) s = .next (takeTrap (keepReads s s3) 0x02 (BitVec.ofNat 64 n)) :=
  run_trapRead (copyBody_bad hb hc hr hp hn)

/-- A copy with a legal record and no room stays at its PC with the record, and no transfer and no message of its unit changes. -/
theorem copy_waits (hn : badLayout ws = none) (hroom : copyRoom (logicalOf s3 (clusterOfKey s3.cur.core) (unitId s3 s3.cur.core)) = false) :
    ∃ t, exec (.copy a b c disp) s = .next t ∧ (curSlot t).pc = (curSlot s).pc ∧ (curSlot t).snap = ws.map (BitVec.ofNat 64) ∧
      (∀ cl l, logicalOf t cl l = logicalOf s3 cl l) ∧ (coreOf t s3.cur.core).outbuf = (coreOf s3 s3.cur.core).outbuf := by
  have held := copyFrom_without_room (a := a) (ws := ws) hroom
  refine ⟨_, run_holdIn ((copyBody_legal hb hc hr hp hn (by simp [held])).trans held), ?pc, ?snap, fun cl l => rfl, ?outbuf⟩
  case pc => rw [curSlot_modCur, curSlot_modCur]; exact copyRead_pc hb hc hr
  case snap => rw [curSlot_modCur, curSlot_modCur]
  case outbuf => rw [modCur_modCur, modCur, modSlot, coreOf_setSlot_same]

/-- A copy with a legal record and room completes: its transfer is entered, and its request is at the end of the outbound buffer. -/
theorem copy_leaves {s4 s5 : State} {g : Agent} (hn : badLayout ws = none)
    (hroom : copyRoom (logicalOf s3 (clusterOfKey s3.cur.core) (unitId s3 s3.cur.core)) = true)
    (hw : writeName a ((copyXid s3).toNat : Int) s3 = .ok () s4) (hg : routeCopy (BitVec.ofNat 64 (ws.getD 0 0)) (copyXid s3) s4 = (g, s5)) :
    let s6 := withTransfer (clusterOfKey s3.cur.core) (unitId s3 s3.cur.core) (copyXid s3) ws g s5
    outRoom s6 s6.cur.core s6.cur.slot = true → Completes (.copy a b c disp) s (goes s (withOut s6
      (outEntry s6 g (curSlot s5).launch (requestWords ws (selfAgent s5 s3.cur.core s5.cur.slot) (copyXid s3))))) := by
  intro s6 hout
  have left := copyFrom_with_room hroom hw hg hout
  have routed : s5.cur = s4.cur := by rw [← routeCopy_cur (BitVec.ofNat 64 (ws.getD 0 0)) (copyXid s3) s4, hg]
  have cur : s6.cur = s.cur := calc
    s6.cur = s5.cur := withTransfer_cur ..
    _ = s4.cur := routed
    _ = s3.cur := (writeName_ok hw).cur
    _ = s.cur := copyRead_cur hb hc hr
  exact run_ok ((copyBody_legal hb hc hr hp hn (by simp [left])).trans left) cur

end

/-! ### Transfers in the table (R223 to R226) -/

theorem wordOf_setWidth (v : Int) : (wordOf v).setWidth 32 = BitVec.ofInt 32 v := by
  apply BitVec.eq_of_toNat_eq
  rw [BitVec.toNat_setWidth, wordOf, BitVec.toNat_ofInt, BitVec.toNat_ofInt]
  omega

theorem xwait_unknown {a : Name} {s u : State} {v : Int} (hr : readName a s = .ok v u)
    (ht : tfind (logicalOf u (clusterOfKey u.cur.core) (unitId u u.cur.core)).xfers (BitVec.ofInt 32 v).toNat = none) :
    Completes (.xwait a) s (goes s u) := by
  show execXwait a s = _
  refine run_ok ?_ (readName_ok hr).cur
  dsimp only
  rw [hr]
  simp only [Ans.bind, wordOf_setWidth, ht]

theorem xwait_failed {a : Name} {s u : State} {v : Int} {e : Xfer} {n : Nat} (hr : readName a s = .ok v u)
    (ht : tfind (logicalOf u (clusterOfKey u.cur.core) (unitId u u.cur.core)).xfers (BitVec.ofInt 32 v).toNat = some e) (he : e.result = some n) :
    exec (.xwait a) s = .next (takeTrap (modLogical s (clusterOfKey u.cur.core) (unitId u u.cur.core) fun y =>
      { y with xfers := tdel y.xfers (BitVec.ofInt 32 v).toNat }) n ((BitVec.ofInt 32 v).setWidth 64)) := by
  show execXwait a s = _
  refine run_trapIn ?_
  dsimp only
  rw [hr]
  simp only [Ans.bind, wordOf_setWidth, ht, he]

/-- A completion of a transfer in the table: the entry goes, or stays with its cause, and the completion joins the queue of its core where it has a
handler and the core is not sealed; nothing else of the logical core changes. -/
theorem completionArrival_known {g : Agent} {h : Word} {x : BitVec 32} {st : Word} {s : State} {e : Xfer}
    (he : tfind (logicalOf s (agentCluster g) (agentUnit g)).xfers x.toNat = some e) :
    let y := logicalOf s (agentCluster g) (agentUnit g)
    ∃ t, Completes (.completionArrival g h x st) s t ∧ SameDevice s t ∧
      logicalOf t (agentCluster g) (agentUnit g) = { y with
        xfers := if st.toNat % 256 ≠ 0 ∧ e.gone = false then tput y.xfers x.toNat { e with result := some (st.toNat % 256) } else tdel y.xfers x.toNat
        comps := if (coreOf s (agentKey s g)).sealed = false ∧ h ≠ 0#64 then y.comps ++ [⟨x, h, st, e.launch⟩] else y.comps } := by
  intro y
  have keeps : (st.toNat % 256 != 0 && !e.gone) = true ↔ st.toNat % 256 ≠ 0 ∧ e.gone = false := by simp
  have quiet : ((coreOf s (agentKey s g)).sealed || h == 0#64) = true ↔ ¬ ((coreOf s (agentKey s g)).sealed = false ∧ h ≠ 0#64) := by
    cases (coreOf s (agentKey s g)).sealed <;> simp
  show ∃ t, execCompletionArrival g h x st s = .next t ∧ _
  unfold execCompletionArrival
  simp only [he, keeps, quiet]
  by_cases hq : (coreOf s (agentKey s g)).sealed = false ∧ h ≠ 0#64
  · rw [if_neg (not_not_intro hq), if_pos hq]
    exact ⟨_, rfl, ((StrandSide.of_modLogical ..).trans (.of_modLogical ..)).device, by simp [y]⟩
  · rw [if_pos hq, if_neg hq]
    exact ⟨_, rfl, (StrandSide.of_modLogical ..).device, by simp [y]⟩

/-! ### Streamers (R221, R227) -/

theorem copyRequest_starts {k i n : Nat} {s t : State} {e : InboxEntry} (hk : isStreamer k = true)
    (he : (coreOf s k).inbox.find? (fun e => e.entry == n && !e.running) = some e) (hi : freeWork s k = some i)
    (hm : placeMap s k i routineMap = .inr t) :
    ∃ u, Completes (.copyRequest k n) s u ∧ (let y := slotOf u k i; y.status = .ready ∧ y.pc = s.dev.fwCopy ∧ y.msg = inboxWindow k n ∧
      y.handling = some n ∧ y.sender = e.sender) ∧ (∀ z ∈ (coreOf u k).inbox, z.entry = n → z.running = true) := by
  show ∃ u, execCopyRequest k n s = .next u ∧ _
  simp only [execCopyRequest, he, hk, hi, hm, if_true]
  refine ⟨_, rfl, ?_, ?_⟩
  · rw [slotOf_modCore _ _ _ _ rfl, slotOf_setSlot_same]
    exact ⟨rfl, rfl, rfl, rfl, rfl⟩
  · rw [coreOf_modCore_same]
    intro z hz hn
    obtain ⟨y, -, rfl⟩ := List.mem_map.1 hz
    split
    · rfl
    · next hne =>
      rw [if_neg hne] at hn
      exact absurd (beq_iff_eq.2 hn) hne

theorem atRest_of_running {s : State} {k : Nat} (x : Slot) (h : (coreOf s k).halted = false) : atRest s k x = x := by simp [atRest, h]

section

variable {s : State} {k i : Nat} {pc v : Word} (hs : (slotOf s k i).status = .stopped .trapped) (hh : (coreOf s k).halted = false)

include hs hh

theorem resumePacket_retries :
    Completes (.resumePacket k i 0#64 0#64 pc v) s (setSlot s k i { slotOf s k i with status := .ready, pc := (slotOf s k i).trapPc }) := by
  show execResumePacket k i 0#64 0#64 pc v s = _
  simp [execResumePacket, hs, atRest_of_running _ hh]

theorem resumePacket_aborts :
    Completes (.resumePacket k i 0#64 1#64 pc v) s
      (setSlot s k i { slotOf s k i with status := .ready, lnk := v, pc := pc, from' := (slotOf s k i).trapPc }) := by
  show execResumePacket k i 0#64 1#64 pc v s = _
  simp [execResumePacket, hs, atRest_of_running _ hh]

end

end Sys2Proof.Machine

namespace Sys2Proof.Claims

open Sys2Proof.Machine

/-- Settles O38, by the step: a COPY by what its operands, its record and the room come to; XWAIT, a request, a completion and a verdict by the
lemma about each. -/
theorem transferResult : Obligations.TransferResult := by
  unfold Obligations.TransferResult
  refine ⟨fun a b c disp s s1 s2 s3 d o ws hp hb hc hrec => ?copy,
    fun a s u v hr => ⟨xwait_unknown hr, fun e n => xwait_failed hr⟩,
    fun k i n s t e hk he hi hm => copyRequest_starts hk he hi hm,
    fun g h x st s e he => ?completion,
    fun k i pc v s hs hh => ?verdict⟩
  case copy =>
    obtain ⟨hr, hl⟩ : recordOf d (o + disp.toInt) s2 = .ok ws s3 ∧ ws.length = 8 := by
      obtain ⟨v, hs, hv, rfl⟩ | ⟨hs, hl, hw, rfl⟩ := hrec
      · exact ⟨recordOf_first hs hv, length_elems64 ..⟩
      · exact ⟨recordOf_again hs hl hw, hl⟩
    intro k cl l tab x
    refine ⟨fun n hn => copy_bad hb hc hr hp hn, fun hn hroom => ?waits, fun s4 hn hroom hw => ?leaves⟩
    case waits =>
      obtain ⟨t, ht, pc, snap, table, outbuf⟩ := copy_waits (a := a) hb hc hr hp hn hroom
      exact ⟨t, ht, pc, snap, table cl l, outbuf⟩
    case leaves =>
      split
      next g s5 hg =>
      intro s6 hout
      exact ⟨_, _, copy_leaves hb hc hr hp hn hroom hw hg hout, by rw [curSlot_goes]; rfl, outbuf_goes_withOut s s6 _, rfl,
        take_requestWords hl .., (length_requestWords ..).trans (by rw [hl]), rfl, rfl⟩
  case completion =>
    obtain ⟨t, ht, device, known⟩ := completionArrival_known (h := h) (st := st) he
    exact ⟨t, ht, by rw [known], by rw [known], device⟩
  case verdict =>
    exact ⟨resumePacket_retries hs hh, resumePacket_aborts hs hh⟩

end Sys2Proof.Claims
